-- ==== Sys2Proof/Word.lean ====
section
/-! DEFINITION. The word types of the machine: scalar registers hold 64 bits (R13), memory is bytes
(R5), the instruction stream is 32-bit parcels (R45). -/
namespace Sys2Proof

/-- A scalar register, an address or a doubleword (R13, R74). -/
abbrev Word := BitVec 64

/-- One byte of memory (R5). -/
abbrev Byte := BitVec 8

/-- One parcel of the instruction stream (R45). -/
abbrev Parcel := BitVec 32

/-- A six-bit register field (R49, R54). -/
abbrev Reg := BitVec 6

end Sys2Proof
end

