-- ==== Sys2Proof/Config.lean ====
section
/-! DEFINITION. The free values: what the spec leaves open, as constants that nothing can evaluate. Each is
applied to the counter `State.free`, or to the operands it depends on. -/
namespace Sys2Proof.Config

/-- An open choice between two outcomes (R10, R154, R416). -/
opaque freeBit : Nat → Bool

/-- An open choice for a page or a place, the same wherever its index is the same (R208, R416). -/
opaque freeStale : Nat → Nat → Bool

/-- An open 64-bit pattern, one bit per open choice (R237). -/
opaque freeWord : Nat → Nat → BitVec 64

/-- An open number. -/
opaque freeNat : Nat → Nat

/-- Cycles of a core that one step takes: each core counts its own (R6, log 10). -/
opaque cycles : Nat → Nat → Nat

/-- SHAKE256 with a 256-bit output (R457, R459). -/
opaque shake256 : List (BitVec 8) → BitVec 256

/-- KMAC256 with a 256-bit output over bytes, under a key and a customisation string (R458). -/
opaque kmac256 : BitVec 256 → String → List (BitVec 8) → BitVec 256

/-- K_TIC of a generation (R458). -/
opaque ticKey : Nat → BitVec 256

/-- The device identity's public key (R459). -/
opaque identityKey : BitVec 512

/-- The SLH-DSA-SHAKE-256s signature of 29,792 bytes under the device identity key (R459). -/
opaque identitySign : List (BitVec 8) → BitVec 238336

/-- Whether a firmware image's signature verifies against the fused key (R459). -/
opaque firmwareVerifies : List (BitVec 8) → Bool

/-- The version number a firmware image carries (R459). -/
opaque firmwareVersion : List (BitVec 8) → Nat

end Sys2Proof.Config
end

