-- ==== Sys2Proof/Syntax.lean ====
section
/-! DEFINITION. The instructions and device events of the opcode table, one constructor per row. The
first constructors are those with operands: the scalar parcels (R49-R53), CONVOY (R65-R67), the 64-bit
words of the six units (R54-R64) and the device's own events; then those without operands; last the
events that only the outside world raises. -/
namespace Sys2Proof

/-- The fields of a 64-bit word that the unit and operation do not fix (R54, Table 2-5). Bits [63:48]
are `x16`: the immediate of form 10, the modifiers otherwise. -/
structure W64 where
  /-- [63:48] -/
  x16 : BitVec 16
  /-- [47:42] -/
  rs : Reg
  /-- [41:38] -/
  fn4 : BitVec 4
  /-- [37] -/
  tail : Bool
  /-- [36] -/
  c2 : Bool
  /-- [35] -/
  c1 : Bool
  /-- [34:33] -/
  form : BitVec 2
  /-- [32:30] -/
  mask : BitVec 3
  /-- [29:24] -/
  vs2 : Reg
  /-- [23:18] -/
  vs1 : Reg
  /-- [17:12] -/
  vd : Reg
  deriving DecidableEq, Repr

/-- How a host write travels (R351): posted in order within its requester and traffic class, posted with Relaxed
Ordering, or through CXL.mem, which completes at the host (log 24). -/
inductive HostWay where
  | posted (cls : Nat)
  | relaxed
  | cxlMem
  deriving DecidableEq, Repr

/-- Where a host write goes, and how. -/
structure HostPlace where
  ha : BitVec 52
  way : HostWay := .posted 0
  deriving DecidableEq, Repr

/-- What a rank of another package sends before its data: its OP, NRANK and DTYPE (R190, log 22). -/
structure PeerHead where
  op : Nat
  nrank : Nat
  dtype : Nat
  deriving DecidableEq, Repr

/-- What arrives from a rank of another package. -/
structure PeerData where
  head : PeerHead
  bytes : List Byte
  deriving DecidableEq, Repr

/-- One constructor per row of the opcode table. A scalar instruction carries the fields of Table 2-4.
A vector-class instruction carries its `W64`; VCVT also carries its source code, which is part of op8
(R64). CONVOY carries its header parcel and its member words (R65). An event of the device carries what
distinguishes one occurrence from another: a hardware thread, a command, a host value. -/
inductive Instr where
  /-- ADD (R361). -/
  | add (d a b : Reg)
  /-- SUB (R361). -/
  | sub (d a b : Reg)
  /-- AND (R361). -/
  | and (d a b : Reg)
  /-- OR (R361). -/
  | or (d a b : Reg)
  /-- XOR (R361). -/
  | xor (d a b : Reg)
  /-- ANDN (R361). -/
  | andn (d a b : Reg)
  /-- SLL (R361). -/
  | sll (d a b : Reg)
  /-- SRL (R361). -/
  | srl (d a b : Reg)
  /-- SRA (R361). -/
  | sra (d a b : Reg)
  /-- SLT (R361). -/
  | slt (d a b : Reg)
  /-- SLTU (R361). -/
  | sltu (d a b : Reg)
  /-- MIN (R361). -/
  | min (d a b : Reg)
  /-- MAX (R361). -/
  | max (d a b : Reg)
  /-- MINU (R361). -/
  | minu (d a b : Reg)
  /-- MAXU (R361). -/
  | maxu (d a b : Reg)
  /-- MUL (R362). -/
  | mul (d a b : Reg)
  /-- MULH (R362). -/
  | mulh (d a b : Reg)
  /-- MULHU (R362). -/
  | mulhu (d a b : Reg)
  /-- DIV (R363). -/
  | div (d a b : Reg)
  /-- DIVU (R363). -/
  | divu (d a b : Reg)
  /-- REM (R363). -/
  | rem (d a b : Reg)
  /-- REMU (R363). -/
  | remu (d a b : Reg)
  /-- CLZ (R361). -/
  | clz (d a : Reg)
  /-- CTZ (R361). -/
  | ctz (d a : Reg)
  /-- CPOP (R361). -/
  | cpop (d a : Reg)
  /-- ADDI (R361). -/
  | addi (d a : Reg) (i : BitVec 12)
  /-- ANDI (R361). -/
  | andi (d a : Reg) (i : BitVec 12)
  /-- ORI (R361). -/
  | ori (d a : Reg) (i : BitVec 12)
  /-- XORI (R361). -/
  | xori (d a : Reg) (i : BitVec 12)
  /-- SLLI (R361). -/
  | slli (d a : Reg) (n : BitVec 6)
  /-- SRLI (R361). -/
  | srli (d a : Reg) (n : BitVec 6)
  /-- SRAI (R361). -/
  | srai (d a : Reg) (n : BitVec 6)
  /-- SLTI (R361). -/
  | slti (d a : Reg) (i : BitVec 12)
  /-- SLTIU (R361). -/
  | sltiu (d a : Reg) (i : BitVec 12)
  /-- LDIH (R364). -/
  | ldih (d : Reg) (i : BitVec 18)
  /-- ADDPC (R364). -/
  | addpc (d : Reg) (i : BitVec 18)
  /-- BEQ (R366). -/
  | beq (a b : Reg) (o : BitVec 12)
  /-- BNE (R366). -/
  | bne (a b : Reg) (o : BitVec 12)
  /-- BLT (R366). -/
  | blt (a b : Reg) (o : BitVec 12)
  /-- BGE (R366). -/
  | bge (a b : Reg) (o : BitVec 12)
  /-- BLTU (R366). -/
  | bltu (a b : Reg) (o : BitVec 12)
  /-- BGEU (R366). -/
  | bgeu (a b : Reg) (o : BitVec 12)
  /-- J (R366). -/
  | j (o : BitVec 24)
  /-- JTAB (R367). -/
  | jtab (a : Reg) (n : BitVec 12)
  /-- LB (R368). -/
  | lb (d a : Reg) (i : BitVec 12)
  /-- LBU (R368). -/
  | lbu (d a : Reg) (i : BitVec 12)
  /-- LH (R368). -/
  | lh (d a : Reg) (i : BitVec 12)
  /-- LHU (R368). -/
  | lhu (d a : Reg) (i : BitVec 12)
  /-- LW (R368). -/
  | lw (d a : Reg) (i : BitVec 12)
  /-- LWU (R368). -/
  | lwu (d a : Reg) (i : BitVec 12)
  /-- LD (R368). -/
  | ld (d a : Reg) (i : BitVec 12)
  /-- LDAQ (R370). -/
  | ldaq (d a : Reg) (s : BitVec 3)
  /-- SB (R368). -/
  | sb (d a : Reg) (i : BitVec 12)
  /-- SH (R368). -/
  | sh (d a : Reg) (i : BitVec 12)
  /-- SW (R368). -/
  | sw (d a : Reg) (i : BitVec 12)
  /-- SD (R368). -/
  | sd (d a : Reg) (i : BitVec 12)
  /-- SDRL (R370). -/
  | sdrl (d a : Reg) (s : BitVec 3)
  /-- AMOADD (R371). -/
  | amoadd (d a b : Reg) (s : BitVec 3) (o : BitVec 2)
  /-- AMOSWAP (R371). -/
  | amoswap (d a b : Reg) (s : BitVec 3) (o : BitVec 2)
  /-- AMOAND (R371). -/
  | amoand (d a b : Reg) (s : BitVec 3) (o : BitVec 2)
  /-- AMOOR (R371). -/
  | amoor (d a b : Reg) (s : BitVec 3) (o : BitVec 2)
  /-- AMOXOR (R371). -/
  | amoxor (d a b : Reg) (s : BitVec 3) (o : BitVec 2)
  /-- AMOMAX (R371). -/
  | amomax (d a b : Reg) (s : BitVec 3) (o : BitVec 2)
  /-- AMOMIN (R371). -/
  | amomin (d a b : Reg) (s : BitVec 3) (o : BitVec 2)
  /-- AMOMAXU (R371). -/
  | amomaxu (d a b : Reg) (s : BitVec 3) (o : BitVec 2)
  /-- AMOMINU (R371). -/
  | amominu (d a b : Reg) (s : BitVec 3) (o : BitVec 2)
  /-- CAS (R371). -/
  | cas (d a b : Reg) (s : BitVec 3) (o : BitVec 2)
  /-- FENCE (R341). -/
  | fence (k : BitVec 4) (sc : Bool) (s : BitVec 3)
  /-- BAR_COMPLETE (R375). -/
  | barComplete (t : Nat)
  /-- WAITC (R377). -/
  | waitc (d a t : Reg)
  /-- WAITV (R378). -/
  | waitv (d t : Reg)
  /-- WAITQ (R379). -/
  | waitq (d : Reg) (q : BitVec 3) (t : Reg)
  /-- WAIT_RETURN (R376). -/
  | waitReturn (t : Nat)
  /-- WAIT_TIMEOUT (R376). -/
  | waitTimeout (t : Nat)
  /-- SPAWN (R380). -/
  | spawn (d q l : Reg)
  /-- CSRR (R355). -/
  | csrr (d : Reg) (c : BitVec 12)
  /-- CSRW (R355). -/
  | csrw (d a : Reg) (c : BitVec 12)
  /-- CSRS (R355). -/
  | csrs (d a : Reg) (c : BitVec 12)
  /-- CSRC (R355). -/
  | csrc (d a : Reg) (c : BitVec 12)
  /-- TRAP (R383). -/
  | trap (i : BitVec 12)
  /-- BRK (R383). -/
  | brk (i : BitVec 12)
  /-- CONVOY (R67). -/
  | convoy (h : Parcel) (ms : List (BitVec 64))
  /-- SETVL (R235). -/
  | setvl (f : W64)
  /-- SETVL_GRANT (R235). -/
  | setvlGrant (t : Nat)
  /-- SETVT (R239). -/
  | setvt (f : W64)
  /-- VADD (R250). -/
  | vadd (f : W64)
  /-- VSUB (R250). -/
  | vsub (f : W64)
  /-- VSADD (R250). -/
  | vsadd (f : W64)
  /-- VSSUB (R250). -/
  | vssub (f : W64)
  /-- VMIN (R250). -/
  | vmin (f : W64)
  /-- VMAX (R250). -/
  | vmax (f : W64)
  /-- VAND (R250). -/
  | vand (f : W64)
  /-- VOR (R250). -/
  | vor (f : W64)
  /-- VXOR (R250). -/
  | vxor (f : W64)
  /-- VANDN (R250). -/
  | vandn (f : W64)
  /-- VSLL (R250). -/
  | vsll (f : W64)
  /-- VSRL (R250). -/
  | vsrl (f : W64)
  /-- VSRA (R250). -/
  | vsra (f : W64)
  /-- VSHRR (R251). -/
  | vshrr (f : W64)
  /-- VMUL (R252). -/
  | vmul (f : W64)
  /-- VMULH (R252). -/
  | vmulh (f : W64)
  /-- VMACC (R252). -/
  | vmacc (f : W64)
  /-- VABS (R250). -/
  | vabs (f : W64)
  /-- VNEG (R250). -/
  | vneg (f : W64)
  /-- VCLZ (R250). -/
  | vclz (f : W64)
  /-- VCPOP (R250). -/
  | vcpop (f : W64)
  /-- VCMP (R253). -/
  | vcmp (f : W64)
  /-- VMERGE (R254). -/
  | vmerge (f : W64)
  /-- VMV (R255). -/
  | vmv (f : W64)
  /-- VMVS (R256). -/
  | vmvs (f : W64)
  /-- VSLUP (R255). -/
  | vslup (f : W64)
  /-- VSLDN (R255). -/
  | vsldn (f : W64)
  /-- VPERM (R255). -/
  | vperm (f : W64)
  /-- VCOMPR (R257). -/
  | vcompr (f : W64)
  /-- VEXPND (R257). -/
  | vexpnd (f : W64)
  /-- VBFX (R259). -/
  | vbfx (f : W64)
  /-- VBFI (R259). -/
  | vbfi (f : W64)
  /-- VWID (R260). -/
  | vwid (f : W64)
  /-- VNAR (R261). -/
  | vnar (f : W64)
  /-- VRED (R262). -/
  | vred (f : W64)
  /-- VIOTA (R258). -/
  | viota (f : W64)
  /-- KAND (R263). -/
  | kand (f : W64)
  /-- KOR (R263). -/
  | kor (f : W64)
  /-- KXOR (R263). -/
  | kxor (f : W64)
  /-- KANDN (R263). -/
  | kandn (f : W64)
  /-- KNOT (R263). -/
  | knot (f : W64)
  /-- KWHILE (R263). -/
  | kwhile (f : W64)
  /-- KBEFORE (R264). -/
  | kbefore (f : W64)
  /-- KINCL (R264). -/
  | kincl (f : W64)
  /-- KFIRST (R264). -/
  | kfirst (f : W64)
  /-- KPOPC (R265). -/
  | kpopc (f : W64)
  /-- KLAST (R265). -/
  | klast (f : W64)
  /-- KMV (R263). -/
  | kmv (f : W64)
  /-- VLD (R215). -/
  | vld (f : W64)
  /-- VLDS (R215). -/
  | vlds (f : W64)
  /-- VLDX (R215). -/
  | vldx (f : W64)
  /-- VLDFF (R216). -/
  | vldff (f : W64)
  /-- VST (R215). -/
  | vst (f : W64)
  /-- VSTS (R215). -/
  | vsts (f : W64)
  /-- VSTX (R215). -/
  | vstx (f : W64)
  /-- VLDL (R217). -/
  | vldl (f : W64)
  /-- VSTL (R217). -/
  | vstl (f : W64)
  /-- QLD (R218). -/
  | qld (f : W64)
  /-- QLDS (R218). -/
  | qlds (f : W64)
  /-- QGATH (R218). -/
  | qgath (f : W64)
  /-- QCLR (R219). -/
  | qclr (f : W64)
  /-- QUEUE_FILL_ARRIVAL (R201). -/
  | queueFillArrival (t : Nat) (q : BitVec 3)
  /-- VAMOADD (R220). -/
  | vamoadd (f : W64)
  /-- VAMOMAX (R220). -/
  | vamomax (f : W64)
  /-- VAMOMIN (R220). -/
  | vamomin (f : W64)
  /-- VAMOXCHG (R220). -/
  | vamoxchg (f : W64)
  /-- VCAPP (R223). -/
  | vcapp (f : W64)
  /-- VCAPP_ROOM (R223). -/
  | vcappRoom (t : Nat)
  /-- VCONFL (R221). -/
  | vconfl (f : W64)
  /-- LSYNC (R225). -/
  | lsync (f : W64)
  /-- VPREF (R226). -/
  | vpref (f : W64)
  /-- VCVT (R271). -/
  | vcvt (src : BitVec 4) (f : W64)
  /-- VQNT (R272). -/
  | vqnt (f : W64)
  /-- VQNT_AMAX (R273). -/
  | vqntAmax (f : W64)
  /-- VDQNT (R274). -/
  | vdqnt (f : W64)
  /-- VSCL_MXIN (R278). -/
  | vsclMxin (f : W64)
  /-- VSCL_MXOUT (R278). -/
  | vsclMxout (f : W64)
  /-- VSCL_ADDE (R278). -/
  | vsclAdde (f : W64)
  /-- VSCL_MXE4M3 (R278). -/
  | vsclMxe4m3 (f : W64)
  /-- VSCL_MXE5M2 (R278). -/
  | vsclMxe5m2 (f : W64)
  /-- VHAD (R279). -/
  | vhad (f : W64)
  /-- VLMUL (R281). -/
  | vlmul (f : W64)
  /-- VLDIV (R281). -/
  | vldiv (f : W64)
  /-- VLADD (R281). -/
  | vladd (f : W64)
  /-- VLSUB (R281). -/
  | vlsub (f : W64)
  /-- VLEXP (R283). -/
  | vlexp (f : W64)
  /-- VLLOG (R284). -/
  | vllog (f : W64)
  /-- VLCMP (R282). -/
  | vlcmp (f : W64)
  /-- VTLU (R285). -/
  | vtlu (f : W64)
  /-- VTLD (R286). -/
  | vtld (f : W64)
  /-- VRAND (R288). -/
  | vrand (f : W64)
  /-- SEED (R289). -/
  | seed (f : W64)
  /-- VAMAX (R275). -/
  | vamax (f : W64)
  /-- BLEASE (R131). -/
  | blease (f : W64)
  /-- BRELS (R132). -/
  | brels (f : W64)
  /-- BSTAT (R133). -/
  | bstat (f : W64)
  /-- CBLD (R134). -/
  | cbld (f : W64)
  /-- TLOAD (R135). -/
  | tload (f : W64)
  /-- TSTORE (R135). -/
  | tstore (f : W64)
  /-- TBUILD (R136). -/
  | tbuild (f : W64)
  /-- TQUERY (R137). -/
  | tquery (f : W64)
  /-- LUACC (R138). -/
  | luacc (f : W64)
  /-- LUACC_KV (R139). -/
  | luaccKv (f : W64)
  /-- UADD (R140). -/
  | uadd (f : W64)
  /-- USUB (R140). -/
  | usub (f : W64)
  /-- UMAX (R140). -/
  | umax (f : W64)
  /-- UMIN (R140). -/
  | umin (f : W64)
  /-- USHL (R140). -/
  | ushl (f : W64)
  /-- USHR (R140). -/
  | ushr (f : W64)
  /-- UMOV (R140). -/
  | umov (f : W64)
  /-- UCLR (R140). -/
  | uclr (f : W64)
  /-- USAT (R140). -/
  | usat (f : W64)
  /-- UCVT (R140). -/
  | ucvt (f : W64)
  /-- BRED (R141). -/
  | bred (f : W64)
  /-- VTOU (R142). -/
  | vtou (f : W64)
  /-- UTOV (R142). -/
  | utov (f : W64)
  /-- XCOPY (R178). -/
  | xcopy (f : W64)
  /-- XCOPYM (R180). -/
  | xcopym (f : W64)
  /-- XFILL (R179). -/
  | xfill (f : W64)
  /-- XSTRM (R182). -/
  | xstrm (f : W64)
  /-- XSCLOSE (R185). -/
  | xsclose (f : W64)
  /-- XSTOR_READ (R187). -/
  | xstorRead (f : W64)
  /-- XSTOR_WRITE (R187). -/
  | xstorWrite (f : W64)
  /-- XSTOR_FLUSH (R188). -/
  | xstorFlush (f : W64)
  /-- XCOLL (R189). -/
  | xcoll (f : W64)
  /-- XCANCEL (R192). -/
  | xcancel (f : W64)
  /-- ENGINE_ACCEPT (R169). -/
  | engineAccept (t : Nat)
  /-- COMMAND_COMPLETION (R173). -/
  | commandCompletion (c : Nat)
  /-- STREAM_BLOCK (R184). -/
  | streamBlock (c : Nat)
  /-- COLLECTIVE_MATCH (R190). -/
  | collectiveMatch (g : BitVec 32)
  /-- KBIND_BIND (R310). -/
  | kbindBind (f : W64)
  /-- KBIND_UNBIND (R310). -/
  | kbindUnbind (f : W64)
  /-- KBIND_REBIND (R310). -/
  | kbindRebind (f : W64)
  /-- KCHECK (R311). -/
  | kcheck (f : W64)
  /-- KV_WAIT_RELEASE (R311). -/
  | kvWaitRelease (t : Nat)
  /-- KSPLICE (R317). -/
  | ksplice (f : W64)
  /-- SPLICE_EXECUTE (R318). -/
  | spliceExecute (c : Nat)
  /-- KPROBE (R324). -/
  | kprobe (f : W64)
  /-- KREPAIR (R325). -/
  | krepair (f : W64)
  /-- FID_PLAN_START (R326). -/
  | fidPlanStart (m : BitVec 2)
  /-- FID_MARK (R326). -/
  | fidMark (c : Nat)
  /-- FID_TASK_SUBMIT (R328). -/
  | fidTaskSubmit (c : Nat)
  /-- FID_SEAL (R326). -/
  | fidSeal (c : Nat)
  /-- FID_ABANDON (R326). -/
  | fidAbandon (c : Nat)
  /-- KCOMMIT (R330). -/
  | kcommit (f : W64)
  /-- KSTATE_READ (R315). -/
  | kstateRead (f : W64)
  /-- KSTATE_LOC (R315). -/
  | kstateLoc (f : W64)
  /-- KSTATE_FILL (R315). -/
  | kstateFill (f : W64)
  /-- KSTATE_CLEAN (R315). -/
  | kstateClean (f : W64)
  /-- KSTATE_REOPEN (R315). -/
  | kstateReopen (f : W64)
  /-- KRELS (R316). -/
  | krels (f : W64)
  /-- FAULT_SERVICE_RECORD (R419). -/
  | faultServiceRecord (t : Nat)
  /-- WATCHDOG_EXPIRY (R358). -/
  | watchdogExpiry (t : Nat)
  /-- DISPATCH_ROUND (R400). -/
  | dispatchRound (m : BitVec 2)
  /-- SUCCESSOR_SUBMIT (R396). -/
  | successorSubmit (k : Nat)
  /-- TABORT (R397). -/
  | tabort (k : BitVec 32)
  /-- PC_BOUNDARY (R93). -/
  | pcBoundary (p : BitVec 9)
  /-- VWAIT (R374). -/
  | vwait
  /-- BAR (R375). -/
  | bar
  /-- NOP (R381). -/
  | nop
  /-- YIELD (R381). -/
  | yield_
  /-- HALT (R382). -/
  | halt
  /-- TRET (R432). -/
  | tret
  /-- MCFG_LOCK (R86). -/
  | mcfgLock
  /-- MEM_INIT_DONE (R86). -/
  | memInitDone
  /-- MERR_CLEAR (R99). -/
  | merrClear
  /-- LEASE_HOLD_EXPIRY (R111). -/
  | leaseHoldExpiry
  /-- GERR_CLEAR (R391). -/
  | gerrClear
  /-- TLBINV_COMPLETE (R417). -/
  | tlbinvComplete
  /-- ICINV_GO (R418). -/
  | icinvGo
  /-- SEAL (R458). -/
  | mbSeal
  /-- VERIFY (R458). -/
  | mbVerify
  /-- ATTEST (R459). -/
  | mbAttest
  /-- FWUPDATE (R461). -/
  | mbFwupdate
  /-- REKEY (R458). -/
  | mbRekey
  /-- MAILBOX_COMPLETION (R461). -/
  | mbCompletion
  /-- UCIE_LINK_FAILURE (R448). -/
  | ucieLinkFailure
  /-- PERST (R465). -/
  | perst
  /-- FLR (R465). -/
  | flr
  /-- SHUTDOWN_TEMPERATURE (R465). -/
  | shutdownTemperature
  /-- DRIVE_COMPLETION (R187). -/
  | driveCompletion (c p : Nat) (sf : BitVec 15) (data : List Byte)
  /-- DRIVE_TIMEOUT (R452). -/
  | driveTimeout (n : BitVec 2)
  /-- REFRESH_INTERVAL (R95). -/
  | refreshInterval (p : BitVec 9)
  /-- PATROL_SCRUB (R100). -/
  | patrolScrub (b : BitVec 13) (r : BitVec 15)
  /-- PGRACE_EXPIRY (R406). -/
  | pgraceExpiry (t : Nat)
  /-- LGRACE_EXPIRY (R403). -/
  | lgraceExpiry (t : Nat)
  /-- LREVOKE (R111). -/
  | lrevoke (k : BitVec 32)
  /-- QDOOR (R392). -/
  | qdoor (q : BitVec 18)
  /-- PREQSET (R405). -/
  | preqset (k : BitVec 32)
  /-- TLBINV_WRITE (R417). -/
  | tlbinvWrite (v : Word)
  /-- FSREPLY_RETRY (R420). -/
  | fsreplyRetry (tag : BitVec 32)
  /-- FSREPLY_FAULT (R420). -/
  | fsreplyFault (tag : BitVec 32)
  /-- FSREPLY_EXHAUSTED (R420). -/
  | fsreplyExhausted (tag : BitVec 32)
  /-- LMODE_WRITE (R453). -/
  | lmodeWrite (n : BitVec 2) (v : Word)
  /-- DRVCTL_BIND (R452). -/
  | drvctlBind (n : BitVec 2) (v : Word)
  /-- DRVCTL_UNBIND (R452). -/
  | drvctlUnbind (n : BitVec 2) (v : Word)
  /-- BAD_COMMAND (R461). -/
  | mbBadCommand (v : BitVec 8)
  /-- HOST_REG_WRITE (R449). -/
  | hostRegWrite (off : BitVec 24) (v : Word)
  /-- HOST_WRITE (R350, R351). -/
  | hostWrite (pa : HostPlace) (data : List Byte)
  /-- HOST_READ (R446). -/
  | hostRead (pa : BitVec 52) (n : Nat) (cxl : Bool)
  /-- HOST_MEMORY_WRITE (R350). -/
  | hostMemoryWrite (pa : BitVec 52) (data : List Byte)
  /-- PEER_DATA_ARRIVAL (R352). -/
  | peerDataArrival (c r : Nat) (data : PeerData)
  /-- STACK_HOT (R99). -/
  | stackHot (s : BitVec 3)
  /-- THERMAL_THROTTLE (R464). -/
  | thermalThrottle (stack : Bool)
  /-- STACK_COOL (R99). -/
  | stackCool (s : BitVec 3)
  /-- DRIVE_LINK_TRAINED (R451). -/
  | driveLinkTrained (n : BitVec 2)
  /-- PORT_TRAINED (R453). -/
  | portTrained (n : BitVec 2)
  /-- PEER_UNREACHABLE (R190). -/
  | peerUnreachable (c : Nat)
  /-- FIRMWARE_HDMA_DISABLE (R460). -/
  | firmwareHdmaDisable (n : BitVec 4)
  deriving DecidableEq, Repr

end Sys2Proof
end

