-- ==== Sys2Proof/Machine/Encodings.lean ====
section
/-! DEFINITION. The encoding tables of the six units (Tables 2-5 to 2-10, 4-7, 6-2, 7-6, 8-6, 9-2,
10-9): which unit and operation a constructor has, and which field values its word accepts. Checks that
need the machine's state (an odd register for a wide operand, a width above SEW, an address) are not here. -/
namespace Sys2Proof

/-- Bits `lo + w - 1 .. lo` of a word. -/
abbrev fieldOf {n : Nat} (x : BitVec n) (lo w : Nat) : BitVec w := x.extractLsb' lo w

/-- The fields of a 64-bit word (Table 2-5). -/
def W64.unpack (x : BitVec 64) : W64 :=
  { x16 := fieldOf x 48 16, rs := fieldOf x 42 6, fn4 := fieldOf x 38 4, tail := x.getLsbD 37,
    c2 := x.getLsbD 36, c1 := x.getLsbD 35, form := fieldOf x 33 2, mask := fieldOf x 30 3,
    vs2 := fieldOf x 24 6, vs1 := fieldOf x 18 6, vd := fieldOf x 12 6 }

/-- The 64-bit word of a unit, an operation and its fields (Table 2-5). -/
def W64.pack (f : W64) (unit : BitVec 3) (op : BitVec 8) : BitVec 64 :=
  f.x16 ++ f.rs ++ f.fn4 ++ BitVec.ofBool f.tail ++ BitVec.ofBool f.c2 ++ BitVec.ofBool f.c1 ++ f.form ++
    f.mask ++ f.vs2 ++ f.vs1 ++ f.vd ++ op ++ unit ++ 1#1

/-- What a register field of a LANE or CONV word names (R58, R59). -/
inductive OperandClass where
  /-- a lower vector register -/
  | vec
  /-- a mask register, in bits [2:0] -/
  | msk
  /-- a scalar register -/
  | sca
  /-- unused: 0 -/
  | zero
  deriving DecidableEq, Repr

/-- Whether a field value is of the class (R58, R59). -/
def OperandClass.accepts (c : OperandClass) (r : Reg) : Bool :=
  match c with
  | .vec => r.toNat < 32
  | .msk => r.toNat < 8
  | .sca => true
  | .zero => r == 0

/-- Whether the instruction uses the width field W (Table 8-6). -/
inductive WidthUse where
  | none | optional | required
  deriving DecidableEq, Repr

/-- How an instruction treats the mask field. -/
inductive MaskUse where
  | any | zero | required
  deriving DecidableEq, Repr

/-- One row of Table 8-6. `forms` has bit i set where form i is accepted. -/
structure LaneRow where
  op : Nat
  forms : Nat
  s1 : OperandClass
  s2 : OperandClass
  d : OperandClass
  fn4Max : Nat := 0
  u : Bool := false
  sat : Bool := false
  rm : Bool := false
  w : WidthUse := .none
  mask : MaskUse := .any
  /-- SETVL and SETVT hold SEW, 1 to 32, in ext16[5:0] (Table 8-5) -/
  sewField : Bool := false
  deriving DecidableEq, Repr

/-- The Forms column: bit `f` of the row's set. -/
def formIn (forms : Nat) (f : BitVec 2) : Bool := forms.testBit f.toNat

/-- The mask field as the row says. -/
def MaskUse.accepts (m : MaskUse) (k : BitVec 3) : Bool :=
  match m with
  | .any => true
  | .zero => k == 0
  | .required => k != 0

/-- The second source by form: vs2 in form 00, rs in form 01, the immediate in form 10, the queue of
vs2[2:0] in form 11; what a form does not use is 0 (R54, R58). -/
def sourceFieldsOk (s2 : OperandClass) (f : W64) : Bool :=
  match f.form with
  | 0 => s2.accepts f.vs2 && f.rs == 0
  | 1 => f.vs2 == 0
  | 2 => f.vs2 == 0 && f.rs == 0
  | _ => f.vs2.toNat < 8 && f.rs == 0

/-- Chain bits stand only on lower vector sources (R56). -/
def chainsOk (s1 s2 : OperandClass) (f : W64) : Bool :=
  (!f.c1 || s1 == .vec) && (!f.c2 || (f.form == 0 && s2 == .vec))

/-- The tail bit stands only with a lower vector or mask destination (R57, R244). -/
def tailOk (d : OperandClass) (f : W64) : Bool := !f.tail || d == .vec || d == .msk

/-- ext16 of a LANE word outside form 10 (Tables 2-6, 8-5), and imm16 of form 10 (R259, R261). VMULH takes no
1-bit signed multiplier (R252). -/
def laneExtOk (r : LaneRow) (f : W64) : Bool :=
  let rm := (fieldOf f.x16 12 3).toNat
  let w := (fieldOf f.x16 0 5).toNat
  if r.sewField then 1 ≤ (fieldOf f.x16 0 6).toNat && (fieldOf f.x16 0 6).toNat ≤ 32 && fieldOf f.x16 6 10 == 0
  else if f.form == 2 then
    if r.op == 0x3B then rm' f != 6
    else if r.op == 0x38 || r.op == 0x39 then fieldOf f.x16 11 5 == 0
    else true
  else
    (!f.x16.getLsbD 15 || r.d == .vec) && (if r.rm then rm != 6 else rm == 0) &&
    (r.sat || !f.x16.getLsbD 11) && (r.u || !f.x16.getLsbD 10) && (r.op != 0x1F || w != 1 || f.x16.getLsbD 10) &&
    (r.rm || fieldOf f.x16 5 5 == 0) &&
    (match r.w with
     | .none => w == 0
     | .optional => true
     | .required => w != 0)
where
  /-- VNAR's form 10 holds RM in imm16[15:13] (R261). -/
  rm' (f : W64) : Nat := (fieldOf f.x16 13 3).toNat

/-- Whether a word of the row is a legal encoding (R244, Table 8-6). -/
def laneLegal (r : LaneRow) (f : W64) : Bool :=
  formIn r.forms f.form && decide (f.fn4.toNat ≤ r.fn4Max) && r.d.accepts f.vd &&
  (if r.op == 0x4B && f.form == 2 then f.vs1 == 0 else r.s1.accepts f.vs1) &&
  sourceFieldsOk r.s2 f && chainsOk r.s1 r.s2 f && tailOk r.d f && r.mask.accepts f.mask && laneExtOk r f

/-- A row with two sources and a lower vector destination, all four forms. -/
def vvRow (op : Nat) (u sat : Bool) (rm : Bool := false) (w : WidthUse := .none) : LaneRow :=
  { op := op, forms := 0b1111, s1 := .vec, s2 := .vec, d := .vec, u := u, sat := sat, rm := rm, w := w }

/-- A row with one source and a lower vector destination, form 00. -/
def vRow (op : Nat) (sat : Bool := false) : LaneRow :=
  { op := op, forms := 0b0001, s1 := .vec, s2 := .zero, d := .vec, sat := sat }

/-- A mask instruction with the given sources, form 00. -/
def kRow (op : Nat) (s2 d : OperandClass) : LaneRow :=
  { op := op, forms := 0b0001, s1 := .msk, s2 := s2, d := d }

/-- Table 8-6. -/
def laneRow (i : Instr) : Option (LaneRow × W64) :=
  match i with
  | .setvl f => some ({ op := 0x00, forms := 0b0010, s1 := .zero, s2 := .zero, d := .sca, mask := .zero, sewField := true }, f)
  | .setvt f => some ({ op := 0x01, forms := 0b0001, s1 := .zero, s2 := .zero, d := .sca, mask := .zero, sewField := true }, f)
  | .vadd f => some (vvRow 0x10 false false, f)
  | .vsub f => some (vvRow 0x11 false false, f)
  | .vsadd f => some (vvRow 0x12 true false, f)
  | .vssub f => some (vvRow 0x13 true false, f)
  | .vmin f => some (vvRow 0x14 true false, f)
  | .vmax f => some (vvRow 0x15 true false, f)
  | .vand f => some (vvRow 0x16 false false, f)
  | .vor f => some (vvRow 0x17 false false, f)
  | .vxor f => some (vvRow 0x18 false false, f)
  | .vandn f => some (vvRow 0x19 false false, f)
  | .vsll f => some (vvRow 0x1A true true, f)
  | .vsrl f => some (vvRow 0x1B false false, f)
  | .vsra f => some (vvRow 0x1C false false, f)
  | .vshrr f => some (vvRow 0x1D true false true, f)
  | .vmul f => some (vvRow 0x1E true true false .optional, f)
  | .vmulh f => some (vvRow 0x1F true true true .optional, f)
  | .vmacc f => some (vvRow 0x20 true true false .optional, f)
  | .vabs f => some (vRow 0x21 true, f)
  | .vneg f => some (vRow 0x22 true, f)
  | .vclz f => some (vRow 0x23, f)
  | .vcpop f => some (vRow 0x24, f)
  | .vcmp f => some ({ op := 0x25, forms := 0b1111, s1 := .vec, s2 := .vec, d := .msk, fn4Max := 5, u := true }, f)
  | .vmerge f => some ({ vvRow 0x30 false false with mask := .required }, f)
  | .vmv f => some ({ vvRow 0x31 false false with s1 := .zero }, f)
  | .vmvs f => some ({ op := 0x32, forms := 0b0110, s1 := .vec, s2 := .zero, d := .sca, u := true, mask := .zero }, f)
  | .vslup f => some ({ vvRow 0x33 false false with forms := 0b0110 }, f)
  | .vsldn f => some ({ vvRow 0x34 false false with forms := 0b0110 }, f)
  | .vperm f => some ({ vvRow 0x35 false false with forms := 0b1001 }, f)
  | .vcompr f => some (vRow 0x36, f)
  | .vexpnd f => some (vRow 0x37, f)
  | .vbfx f => some (vvRow 0x38 true false false .optional, f)
  | .vbfi f => some (vvRow 0x39 false false false .optional, f)
  | .vwid f => some ({ vRow 0x3A with u := true, w := .required }, f)
  | .vnar f => some (vvRow 0x3B true true true .required, f)
  | .vred f => some ({ vvRow 0x3C true false with forms := 0b0011, fn4Max := 6 }, f)
  | .viota f => some ({ vRow 0x3D with s1 := .zero }, f)
  | .kand f => some (kRow 0x40 .msk .msk, f)
  | .kor f => some (kRow 0x41 .msk .msk, f)
  | .kxor f => some (kRow 0x42 .msk .msk, f)
  | .kandn f => some (kRow 0x43 .msk .msk, f)
  | .knot f => some (kRow 0x44 .zero .msk, f)
  | .kwhile f => some ({ kRow 0x45 .zero .msk with forms := 0b0110, s1 := .zero }, f)
  | .kbefore f => some (kRow 0x46 .zero .msk, f)
  | .kincl f => some (kRow 0x47 .zero .msk, f)
  | .kfirst f => some (kRow 0x48 .zero .msk, f)
  | .kpopc f => some (kRow 0x49 .zero .sca, f)
  | .klast f => some (kRow 0x4A .zero .sca, f)
  | .kmv f => some ({ kRow 0x4B .zero .msk with forms := 0b0101 }, f)
  | _ => none

/-- What bits [10:8] of a CONV word's ext16 hold (Table 2-6, R267). -/
inductive ConvBits where
  /-- 0 -/
  | zero
  /-- LT -/
  | lt
  /-- N in [8], W in [9] with the given value, [10] = 0 -/
  | nw (w : Bool)
  deriving DecidableEq, Repr

/-- One row of Table 9-2. `fn4s` are the accepted fn4 codes. -/
structure ConvRow where
  op : Nat
  forms : Nat
  s1 : OperandClass := .vec
  s2 : OperandClass := .zero
  d : OperandClass := .vec
  fn4s : List Nat := [0]
  sat : Bool := false
  rm : Bool := false
  stream : Bool := false
  bits : ConvBits := .zero
  mask : MaskUse := .any
  deriving DecidableEq, Repr

/-- Whether a word of the row is a legal encoding (R267). -/
def convLegal (r : ConvRow) (f : W64) : Bool :=
  let rm := (fieldOf f.x16 12 3).toNat
  formIn r.forms f.form && f.form != 2 && r.fn4s.contains f.fn4.toNat && r.d.accepts f.vd && r.s1.accepts f.vs1 &&
  sourceFieldsOk r.s2 f && chainsOk r.s1 r.s2 f && tailOk r.d f && r.mask.accepts f.mask &&
  (!f.x16.getLsbD 15 || r.d == .vec) && (if r.rm then rm != 6 else rm == 0) && (r.sat || !f.x16.getLsbD 11) &&
  (r.stream || fieldOf f.x16 0 8 == 0) &&
  (match r.bits with
   | .zero => fieldOf f.x16 8 3 == 0
   | .lt => true
   | .nw w => f.x16.getLsbD 9 == w && !f.x16.getLsbD 10)

/-- The format codes that VCVT converts from a source code (R269). -/
def cvtTargets (src : Nat) : List Nat :=
  [0, 1, 2, 5, 6, 7, 8, 9, 10, 11].filter fun d => d != src || d ≤ 2

/-- Table 9-2. -/
def convRow (i : Instr) : Option (ConvRow × W64) :=
  match i with
  | .vcvt src f =>
      some ({ op := src.toNat, forms := 0b0011, fn4s := if src.toNat ≤ 11 && src != 3 && src != 4 then cvtTargets src.toNat else [],
              sat := true, rm := true, stream := true }, f)
  | .vqnt f => some ({ op := 0x10, forms := 0b0011, fn4s := codes, rm := true, stream := true, bits := .nw false }, f)
  | .vqntAmax f => some ({ op := 0x10, forms := 0b0010, fn4s := codes, rm := true, stream := true, bits := .nw true }, f)
  | .vdqnt f =>
      some ({ op := 0x11, forms := 0b0011, fn4s := codes, sat := true, rm := true, stream := true, bits := .nw false }, f)
  | .vsclMxin f => some (sclRow 0 0b0001, f)
  | .vsclMxout f => some (sclRow 1 0b0001, f)
  | .vsclAdde f => some (sclRow 2 0b0010, f)
  | .vsclMxe4m3 f => some (sclRow 3 0b0001, f)
  | .vsclMxe5m2 f => some (sclRow 4 0b0001, f)
  | .vhad f => some ({ op := 0x13, forms := 0b0010, sat := true, rm := true, stream := true }, f)
  | .vlmul f => some ({ op := 0x14, forms := 0b1011, s2 := .vec }, f)
  | .vldiv f => some ({ op := 0x15, forms := 0b1011, s2 := .vec }, f)
  | .vladd f => some ({ op := 0x16, forms := 0b1011, s2 := .vec }, f)
  | .vlsub f => some ({ op := 0x17, forms := 0b1011, s2 := .vec }, f)
  | .vlexp f => some ({ op := 0x18, forms := 0b0011, rm := true, stream := true }, f)
  | .vllog f => some ({ op := 0x19, forms := 0b0011, rm := true, stream := true }, f)
  | .vlcmp f => some ({ op := 0x1A, forms := 0b1011, s2 := .vec, d := .msk, fn4s := [0, 1, 2, 3, 4, 5] }, f)
  | .vtlu f => some ({ op := 0x1B, forms := 0b0011, bits := .lt }, f)
  | .vtld f => some ({ op := 0x1C, forms := 0b0001, d := .zero, bits := .lt, mask := .zero }, f)
  | .vrand f => some ({ op := 0x1D, forms := 0b0001, s1 := .zero, stream := true }, f)
  | .seed f => some ({ op := 0x1E, forms := 0b0010, s1 := .zero, d := .zero, mask := .zero }, f)
  | .vamax f => some ({ op := 0x1F, forms := 0b0010, d := .zero, fn4s := codes }, f)
  | _ => none
where
  /-- The format codes that VQNT, VDQNT and VAMAX accept (R272, R274, R275). -/
  codes : List Nat := [0, 1, 2, 5, 6, 7, 8, 9, 10, 11]
  /-- One variant of Table 9-5. -/
  sclRow (v forms : Nat) : ConvRow :=
    { op := 0x12, forms := forms, fn4s := [v], sat := true, rm := true, stream := true }

/-- What vd holds in a VMEM word (Tables 2-7, 7-6). -/
inductive VmemDest where
  /-- a lower vector register -/
  | vec
  /-- a queue number in [14:12] -/
  | queue
  /-- an L2 class in [13:12] -/
  | cls
  /-- 0 -/
  | zero
  deriving DecidableEq, Repr

/-- What vs2 holds in a VMEM word (Table 2-7). -/
inductive VmemIndex where
  /-- an index vector -/
  | vec
  /-- a stride scalar -/
  | stride
  /-- 0 -/
  | zero
  deriving DecidableEq, Repr

/-- One row of Table 7-6: the Fields used column. -/
structure VmemRow where
  op : Nat
  d : VmemDest
  ix : VmemIndex := .zero
  sb : Bool := true
  off : Bool := true
  rs : Bool := false
  eew : Bool := true
  tail : Bool := false
  c1 : Bool := false
  mask : Bool := true
  deriving DecidableEq, Repr

/-- Whether a word of the row is a legal encoding (R60, R214). -/
def vmemLegal (r : VmemRow) (f : W64) : Bool :=
  f.form == 0 && !f.c2 &&
  (match r.d with
   | .vec => f.vd.toNat < 32
   | .queue => f.vd.toNat < 8
   | .cls => f.vd.toNat < 3
   | .zero => f.vd == 0) &&
  (match r.ix with
   | .vec => f.vs2.toNat < 32
   | .stride => true
   | .zero => f.vs2 == 0) &&
  (r.sb || f.vs1 == 0) && (r.off || f.x16 == 0) && (r.rs || f.rs == 0) &&
  (if r.eew then decide (f.fn4.toNat < 6) else f.fn4 == 0) &&
  (r.tail || !f.tail) && (r.c1 || !f.c1) && (r.mask || f.mask == 0)

/-- Table 7-6. -/
def vmemRow (i : Instr) : Option (VmemRow × W64) :=
  match i with
  | .vld f => some ({ op := 0x00, d := .vec, tail := true }, f)
  | .vlds f => some ({ op := 0x01, d := .vec, ix := .stride, tail := true }, f)
  | .vldx f => some ({ op := 0x02, d := .vec, ix := .vec, rs := true, tail := true }, f)
  | .vldff f => some ({ op := 0x03, d := .vec, tail := true }, f)
  | .vst f => some ({ op := 0x04, d := .vec, c1 := true }, f)
  | .vsts f => some ({ op := 0x05, d := .vec, ix := .stride, c1 := true }, f)
  | .vstx f => some ({ op := 0x06, d := .vec, ix := .vec, rs := true, c1 := true }, f)
  | .vldl f => some ({ op := 0x07, d := .vec, ix := .vec, off := false, tail := true }, f)
  | .vstl f => some ({ op := 0x08, d := .vec, ix := .vec, off := false, c1 := true }, f)
  | .qld f => some ({ op := 0x10, d := .queue, mask := false }, f)
  | .qlds f => some ({ op := 0x11, d := .queue, ix := .stride, mask := false }, f)
  | .qgath f => some ({ op := 0x12, d := .queue, ix := .vec, rs := true, mask := false }, f)
  | .qclr f => some ({ op := 0x13, d := .queue, sb := false, off := false, eew := false, mask := false }, f)
  | .vamoadd f => some ({ op := 0x20, d := .vec, ix := .vec, rs := true }, f)
  | .vamomax f => some ({ op := 0x21, d := .vec, ix := .vec, rs := true }, f)
  | .vamomin f => some ({ op := 0x22, d := .vec, ix := .vec, rs := true }, f)
  | .vamoxchg f => some ({ op := 0x23, d := .vec, ix := .vec, rs := true }, f)
  | .vcapp f => some ({ op := 0x30, d := .zero, off := false, rs := true, eew := false }, f)
  | .vconfl f => some ({ op := 0x31, d := .vec, ix := .vec, rs := true, eew := false }, f)
  | .lsync f => some ({ op := 0x32, d := .zero, sb := false, off := false, eew := false, mask := false }, f)
  | .vpref f => some ({ op := 0x33, d := .cls }, f)
  | _ => none

/-- One row of Table 4-7: the Fields used column. `d` and `s1`: 0 unused, 1 upper, 2 lower. -/
structure BankRow where
  op : Nat
  forms : Nat := 0b01
  d : Nat := 0
  s1 : Nat := 0
  /-- vs2 is an upper register in form 00 -/
  s2 : Bool := false
  /-- uses TS -/
  ts : Bool := false
  /-- uses CB -/
  cb : Bool := false
  /-- uses b, g -/
  shape : Bool := false
  /-- LUACC: uses O; `some true` is LUACC.kv -/
  luacc : Option Bool := none
  deriving DecidableEq, Repr

/-- k = g · f of a shape: f is the field width of b (R16, R61). -/
def shapeK (gc bc : Nat) : Nat := 2 ^ gc * (match bc with | 0 => 1 | 1 => 2 | _ => 4)

/-- A vector field of a BANK word: unused, upper with `t` consecutive registers, or lower (R59, R130). -/
def bankReg (c : Nat) (t : Nat) (r : Reg) : Bool :=
  match c with
  | 0 => r == 0
  | 1 => 32 ≤ r.toNat && r.toNat + t - 1 ≤ 63
  | _ => r.toNat < 32

/-- Whether a word of the row is a legal encoding (R61, R130, R139). DESIGN CHOICE (log 19): CB of a TBUILD in linear mode,
which reads no codebook, may hold any value. -/
def bankLegal (r : BankRow) (f : W64) : Bool :=
  let vis := (fieldOf f.x16 13 2).toNat
  let o := f.x16.getLsbD 12
  let gc := (fieldOf f.x16 10 2).toNat
  let bc := (fieldOf f.x16 8 2).toNat
  let kv := r.luacc == some true
  let t := if r.shape then 2 ^ (fieldOf f.fn4 2 2).toNat else 1
  f.form.toNat < 2 && r.forms.testBit f.form.toNat && f.mask == 0 && !f.c1 && !f.c2 && !f.tail &&
  !f.x16.getLsbD 15 && (if kv then vis != 3 else vis == 0) && (r.luacc.isSome || !o) &&
  (if r.shape then shapeK gc bc ≤ 8 else gc == 0 && bc == 0) &&
  (r.cb || fieldOf f.x16 5 3 == 0) && (r.ts || fieldOf f.x16 0 5 == 0) &&
  (if r.shape then f.fn4.getLsbD 1 == kv && (!kv || f.fn4.getLsbD 0) else f.fn4 == 0) &&
  (!kv || (bc == 3 && ((gc == 1 && !o) || (gc == 0 && o)))) &&
  (f.form != 0 || f.rs == 0) &&
  (if r.s2 && f.form == 0 then 32 ≤ f.vs2.toNat else f.vs2 == 0) &&
  bankReg r.d t f.vd && bankReg r.s1 t f.vs1

/-- Table 4-7. -/
def bankRow (i : Instr) : Option (BankRow × W64) :=
  match i with
  | .blease f => some ({ op := 0x00, forms := 0b10 }, f)
  | .brels f => some ({ op := 0x01 }, f)
  | .bstat f => some ({ op := 0x02, forms := 0b10 }, f)
  | .cbld f => some ({ op := 0x03, s1 := 1, cb := true }, f)
  | .tload f => some ({ op := 0x10, forms := 0b10, ts := true }, f)
  | .tstore f => some ({ op := 0x11, forms := 0b10, ts := true }, f)
  | .tbuild f => some ({ op := 0x12, forms := 0b10, s1 := 1, ts := true, cb := true, shape := true }, f)
  | .tquery f => some ({ op := 0x13, d := 1, s1 := 1, ts := true }, f)
  | .luacc f => some ({ op := 0x14, forms := 0b10, d := 1, ts := true, shape := true, luacc := some false }, f)
  | .luaccKv f => some ({ op := 0x14, forms := 0b10, d := 1, ts := true, shape := true, luacc := some true }, f)
  | .uadd f => some (uRow 0x20, f)
  | .usub f => some (uRow 0x21, f)
  | .umax f => some (uRow 0x22, f)
  | .umin f => some (uRow 0x23, f)
  | .ushl f => some (uRow 0x24, f)
  | .ushr f => some (uRow 0x25, f)
  | .umov f => some ({ op := 0x26, d := 1, s1 := 1 }, f)
  | .uclr f => some ({ op := 0x27, d := 1 }, f)
  | .usat f => some ({ op := 0x28, d := 1, s1 := 1 }, f)
  | .ucvt f => some ({ op := 0x29, forms := 0b10, d := 1, s1 := 1 }, f)
  | .bred f => some ({ op := 0x2A, forms := 0b11, d := 1, s1 := 1 }, f)
  | .vtou f => some ({ op := 0x30, forms := 0b11, d := 1, s1 := 2 }, f)
  | .utov f => some ({ op := 0x31, forms := 0b11, d := 2, s1 := 1 }, f)
  | _ => none
where
  /-- A two-source operation on upper registers (R140). -/
  uRow (op : Nat) : BankRow := { op := op, forms := 0b11, d := 1, s1 := 1, s2 := true }

/-- One row of Table 6-2: which registers, class and specific bits the command uses. -/
structure EngineRow where
  op : Nat
  sd : Bool := false
  sa : Bool := true
  sn : Bool := false
  fn4 : Nat := 0
  /-- used bits of the command-specific field -/
  specBits : Nat := 0
  cls : Bool := false
  deriving DecidableEq, Repr

/-- Whether a word of the row is a legal encoding (R62, R172). -/
def engineLegal (r : EngineRow) (f : W64) : Bool :=
  f.form == 1 && f.mask == 0 && !f.c1 && !f.c2 && !f.tail && fieldOf f.x16 13 3 == 0 &&
  decide ((fieldOf f.x16 5 8).toNat < 2 ^ r.specBits) && (if r.cls then fieldOf f.x16 3 2 != 3 else fieldOf f.x16 3 2 == 0) &&
  decide ((fieldOf f.x16 0 3).toNat < 6) && f.fn4.toNat == r.fn4 &&
  (r.sd || f.vd == 0) && (r.sa || f.vs1 == 0) && (r.sn || f.vs2 == 0)

/-- Table 6-2. -/
def engineRow (i : Instr) : Option (EngineRow × W64) :=
  match i with
  | .xcopy f => some ({ op := 0x00, sd := true, sn := true, cls := true }, f)
  | .xcopym f => some ({ op := 0x01, sd := true, sn := true, specBits := 4 }, f)
  | .xfill f => some ({ op := 0x02, sd := true, sn := true, cls := true }, f)
  | .xstrm f => some ({ op := 0x03 }, f)
  | .xsclose f => some ({ op := 0x04 }, f)
  | .xstorRead f => some ({ op := 0x05, sd := true, sn := true, fn4 := 0, specBits := 2, cls := true }, f)
  | .xstorWrite f => some ({ op := 0x05, sd := true, sn := true, fn4 := 1, specBits := 2 }, f)
  | .xstorFlush f => some ({ op := 0x05, sa := false, fn4 := 2, specBits := 2 }, f)
  | .xcoll f => some ({ op := 0x06, cls := true }, f)
  | .xcancel f => some ({ op := 0x07 }, f)
  | _ => none

/-- One row of Table 10-9: which registers and fields the instruction uses. -/
structure KvRow where
  op : Nat
  rd : Bool := true
  sb : Bool := false
  sc : Bool := false
  fn4 : Nat := 0
  vis : Bool := false
  scope : Bool := false
  deriving DecidableEq, Repr

/-- Whether a word of the row is a legal encoding (R62, R307). -/
def kvLegal (r : KvRow) (f : W64) : Bool :=
  let vis := (fieldOf f.x16 13 2).toNat
  let sc := (fieldOf f.x16 0 3).toNat
  f.form == 1 && f.mask == 0 && !f.c1 && !f.c2 && !f.tail && !f.x16.getLsbD 15 && fieldOf f.x16 3 10 == 0 &&
  (if r.vis then vis != 3 else vis == 0) && (if r.scope then decide (sc < 6) else sc == 0) && f.fn4.toNat == r.fn4 &&
  (r.rd || f.vd == 0) && (r.sb || f.vs2 == 0) && (r.sc || f.rs == 0)

/-- Table 10-9. -/
def kvRow (i : Instr) : Option (KvRow × W64) :=
  match i with
  | .kbindBind f => some ({ op := 0x00, fn4 := 0 }, f)
  | .kbindUnbind f => some ({ op := 0x00, fn4 := 1, rd := false, sb := true }, f)
  | .kbindRebind f => some ({ op := 0x00, fn4 := 2, sb := true }, f)
  | .kcheck f => some ({ op := 0x01, sb := true, vis := true }, f)
  | .ksplice f => some ({ op := 0x02, rd := false, sc := true, scope := true }, f)
  | .kprobe f => some ({ op := 0x03, sb := true, vis := true }, f)
  | .krepair f => some ({ op := 0x04, rd := false, sc := true, scope := true }, f)
  | .kcommit f => some ({ op := 0x05, sb := true, scope := true }, f)
  | .kstateRead f => some ({ op := 0x06, fn4 := 0 }, f)
  | .kstateLoc f => some ({ op := 0x06, fn4 := 1 }, f)
  | .kstateFill f => some ({ op := 0x06, fn4 := 2, sb := true }, f)
  | .kstateClean f => some ({ op := 0x06, fn4 := 3 }, f)
  | .kstateReopen f => some ({ op := 0x06, fn4 := 4 }, f)
  | .krels f => some ({ op := 0x07 }, f)
  | _ => none

/-- The unit, operation and fields of a vector-class instruction (Table 2-5, Table 2-10). -/
def vecKey (i : Instr) : Option (BitVec 3 × BitVec 8 × W64) :=
  match laneRow i with
  | some (r, f) => some (0, BitVec.ofNat 8 r.op, f)
  | none =>
  match vmemRow i with
  | some (r, f) => some (1, BitVec.ofNat 8 r.op, f)
  | none =>
  match convRow i with
  | some (r, f) => some (2, BitVec.ofNat 8 r.op, f)
  | none =>
  match bankRow i with
  | some (r, f) => some (3, BitVec.ofNat 8 r.op, f)
  | none =>
  match engineRow i with
  | some (r, f) => some (4, BitVec.ofNat 8 r.op, f)
  | none =>
  match kvRow i with
  | some (r, f) => some (5, BitVec.ofNat 8 r.op, f)
  | none => none

/-- The checks of Table 2-13 on a vector-class word that need no state of the machine. -/
def vecLegal (i : Instr) : Bool :=
  match laneRow i with
  | some (r, f) => laneLegal r f
  | none =>
  match vmemRow i with
  | some (r, f) => vmemLegal r f
  | none =>
  match convRow i with
  | some (r, f) => convLegal r f
  | none =>
  match bankRow i with
  | some (r, f) => bankLegal r f
  | none =>
  match engineRow i with
  | some (r, f) => engineLegal r f
  | none =>
  match kvRow i with
  | some (r, f) => kvLegal r f
  | none => false

/-- The LANE instruction of an op8 (Table 2-10). -/
def laneInstr (op : Nat) (f : W64) : Option Instr :=
  match op with
  | 0x00 => some (.setvl f) | 0x01 => some (.setvt f)
  | 0x10 => some (.vadd f) | 0x11 => some (.vsub f) | 0x12 => some (.vsadd f) | 0x13 => some (.vssub f)
  | 0x14 => some (.vmin f) | 0x15 => some (.vmax f) | 0x16 => some (.vand f) | 0x17 => some (.vor f)
  | 0x18 => some (.vxor f) | 0x19 => some (.vandn f) | 0x1A => some (.vsll f) | 0x1B => some (.vsrl f)
  | 0x1C => some (.vsra f) | 0x1D => some (.vshrr f) | 0x1E => some (.vmul f) | 0x1F => some (.vmulh f)
  | 0x20 => some (.vmacc f) | 0x21 => some (.vabs f) | 0x22 => some (.vneg f) | 0x23 => some (.vclz f)
  | 0x24 => some (.vcpop f) | 0x25 => some (.vcmp f)
  | 0x30 => some (.vmerge f) | 0x31 => some (.vmv f) | 0x32 => some (.vmvs f) | 0x33 => some (.vslup f)
  | 0x34 => some (.vsldn f) | 0x35 => some (.vperm f) | 0x36 => some (.vcompr f) | 0x37 => some (.vexpnd f)
  | 0x38 => some (.vbfx f) | 0x39 => some (.vbfi f) | 0x3A => some (.vwid f) | 0x3B => some (.vnar f)
  | 0x3C => some (.vred f) | 0x3D => some (.viota f)
  | 0x40 => some (.kand f) | 0x41 => some (.kor f) | 0x42 => some (.kxor f) | 0x43 => some (.kandn f)
  | 0x44 => some (.knot f) | 0x45 => some (.kwhile f) | 0x46 => some (.kbefore f) | 0x47 => some (.kincl f)
  | 0x48 => some (.kfirst f) | 0x49 => some (.kpopc f) | 0x4A => some (.klast f) | 0x4B => some (.kmv f)
  | _ => none

/-- The VMEM instruction of an op8 (Table 2-10). -/
def vmemInstr (op : Nat) (f : W64) : Option Instr :=
  match op with
  | 0x00 => some (.vld f) | 0x01 => some (.vlds f) | 0x02 => some (.vldx f) | 0x03 => some (.vldff f)
  | 0x04 => some (.vst f) | 0x05 => some (.vsts f) | 0x06 => some (.vstx f) | 0x07 => some (.vldl f)
  | 0x08 => some (.vstl f)
  | 0x10 => some (.qld f) | 0x11 => some (.qlds f) | 0x12 => some (.qgath f) | 0x13 => some (.qclr f)
  | 0x20 => some (.vamoadd f) | 0x21 => some (.vamomax f) | 0x22 => some (.vamomin f) | 0x23 => some (.vamoxchg f)
  | 0x30 => some (.vcapp f) | 0x31 => some (.vconfl f) | 0x32 => some (.lsync f) | 0x33 => some (.vpref f)
  | _ => none

/-- The CONV instruction of an op8; fn4 names the variant of VSCL and ext16[9] that of VQNT
(Table 2-10, R267, R278). -/
def convInstr (op : Nat) (f : W64) : Option Instr :=
  match op with
  | 0x10 => some (if f.x16.getLsbD 9 then .vqntAmax f else .vqnt f)
  | 0x11 => some (.vdqnt f)
  | 0x12 =>
    match f.fn4.toNat with
    | 0 => some (.vsclMxin f) | 1 => some (.vsclMxout f) | 2 => some (.vsclAdde f)
    | 3 => some (.vsclMxe4m3 f) | 4 => some (.vsclMxe5m2 f)
    | _ => none
  | 0x13 => some (.vhad f) | 0x14 => some (.vlmul f) | 0x15 => some (.vldiv f) | 0x16 => some (.vladd f)
  | 0x17 => some (.vlsub f) | 0x18 => some (.vlexp f) | 0x19 => some (.vllog f) | 0x1A => some (.vlcmp f)
  | 0x1B => some (.vtlu f) | 0x1C => some (.vtld f) | 0x1D => some (.vrand f) | 0x1E => some (.seed f)
  | 0x1F => some (.vamax f)
  | n => if n < 12 then some (.vcvt (BitVec.ofNat 4 n) f) else none

/-- The BANK instruction of an op8; fn4[1] is .kv (Table 2-8, Table 2-10). -/
def bankInstr (op : Nat) (f : W64) : Option Instr :=
  match op with
  | 0x00 => some (.blease f) | 0x01 => some (.brels f) | 0x02 => some (.bstat f) | 0x03 => some (.cbld f)
  | 0x10 => some (.tload f) | 0x11 => some (.tstore f) | 0x12 => some (.tbuild f) | 0x13 => some (.tquery f)
  | 0x14 => some (if f.fn4.getLsbD 1 then .luaccKv f else .luacc f)
  | 0x20 => some (.uadd f) | 0x21 => some (.usub f) | 0x22 => some (.umax f) | 0x23 => some (.umin f)
  | 0x24 => some (.ushl f) | 0x25 => some (.ushr f) | 0x26 => some (.umov f) | 0x27 => some (.uclr f)
  | 0x28 => some (.usat f) | 0x29 => some (.ucvt f) | 0x2A => some (.bred f)
  | 0x30 => some (.vtou f) | 0x31 => some (.utov f)
  | _ => none

/-- The ENGINE command of an op8; fn4 names the variant of XSTOR (Table 2-10, Table 6-2). -/
def engineInstr (op : Nat) (f : W64) : Option Instr :=
  match op with
  | 0x00 => some (.xcopy f) | 0x01 => some (.xcopym f) | 0x02 => some (.xfill f) | 0x03 => some (.xstrm f)
  | 0x04 => some (.xsclose f)
  | 0x05 =>
    match f.fn4.toNat with
    | 0 => some (.xstorRead f) | 1 => some (.xstorWrite f) | 2 => some (.xstorFlush f)
    | _ => none
  | 0x06 => some (.xcoll f) | 0x07 => some (.xcancel f)
  | _ => none

/-- The KV instruction of an op8; fn4 names the variant of KBIND and KSTATE (Tables 2-10, 10-9, 10-12). -/
def kvInstr (op : Nat) (f : W64) : Option Instr :=
  match op with
  | 0x00 =>
    match f.fn4.toNat with
    | 0 => some (.kbindBind f) | 1 => some (.kbindUnbind f) | 2 => some (.kbindRebind f)
    | _ => none
  | 0x01 => some (.kcheck f) | 0x02 => some (.ksplice f) | 0x03 => some (.kprobe f) | 0x04 => some (.krepair f)
  | 0x05 => some (.kcommit f)
  | 0x06 =>
    match f.fn4.toNat with
    | 0 => some (.kstateRead f) | 1 => some (.kstateLoc f) | 2 => some (.kstateFill f) | 3 => some (.kstateClean f)
    | 4 => some (.kstateReopen f)
    | _ => none
  | 0x07 => some (.krels f)
  | _ => none

/-- The instruction a 64-bit word names by its unit, op8 and variant fields (Table 2-10). -/
def vecInstr (unit op : Nat) (f : W64) : Option Instr :=
  match unit with
  | 0 => laneInstr op f
  | 1 => vmemInstr op f
  | 2 => convInstr op f
  | 3 => bankInstr op f
  | 4 => engineInstr op f
  | 5 => kvInstr op f
  | _ => none

/-- The unit field of a 64-bit word. -/
def unitOf (x : BitVec 64) : Nat := (fieldOf x 1 3).toNat

/-- The instruction a 64-bit word names, legal or not. -/
def namedInstr (x : BitVec 64) : Option Instr := vecInstr (unitOf x) (fieldOf x 4 8).toNat (W64.unpack x)

/-- The instruction of a 64-bit word, when it is a legal encoding. -/
def memberInstr (x : BitVec 64) : Option Instr :=
  match namedInstr x with
  | some i => if x.getLsbD 0 && vecLegal i then some i else none
  | none => none

/-- Whether a convoy accepts the instruction as a member (R66 rule 3). -/
def convoyAccepts (i : Instr) : Bool :=
  match i with
  | .setvl _ | .setvt _ | .seed _ => false
  | .vld _ | .vlds _ | .vldx _ | .vldff _ | .vst _ | .vsts _ | .vstx _ | .vldl _ | .vstl _ | .vpref _ => true
  | _ => (laneRow i).isSome || (convRow i).isSome

/-- FWD of a LANE or CONV word: ext16[15] outside form 10 (Table 2-6). -/
def isForward (i : Instr) : Bool :=
  match laneRow i with
  | some (r, f) => !r.sewField && f.form != 2 && f.x16.getLsbD 15
  | none =>
  match convRow i with
  | some (_, f) => f.x16.getLsbD 15
  | none => false

/-- The lower vector registers an instruction reads through vs1 and vs2, each with its chain bit. -/
def chainedSources (i : Instr) : List (Reg × Bool) :=
  match laneRow i with
  | some (r, f) =>
    (if r.s1 == .vec then [(f.vs1, f.c1)] else []) ++ (if r.s2 == .vec && f.form == 0 then [(f.vs2, f.c2)] else [])
  | none =>
  match convRow i with
  | some (r, f) =>
    (if r.s1 == .vec then [(f.vs1, f.c1)] else []) ++ (if r.s2 == .vec && f.form == 0 then [(f.vs2, f.c2)] else [])
  | none =>
  match vmemRow i with
  | some (r, f) =>
    (if r.c1 then [(f.vd, f.c1)] else []) ++ (if r.ix == .vec then [(f.vs2, false)] else [])
  | none => []

/-- R66 rule 5 for a member and the one after it, whose own legality is rule 4 of that member. -/
def forwardOk (i : Instr) (next : Option Instr) : Bool :=
  match isForward i, vecKey i, next with
  | false, _, _ => true
  | true, some (_, _, f), some j =>
    let named := (chainedSources j).filter fun p => p.1 == f.vd
    !named.isEmpty && named.all fun p => p.2
  | true, _, _ => false

/-- UNITi of a CONVOY header (Table 2-12). -/
def headerUnit (h : Parcel) (i : Nat) : Nat := (fieldOf h (14 + 3 * i) 3).toNat

/-- The member count a CONVOY header gives (Table 2-12). -/
def convoyCount (h : Parcel) : Nat := (fieldOf h 8 3).toNat + 2

/-- R66 rule 1 but for the address: CNT at most 4, [13:11] zero, every UNITi past the members zero. -/
def headerOk (h : Parcel) : Bool :=
  fieldOf h 0 8 == 0xC0#8 && decide ((fieldOf h 8 3).toNat ≤ 4) && fieldOf h 11 3 == 0 &&
  (List.range 6).all fun i => decide (i < convoyCount h) || headerUnit h i == 0

/-- The first member of a convoy that breaks rules 2 to 5 of R66. -/
def convoyBreach (h : Parcel) : Nat → List (BitVec 64) → Option Nat
  | _, [] => none
  | i, x :: xs =>
    match memberInstr x with
    | none => some i
    | some m =>
      if unitOf x == headerUnit h i && convoyAccepts m && forwardOk m (xs.head?.bind namedInstr) then convoyBreach h (i + 1) xs
      else some i

/-- Whether header and members are a legal convoy but for the header's address (R66). -/
def convoyLegal (h : Parcel) (ms : List (BitVec 64)) : Bool :=
  headerOk h && ms.length == convoyCount h && (convoyBreach h 0 ms).isNone

/-- The assigned CSR numbers and whether each may be written (Table 12-1). -/
def csrWritable (c : BitVec 12) : Option Bool :=
  let n := c.toNat
  if n ≤ 0x00A then some true
  else if 0x100 ≤ n && n ≤ 0x10D then some false
  else if n == 0x205 || n == 0x206 || n == 0x209 then some false
  else if 0x200 ≤ n && n ≤ 0x20B then some true
  else none

end Sys2Proof
end

