-- ==== Sys2Proof/WellFormed.lean ====
section
/-! DEFINITION. Which instructions are well formed: the conditions of Table 2-13 that the words alone
decide. An event of the device has no word and is well formed. -/
namespace Sys2Proof

/-- Whether the constructor is an event of the device, which no word encodes. -/
def Instr.isEvent : Instr → Bool
  | .barComplete _ | .waitReturn _ | .waitTimeout _ | .setvlGrant _ | .queueFillArrival _ _ | .vcappRoom _
  | .engineAccept _ | .commandCompletion _ | .streamBlock _ | .collectiveMatch _ | .driveCompletion _ _ _ _
  | .driveTimeout _ | .kvWaitRelease _ | .spliceExecute _ | .fidPlanStart _ | .fidMark _ | .fidTaskSubmit _
  | .fidSeal _ | .fidAbandon _ | .pcBoundary _ | .refreshInterval _ | .patrolScrub _ _ | .faultServiceRecord _
  | .watchdogExpiry _ | .dispatchRound _ | .successorSubmit _ | .pgraceExpiry _ | .lgraceExpiry _ | .mcfgLock
  | .memInitDone | .merrClear | .lrevoke _ | .leaseHoldExpiry | .qdoor _ | .tabort _ | .preqset _ | .gerrClear
  | .tlbinvWrite _ | .tlbinvComplete | .icinvGo | .fsreplyRetry _ | .fsreplyFault _ | .fsreplyExhausted _
  | .lmodeWrite _ _ | .drvctlBind _ _ | .drvctlUnbind _ _ | .mbSeal | .mbVerify | .mbAttest | .mbFwupdate
  | .mbRekey | .mbBadCommand _ | .mbCompletion | .hostRegWrite _ _ | .hostWrite _ _ | .hostRead _ _ _
  | .hostMemoryWrite _ _ | .peerDataArrival _ _ _ | .ucieLinkFailure | .stackHot _ | .thermalThrottle _ | .perst
  | .flr | .shutdownTemperature | .stackCool _ | .driveLinkTrained _ | .portTrained _ | .peerUnreachable _
  | .firmwareHdmaDisable _ => true
  | _ => false

/-- The conditions of Table 2-13 on the fields of an instruction: scopes (Table 2-4), the JTAB bound and
the FENCE kinds (R50, R53), CSR numbers and their access (R354, R355), convoys (R66), and the legal
encodings of each unit. -/
def Instr.wf (i : Instr) : Bool :=
  match i with
  | .jtab _ n => n != 0
  | .ldaq _ _ s | .sdrl _ _ s => decide (s.toNat < 6)
  | .amoadd _ _ _ s _ | .amoswap _ _ _ s _ | .amoand _ _ _ s _ | .amoor _ _ _ s _ | .amoxor _ _ _ s _
  | .amomax _ _ _ s _ | .amomin _ _ _ s _ | .amomaxu _ _ _ s _ | .amominu _ _ _ s _ | .cas _ _ _ s _ =>
    decide (s.toNat < 6)
  | .fence k _ s => k != 0 && decide (s.toNat < 6)
  | .csrr _ c => (csrWritable c).isSome
  | .csrw _ _ c | .csrs _ _ c | .csrc _ _ c => csrWritable c == some true
  | .convoy h ms => convoyLegal h ms
  | i => match vecKey i with
    | some _ => vecLegal i
    | none => true

end Sys2Proof
end

