-- ==== Sys2Proof/Decode.lean ====
section
/-! DEFINITION. Decoding parcels to instructions (R45-R70), total, refusing by name, and the encoder
written from the same tables. -/
namespace Sys2Proof

/-- Why parcels are not an instruction. Each but the last two is cause 0x01 (R71). -/
inductive DecodeError where
  /-- a scalar major Table 2-2 leaves blank -/
  | unassignedMajor
  /-- an fn6 Table 2-3 does not assign -/
  | unassignedFn
  /-- a unit or op8 Table 2-10 does not assign, or a variant its unit does not have -/
  | unassignedOp
  /-- a reserved bit or a field marked 0 that is not zero -/
  | reserved
  /-- field values outside their limits -/
  | illFormed
  /-- a convoy header that breaks rule 1 of R66 -/
  | header
  /-- a convoy whose first breaking member is the given one (R66) -/
  | member (m : Nat)
  /-- fewer parcels than the instruction has -/
  | truncated
  /-- no parcel at all -/
  | empty
  deriving DecidableEq, Repr

/-- An instruction when the fields its format marks 0 are zero. -/
def whenZero (z : Bool) (i : Instr) : Except DecodeError Instr :=
  if z then .ok i else .error .reserved

/-- The register-ALU operation of fn6 (Table 2-3). -/
def decodeAlu (fn : Nat) (d a b : Reg) : Except DecodeError Instr :=
  match fn with
  | 0x01 => .ok (.add d a b) | 0x02 => .ok (.sub d a b) | 0x03 => .ok (.and d a b) | 0x04 => .ok (.or d a b)
  | 0x05 => .ok (.xor d a b) | 0x06 => .ok (.andn d a b) | 0x07 => .ok (.sll d a b) | 0x08 => .ok (.srl d a b)
  | 0x09 => .ok (.sra d a b) | 0x0A => .ok (.slt d a b) | 0x0B => .ok (.sltu d a b) | 0x0C => .ok (.min d a b)
  | 0x0D => .ok (.max d a b) | 0x0E => .ok (.minu d a b) | 0x0F => .ok (.maxu d a b) | 0x10 => .ok (.mul d a b)
  | 0x11 => .ok (.mulh d a b) | 0x12 => .ok (.mulhu d a b) | 0x13 => .ok (.div d a b) | 0x14 => .ok (.divu d a b)
  | 0x15 => .ok (.rem d a b) | 0x16 => .ok (.remu d a b)
  | 0x17 => whenZero (b == 0) (.clz d a) | 0x18 => whenZero (b == 0) (.ctz d a) | 0x19 => whenZero (b == 0) (.cpop d a)
  | _ => .error .unassignedFn

/-- The control operation of fn6 (Table 2-3); bits [25:8] are zero (R52). -/
def decodeControl (fn : Nat) (z : Bool) : Except DecodeError Instr :=
  match fn with
  | 0 => whenZero z .nop | 1 => whenZero z .yield_ | 2 => whenZero z .halt | 3 => whenZero z .tret
  | _ => .error .unassignedFn

/-- The instruction of a scalar parcel but CONVOY (Tables 2-1 to 2-4), before the limits of `Instr.wf`. -/
def decodeScalar (w : Parcel) : Except DecodeError Instr :=
  let d : Reg := fieldOf w 8 6
  let a : Reg := fieldOf w 14 6
  let b : Reg := fieldOf w 20 6
  let fn : BitVec 6 := fieldOf w 26 6
  let i12 : BitVec 12 := fieldOf w 20 12
  let z6 : Bool := fn == 0
  let zImm6 : Bool := fieldOf w 26 6 == 0
  let zImm9 : Bool := fieldOf w 23 9 == 0
  let s3 : BitVec 3 := fieldOf w 20 3
  let za : Bool := w.getLsbD 31 == false
  let sc : BitVec 3 := fieldOf w 26 3
  let od : BitVec 2 := fieldOf w 29 2
  match (fieldOf w 1 7).toNat with
  | 0x00 => decodeAlu fn.toNat d a b
  | 0x10 => .ok (.addi d a i12) | 0x11 => .ok (.andi d a i12) | 0x12 => .ok (.ori d a i12) | 0x13 => .ok (.xori d a i12)
  | 0x14 => whenZero zImm6 (.slli d a b) | 0x15 => whenZero zImm6 (.srli d a b) | 0x16 => whenZero zImm6 (.srai d a b)
  | 0x17 => .ok (.slti d a i12) | 0x18 => .ok (.sltiu d a i12)
  | 0x19 => .ok (.ldih d (fieldOf w 14 18)) | 0x1A => .ok (.addpc d (fieldOf w 14 18))
  | 0x20 => .ok (.beq d a i12) | 0x21 => .ok (.bne d a i12) | 0x22 => .ok (.blt d a i12) | 0x23 => .ok (.bge d a i12)
  | 0x24 => .ok (.bltu d a i12) | 0x25 => .ok (.bgeu d a i12)
  | 0x26 => .ok (.j (fieldOf w 8 24)) | 0x27 => whenZero (d == 0) (.jtab a i12)
  | 0x30 => .ok (.lb d a i12) | 0x31 => .ok (.lbu d a i12) | 0x32 => .ok (.lh d a i12) | 0x33 => .ok (.lhu d a i12)
  | 0x34 => .ok (.lw d a i12) | 0x35 => .ok (.lwu d a i12) | 0x36 => .ok (.ld d a i12)
  | 0x37 => whenZero zImm9 (.ldaq d a s3)
  | 0x38 => .ok (.sb d a i12) | 0x39 => .ok (.sh d a i12) | 0x3A => .ok (.sw d a i12) | 0x3B => .ok (.sd d a i12)
  | 0x3C => whenZero zImm9 (.sdrl d a s3)
  | 0x40 => whenZero za (.amoadd d a b sc od) | 0x41 => whenZero za (.amoswap d a b sc od)
  | 0x42 => whenZero za (.amoand d a b sc od) | 0x43 => whenZero za (.amoor d a b sc od)
  | 0x44 => whenZero za (.amoxor d a b sc od) | 0x45 => whenZero za (.amomax d a b sc od)
  | 0x46 => whenZero za (.amomin d a b sc od) | 0x47 => whenZero za (.amomaxu d a b sc od)
  | 0x48 => whenZero za (.amominu d a b sc od) | 0x49 => whenZero za (.cas d a b sc od)
  | 0x50 => whenZero (fieldOf w 13 7 == 0 && zImm9) (.fence (fieldOf w 8 4) (w.getLsbD 12) s3)
  | 0x51 => whenZero (fieldOf w 8 24 == 0) .vwait | 0x52 => whenZero (fieldOf w 8 24 == 0) .bar
  | 0x53 => whenZero z6 (.waitc d a b) | 0x54 => whenZero (z6 && b == 0) (.waitv d a)
  | 0x55 => whenZero (z6 && fieldOf w 17 3 == 0) (.waitq d (fieldOf w 14 3) b)
  | 0x56 => whenZero z6 (.spawn d a b)
  | 0x57 => whenZero (a == 0) (.csrr d i12) | 0x58 => .ok (.csrw d a i12) | 0x59 => .ok (.csrs d a i12)
  | 0x5A => .ok (.csrc d a i12)
  | 0x5B => whenZero (d == 0 && a == 0) (.trap i12) | 0x5C => whenZero (d == 0 && a == 0) (.brk i12)
  | 0x5F => decodeControl fn.toNat (fieldOf w 8 18 == 0)
  | _ => .error .unassignedMajor

/-- Whether a parcel is a CONVOY header (major 0x60, R65). -/
def isConvoyHeader (w : Parcel) : Bool := fieldOf w 0 8 == 0xC0#8

/-- The member words of a convoy: two parcels each, the low half first (R45, R65). -/
def takeMembers : Nat → List Parcel → Option (List (BitVec 64))
  | 0, _ => some []
  | n + 1, l :: h :: rest => (takeMembers n rest).map fun ms => (h ++ l) :: ms
  | _ + 1, _ => none

/-- How many parcels the instruction that starts with `w` has (R45). -/
def parcelCount (w : Parcel) : Nat :=
  if w.getLsbD 0 then 2 else if isConvoyHeader w && headerOk w then 1 + 2 * convoyCount w else 1

/-- A decoded instruction when it is well formed. -/
def whenWf (i : Instr) : Except DecodeError Instr := if i.wf then .ok i else .error .illFormed

/-- The instruction that starts the parcels, by R45: bit 0 of the first selects a 64-bit word; else a
CONVOY header takes its members, and every other parcel is a scalar instruction. -/
def decode (ps : List Parcel) : Except DecodeError Instr :=
  match ps with
  | [] => .error .empty
  | w :: rest =>
    if w.getLsbD 0 then
      match rest with
      | [] => .error .truncated
      | h :: _ =>
        match vecInstr (unitOf (h ++ w)) (fieldOf (h ++ w) 4 8).toNat (W64.unpack (h ++ w)) with
        | some i => whenWf i
        | none => .error .unassignedOp
    else if isConvoyHeader w then
      if headerOk w then
        match takeMembers (convoyCount w) rest with
        | none => .error .truncated
        | some ms =>
          match convoyBreach w 0 ms with
          | some m => .error (.member m)
          | none => whenWf (.convoy w ms)
      else .error .header
    else
      match decodeScalar w with
      | .ok i => whenWf i
      | .error e => .error e

/-- A word of format SR, SI, SB, SM or SX by its fields, high to low (Table 2-1): a 12-bit upper field,
the field at [19:14], the field at [13:8] and the major. -/
def word12 (hi : BitVec 12) (mid lo : Reg) (major : BitVec 7) : Parcel := hi ++ mid ++ lo ++ major ++ 0#1

/-- A word of format SR (Table 2-1). -/
def wordSR (fn : BitVec 6) (b a d : Reg) (major : BitVec 7) : Parcel := fn ++ b ++ a ++ d ++ major ++ 0#1

/-- A word of format SU (Table 2-1). -/
def wordSU (i : BitVec 18) (d : Reg) (major : BitVec 7) : Parcel := i ++ d ++ major ++ 0#1

/-- A word of format SA (Table 2-1). -/
def wordSA (o : BitVec 2) (s : BitVec 3) (b a d : Reg) (major : BitVec 7) : Parcel :=
  0#1 ++ o ++ s ++ b ++ a ++ d ++ major ++ 0#1

/-- A word whose bits [31:8] are one field (format SJ; the majors without operands). -/
def word24 (o : BitVec 24) (major : BitVec 7) : Parcel := o ++ major ++ 0#1

/-- The parcel of a scalar instruction (Tables 2-1 to 2-4). -/
def encodeScalar (i : Instr) : Option Parcel :=
  match i with
  | .add d a b => some (wordSR 0x01 b a d 0x00)
  | .sub d a b => some (wordSR 0x02 b a d 0x00)
  | .and d a b => some (wordSR 0x03 b a d 0x00)
  | .or d a b => some (wordSR 0x04 b a d 0x00)
  | .xor d a b => some (wordSR 0x05 b a d 0x00)
  | .andn d a b => some (wordSR 0x06 b a d 0x00)
  | .sll d a b => some (wordSR 0x07 b a d 0x00)
  | .srl d a b => some (wordSR 0x08 b a d 0x00)
  | .sra d a b => some (wordSR 0x09 b a d 0x00)
  | .slt d a b => some (wordSR 0x0A b a d 0x00)
  | .sltu d a b => some (wordSR 0x0B b a d 0x00)
  | .min d a b => some (wordSR 0x0C b a d 0x00)
  | .max d a b => some (wordSR 0x0D b a d 0x00)
  | .minu d a b => some (wordSR 0x0E b a d 0x00)
  | .maxu d a b => some (wordSR 0x0F b a d 0x00)
  | .mul d a b => some (wordSR 0x10 b a d 0x00)
  | .mulh d a b => some (wordSR 0x11 b a d 0x00)
  | .mulhu d a b => some (wordSR 0x12 b a d 0x00)
  | .div d a b => some (wordSR 0x13 b a d 0x00)
  | .divu d a b => some (wordSR 0x14 b a d 0x00)
  | .rem d a b => some (wordSR 0x15 b a d 0x00)
  | .remu d a b => some (wordSR 0x16 b a d 0x00)
  | .clz d a => some (wordSR 0x17 0 a d 0x00)
  | .ctz d a => some (wordSR 0x18 0 a d 0x00)
  | .cpop d a => some (wordSR 0x19 0 a d 0x00)
  | .addi d a i => some (word12 i a d 0x10)
  | .andi d a i => some (word12 i a d 0x11)
  | .ori d a i => some (word12 i a d 0x12)
  | .xori d a i => some (word12 i a d 0x13)
  | .slli d a n => some (wordSR 0 n a d 0x14)
  | .srli d a n => some (wordSR 0 n a d 0x15)
  | .srai d a n => some (wordSR 0 n a d 0x16)
  | .slti d a i => some (word12 i a d 0x17)
  | .sltiu d a i => some (word12 i a d 0x18)
  | .ldih d i => some (wordSU i d 0x19)
  | .addpc d i => some (wordSU i d 0x1A)
  | .beq a b o => some (word12 o b a 0x20)
  | .bne a b o => some (word12 o b a 0x21)
  | .blt a b o => some (word12 o b a 0x22)
  | .bge a b o => some (word12 o b a 0x23)
  | .bltu a b o => some (word12 o b a 0x24)
  | .bgeu a b o => some (word12 o b a 0x25)
  | .j o => some (word24 o 0x26)
  | .jtab a n => some (word12 n a 0 0x27)
  | .lb d a i => some (word12 i a d 0x30)
  | .lbu d a i => some (word12 i a d 0x31)
  | .lh d a i => some (word12 i a d 0x32)
  | .lhu d a i => some (word12 i a d 0x33)
  | .lw d a i => some (word12 i a d 0x34)
  | .lwu d a i => some (word12 i a d 0x35)
  | .ld d a i => some (word12 i a d 0x36)
  | .ldaq d a s => some (word12 (0#9 ++ s) a d 0x37)
  | .sb d a i => some (word12 i a d 0x38)
  | .sh d a i => some (word12 i a d 0x39)
  | .sw d a i => some (word12 i a d 0x3A)
  | .sd d a i => some (word12 i a d 0x3B)
  | .sdrl d a s => some (word12 (0#9 ++ s) a d 0x3C)
  | .amoadd d a b s o => some (wordSA o s b a d 0x40)
  | .amoswap d a b s o => some (wordSA o s b a d 0x41)
  | .amoand d a b s o => some (wordSA o s b a d 0x42)
  | .amoor d a b s o => some (wordSA o s b a d 0x43)
  | .amoxor d a b s o => some (wordSA o s b a d 0x44)
  | .amomax d a b s o => some (wordSA o s b a d 0x45)
  | .amomin d a b s o => some (wordSA o s b a d 0x46)
  | .amomaxu d a b s o => some (wordSA o s b a d 0x47)
  | .amominu d a b s o => some (wordSA o s b a d 0x48)
  | .cas d a b s o => some (wordSA o s b a d 0x49)
  | .fence k c s => some (word24 (0#9 ++ s ++ 0#7 ++ BitVec.ofBool c ++ k) 0x50)
  | .vwait => some (word24 0 0x51)
  | .bar => some (word24 0 0x52)
  | .waitc d a t => some (wordSR 0 t a d 0x53)
  | .waitv d t => some (wordSR 0 0 t d 0x54)
  | .waitq d q t => some (wordSR 0 t (0#3 ++ q) d 0x55)
  | .spawn d q l => some (wordSR 0 l q d 0x56)
  | .csrr d c => some (word12 c 0 d 0x57)
  | .csrw d a c => some (word12 c a d 0x58)
  | .csrs d a c => some (word12 c a d 0x59)
  | .csrc d a c => some (word12 c a d 0x5A)
  | .trap i => some (word12 i 0 0 0x5B)
  | .brk i => some (word12 i 0 0 0x5C)
  | .nop => some (wordSR 0 0 0 0 0x5F)
  | .yield_ => some (wordSR 1 0 0 0 0x5F)
  | .halt => some (wordSR 2 0 0 0 0x5F)
  | .tret => some (wordSR 3 0 0 0 0x5F)
  | _ => none

/-- The two parcels of a 64-bit word, the low half first (R45). -/
def parcels64 (x : BitVec 64) : List Parcel := [fieldOf x 0 32, fieldOf x 32 32]

/-- The parcels of an instruction; none for an event of the device. -/
def encode (i : Instr) : Option (List Parcel) :=
  match i with
  | .convoy h ms => some (h :: ms.flatMap parcels64)
  | i =>
    match encodeScalar i with
    | some w => some [w]
    | none =>
      match vecKey i with
      | some (u, op, f) => some (parcels64 (f.pack u op))
      | none => none

/-- `n` bytes from a number, the least significant first (R5). -/
def bytesOfNat : Nat → Nat → List Byte
  | 0, _ => []
  | n + 1, w => BitVec.ofNat 8 w :: bytesOfNat n (w / 256)

/-- The little-endian number of some bytes (R5). -/
def natOfBytes : List Byte → Nat
  | [] => 0
  | b :: bs => b.toNat + 256 * natOfBytes bs

/-- The parcels at the start of some bytes (R45). -/
def parcelsOfBytes : Nat → List Byte → List Parcel
  | 0, _ => []
  | n + 1, bs => BitVec.ofNat 32 (natOfBytes (bs.take 4)) :: parcelsOfBytes n (bs.drop 4)

/-- The longest instruction, in parcels: a CONVOY of six members (R45). -/
def maxParcels : Nat := 13

/-- The instruction the decoder reads from the bits `w`, numbered from bit 0 of the first parcel up, laid
out as little-endian bytes, every bit from `nbits` up being zero. -/
def decodeTableWord (nbits w : Nat) : Option Instr :=
  match decode (parcelsOfBytes maxParcels (bytesOfNat (4 * maxParcels) (w % 2 ^ nbits))) with
  | .ok i => some i
  | .error _ => none

end Sys2Proof
end

