-- ==== Sys2Proof/Machine/Bits.lean ====
section
/-! DEFINITION. Bit fields, signed and saturating readings, bytes, and maps from numbers kept as sorted
lists: the helpers every other file of the machine uses. -/
namespace Sys2Proof.Machine

/-- Bits [lo+w-1:lo] of a number. -/
def bitsOf (x lo w : Nat) : Nat := (x >>> lo) % 2 ^ w

/-- Bit `i` of a number, as a number. -/
def bitAt (x i : Nat) : Nat := bitsOf x i 1

/-- A number with bits [lo+w-1:lo] replaced. -/
def putBits (x lo w v : Nat) : Nat := x - (bitsOf x lo w <<< lo) + ((v % 2 ^ w) <<< lo)

/-- sext(x, n) of R8 on a number: its low `n` bits taken as two's complement. -/
def sextNat (x n : Nat) : Int :=
  let y := x % 2 ^ n
  if y < 2 ^ (n - 1) then Int.ofNat y else Int.ofNat y - Int.ofNat (2 ^ n)

/-- The low `n` bits of an integer, as a number. -/
def lowBits (x : Int) (n : Nat) : Nat := (x % (2 : Int) ^ n).toNat

/-- sat(x, n, s) of R8: `x` clamped to the signed or unsigned `n`-bit range. -/
def satInt (x : Int) (n : Nat) (signed : Bool) : Int :=
  if signed then max (-(2 : Int) ^ (n - 1)) (min x ((2 : Int) ^ (n - 1) - 1)) else max 0 (min x ((2 : Int) ^ n - 1))

/-- msb(x) of R8 plus 1: the number of bits of `x`, 0 for 0. -/
def bitLen (x : Nat) : Nat := if x = 0 then 0 else Nat.log2 x + 1

/-- How many bits are 1 among the low `n`. -/
def popCount : Nat → Nat → Nat
  | 0, _ => 0
  | n + 1, x => x % 2 + popCount n (x / 2)

/-- Ceiling division. -/
def ceilDiv (a b : Nat) : Nat := (a + b - 1) / b

/-- x · 2^n rounded to nearest, ties to even: rne_shift(x, -n) of R8. -/
def rneShift (x : Int) (n : Int) : Int :=
  if n ≤ 0 then x * (2 : Int) ^ (-n).toNat
  else
    let d := (2 : Int) ^ n.toNat
    let q := x.fdiv d
    let r := x - q * d
    if 2 * r > d || (2 * r == d && q % 2 == 1) then q + 1 else q

/-- The value of a map at a key; a key that is not listed holds the default. -/
def smGet {α : Type} [Inhabited α] (m : List (Nat × α)) (k : Nat) : α :=
  match m with
  | [] => default
  | (a, v) :: rest => if a == k then v else smGet rest k

/-- A list of pairs with one more pair, before the first greater key. -/
def smInsert {α : Type} (k : Nat) (v : α) : List (Nat × α) → List (Nat × α)
  | [] => [(k, v)]
  | (a, w) :: rest => if k < a then (k, v) :: (a, w) :: rest else (a, w) :: smInsert k v rest

/-- A map with no pair at the key. -/
def smErase {α : Type} (k : Nat) (m : List (Nat × α)) : List (Nat × α) := m.filter fun p => p.1 != k

/-- A map with the key at a value; the default is not listed. -/
def smSet {α : Type} [Inhabited α] [DecidableEq α] (m : List (Nat × α)) (k : Nat) (v : α) : List (Nat × α) :=
  if v = default then smErase k m else smInsert k v (smErase k m)

/-- Keys rise strictly and no value is the default. -/
def smWf {α : Type} [Inhabited α] [DecidableEq α] : List (Nat × α) → Bool
  | [] => true
  | [(_, v)] => decide (v ≠ default)
  | (a, v) :: (b, w) :: rest => decide (v ≠ default) && decide (a < b) && smWf ((b, w) :: rest)

/-- The values of a map at `n` keys from `k` up. -/
def smRange {α : Type} [Inhabited α] : Nat → Nat → List (Nat × α) → List α
  | 0, _, _ => []
  | n + 1, k, m =>
    match m.dropWhile fun x => x.1 < k with
    | (a, v) :: rest => (if a = k then v else default) :: smRange n (k + 1) ((a, v) :: rest)
    | [] => default :: smRange n (k + 1) []

/-- A list with each run of one number cut to one. -/
def squeeze : List Nat → List Nat
  | a :: b :: rest => if a = b then squeeze (b :: rest) else a :: squeeze (b :: rest)
  | xs => xs

/-- The 128-byte lines of some places, each once. -/
def linesOf (ps : List Nat) : List Nat := (squeeze (ps.map fun p => p / 128 * 128)).eraseDups

/-- The `k`-th 64-bit doubleword of some bytes. -/
def dwordOf (bs : List Byte) (k : Nat) : Nat := natOfBytes ((bs.drop (8 * k)).take 8)

/-- Bytes whose bits are the given number, as a packed image (R12). -/
def packBits (w : Nat) (xs : List Nat) : Nat :=
  match xs with
  | [] => 0
  | x :: rest => x % 2 ^ w + 2 ^ w * packBits w rest

/-- The positions below `n` of the 1 bits of `x`, ascending. -/
def onesBelow (n x : Nat) : List Nat := (List.range n).filter fun i => x.testBit i

end Sys2Proof.Machine
end

