-- ==== Sys2Proof/Machine/State.lean ====
section
/-! DEFINITION. The machine's state as plain data: the threads, the tasks, the banks, memory, the engines'
commands, the dispatchers, the control registers and the housekeeping controller; and the state after reset. -/
namespace Sys2Proof.Machine

/-! ### The outcomes -/

/-- Why the model stops with a fault. Every exception the spec gives an instruction is a trap of the
machine, taken as a next state; only the outside world can name what does not exist. -/
inductive Fault where
  /-- A host access names a physical address that is in no row of Table 14-1. Raised by the host and
  peer events alone. Safe: the machine goes nowhere. -/
  | noSuchAddress
  deriving DecidableEq, Repr

/-- Why the model gives an instruction no meaning. -/
inductive Refusal where
  /-- The arm of `exec` has no meaning yet. Raised by `exec` alone. Safe. -/
  | notModelled (mnemonic : String)
  deriving DecidableEq, Repr

/-! ### Small records -/

/-- Memory: the listed bytes; an address that is not listed reads 0 (R86, log 4). Keys are places: a
physical address below 2^52, or window storage above it (`placeCs`, `placeCm`, `placeDs`). -/
abbrev Memory := List Host.Cell

/-- What a trap writes to CAUSE, FADDR and FINFO (R429), and the TSTATUS bits of a breach of R66. -/
structure Trap where
  cause : BitVec 8
  faddr : Word
  finfo : Word
  /-- TSTATUS.CONV for a trap that no kept entry has -/
  conv : Bool := false
  /-- TSTATUS.MEMBER -/
  member : BitVec 3 := 0
  deriving DecidableEq, Repr

/-- One page pinned by BLEASE (R131). -/
structure Pin where
  /-- global bank number -/
  bank : Nat
  /-- virtual address of the page -/
  va : Word
  /-- physical address of the page -/
  pa : Nat
  /-- the leaf grants W -/
  w : Bool
  deriving DecidableEq, Repr

/-- A block-table entry: the row's physical address and the fields of Table 10-6. -/
structure BlockEntry where
  pa : Nat
  tag : Nat
  delta : Nat
  seqpos : Nat
  flags : Nat
  count : Nat
  first : Nat
  deriving DecidableEq, Repr

/-- What KCHECK, KPROBE or LUACC.kv has read of its entries while it waits under WAIT, or between rows (R139, R311): each
with the page that LUACC.kv finds it pinned in. -/
structure KvHeld where
  entries : List (BlockEntry × Option Pin)
  /-- LUACC.kv has read a row: no block of these is written before it stops (R314) -/
  reading : Bool := false
  deriving DecidableEq, Repr

/-- The runs of one restart unit on one pseudo-channel (R91, R97). -/
structure PcRun where
  /-- global pseudo-channel -/
  pc : Nat
  /-- when its next run became ready -/
  ready : Nat
  /-- runs that have not ended, the one in progress among them -/
  left : Nat
  /-- one is in progress -/
  running : Bool := false
  /-- one has started -/
  started : Bool := false
  deriving DecidableEq, Repr

/-- Where one vector element lies: its number, its address, the byte places it touches and its low bit in them
(R206). -/
structure Elem where
  e : Nat
  va : Word
  ps : List Nat
  sh : Nat := 0
  deriving DecidableEq, Repr

/-- One posted vector-class instruction in the VIQ (R194), with the values that travel with it: the words
of Table 14-8. -/
structure VEntry where
  /-- member of a convoy -/
  conv : Bool
  member : BitVec 3
  /-- members minus 2 -/
  cnt : BitVec 3
  /-- address of the instruction; of the member, not of the header -/
  addr : BitVec 56
  insn : Instr
  /-- TRET drops the entry -/
  skip : Bool := false
  queue : BitVec 3 := 0
  claimed : Bool := false
  /-- RESTART, the VSTART it begins at -/
  restart : BitVec 20 := 0
  /-- value of the register named in bits [47:42] at posting -/
  opa : Word := 0
  /-- of bits [29:24] -/
  opb : Word := 0
  /-- of bits [23:18] -/
  opc : Word := 0
  /-- of bits [17:12] -/
  opd : Word := 0
  devthr : BitVec 16 := 0
  rmode : BitVec 3 := 0
  bmask : BitVec 32 := 0
  gkey : Word := 0
  gcnt : BitVec 32 := 0
  /-- the entry is being replayed after a trap (TSTATUS.REPLAY, R432) -/
  replay : Bool := false
  /-- the first place of ring entries a VCAPP has reserved, with their count (R223) -/
  reserved : Option (Nat × Nat) := none
  /-- it is in progress and waits (Table 14-6) -/
  begun : Bool := false
  /-- a store or atomic that has performed the elements below RESTART (R210, R211) -/
  part : Bool := false
  /-- elements of a store, an atomic or a VCAPP that it has translated and, waiting at one of them, has yet to perform: each page
  is translated once (R208, R210) -/
  els : List Elem := []
  /-- lane groups that a SETVL asleep needs, as it began (R235) -/
  need : Option Nat := none
  /-- the entries it holds -/
  kv : Option KvHeld := none
  /-- the runs of its restart unit (R91) -/
  runs : List PcRun := []
  deriving DecidableEq, Repr

/-- One entry of a load queue: a strip of elements (R197). -/
structure QEntry where
  vl : BitVec 15
  sew : BitVec 6
  /-- the fill is complete or recorded as failed (R201) -/
  arrived : Bool
  failed : Bool := false
  cause : BitVec 8 := 0
  faddr : Word := 0
  /-- the failing element -/
  felem : Nat := 0
  claimed : Bool := false
  /-- offset of its data in the thread's stream-buffer share, in 128-byte units (Table 14-14) -/
  doff : BitVec 10
  /-- the elements the fill has yet to read -/
  src : List Elem := []
  /-- bits of a memory element (R203) -/
  width : Nat := 0
  /-- address of the queue load -/
  pc : Word := 0
  /-- the elements; 0 where the fill has yet to read one -/
  data : List Nat := []
  deriving DecidableEq, Repr

/-- The wait a scalar instruction has begun (R376, R375, R235). -/
inductive Wait where
  /-- WAITC, WAITV or WAITQ at PC, with the core cycles left of its timeout; none when that register is s0 -/
  | event (left : Option Nat)
  /-- BAR, arrived and waiting for the gang -/
  | bar
  /-- SETVL, asleep in the lane allocation table -/
  | setvl
  deriving DecidableEq, Repr

/-- A wait for fault service (R419): the page fault that stands behind it, and the host's answer. -/
structure FsWait where
  /-- virtual address of the access -/
  va : Word
  write : Bool
  fetch : Bool
  pin : Bool
  /-- tag of the record written for the page; none while the record is not yet written -/
  tag : Option (BitVec 32) := none
  /-- FAULT (true) or EXHAUSTED (false) once the host has answered so (R420) -/
  answer : Option Bool := none
  deriving DecidableEq, Repr

/-! ### A hardware thread -/

/-- The lane-side state of a thread (R228-R233). Positions are physical: lane group h holds positions
1024·h to 1024·h + 1023, so nothing of another task can be named. -/
structure Lanes where
  /-- element `p` of lower register r, 16 planes, at key 16384·r + p (R228) -/
  v : List (Nat × BitVec 16) := []
  /-- scale byte of block n of lower register r at key 1024·r + n (R229) -/
  z : List (Nat × BitVec 8) := []
  /-- bit p of mask register k at key 16384·k + p -/
  k : List (Nat × Bool) := []
  /-- lane-private byte b of group h at key 32768·h + b (R161) -/
  lp : List (Nat × BitVec 8) := []
  /-- entry e of lane table n in group h at key 4096·n + 256·h + e (R285) -/
  lt : List (Nat × BitVec 16) := []
  /-- VTYPE.SEW -/
  sew : BitVec 6 := 16
  /-- VL -/
  vl : BitVec 15 := 0
  /-- LANES.GMAP; VLMAX and GRANT follow from it -/
  gmap : BitVec 16 := 0
  /-- LANES.SHRINK -/
  shrink : Bool := false
  /-- LANES.SHARE -/
  share : BitVec 5 := 0
  deriving DecidableEq, Repr

/-- The status registers a program reads and writes (Table 12-1), at their task-entry values. -/
structure Csrs where
  /-- VSTART.START for the next posted instruction (R356) -/
  vstart : BitVec 20 := 0
  /-- RMODE.MODE -/
  rmode : BitVec 3 := 0
  /-- RAD.DIST -/
  rad : BitVec 5 := 4
  gkey : Word := 0
  gcnt : BitVec 32 := 0
  /-- FTR.COUNT, the elements VLDFF kept -/
  ftr : Word := 0
  /-- BMASK [31:0] -/
  bmask : BitVec 32 := 0xFF00FFFF
  /-- DEVTHR.THR -/
  devthr : BitVec 16 := 0xFFFF
  /-- WDOG.COUNT -/
  wdog : BitVec 32 := 0
  /-- core-local cycles elapsed in the watchdog's unit of 1,024 (Table 14-13) -/
  wdogElapsed : BitVec 10 := 0
  /-- the watchdog's count has reached 0 and the trap of R358 is to be taken at the next boundary -/
  wdogDue : Bool := false
  /-- SFLAGS (Table 1-14) -/
  sflags : Word := 0
  deriving DecidableEq, Repr

/-- The trap-mode registers (Table 14-7) and the mode itself. -/
structure TrapRegs where
  /-- the thread is in trap mode -/
  mode : Bool := false
  /-- the thread is frozen (R434) -/
  frozen : Bool := false
  /-- the handler stack register hs: s62 in trap mode (R75) -/
  hs : Word := 0
  /-- TSTATUS -/
  tstatus : BitVec 11 := 0
  tpc : BitVec 56 := 0
  cause : BitVec 8 := 0
  faddr : Word := 0
  finfo : Word := 0
  cause2 : BitVec 8 := 0
  faddr2 : Word := 0
  tvec : BitVec 56 := 0
  tstack : Word := 0
  /-- VCP as the trap set it (R425) -/
  vcp : BitVec 56 := 0
  /-- VIQSEL.WORD and VIQSEL.ENTRY -/
  selWord : BitVec 4 := 0
  selEntry : BitVec 6 := 0
  deriving DecidableEq, Repr

/-- An agent as a scope names it (Tables 11-1, 11-3). -/
inductive Agent where
  /-- a hardware thread: its scalar side, vector side and bank accesses -/
  | thread (n : Nat)
  /-- an engine, the splice unit, the Fid or a lease's bank units, in a module, working for a thread -/
  | unit (m n : Nat)
  /-- the host or a peer package -/
  | outside
  deriving DecidableEq, Repr

/-- A relaxed read as a FENCE acquires it: its places and the moment at which it was satisfied (R339). -/
structure ReadNote where
  places : List Nat
  at' : Nat
  deriving DecidableEq, Repr

/-- What a thread's relaxed accesses are ordered after (R335, R336, R340). Moments are counted in writes performed. -/
structure Order where
  /-- from which moment on its scalar, its vector and its bank reads may be satisfied -/
  scalar : Nat := 0
  vector : Nat := 0
  bank : Nat := 0
  /-- the moment of its last access to a bank, by the bank's number (R124, R129) -/
  rows : List (Nat × Nat) := []
  /-- the latest moment at which a vector access was satisfied or performed (Table 11-5, VWAIT) -/
  last : Nat := 0
  /-- the moment from which both sides see a byte that its scalar side has written, by its place -/
  seen : List (Nat × Nat) := []
  /-- the moment from which its vector side alone sees a byte that its lane groups or commands have written (R213) -/
  vecSeen : List (Nat × Nat) := []
  /-- the moment at which its scalar side read a byte, or found what its vector side had read, by its place -/
  read : List (Nat × Nat) := []
  /-- the moment at which lane group h read a byte, at 16 · place + h: before the vector instruction in hand, and in it
  (R335) -/
  laneSeen : List (Nat × Nat) := []
  laneNext : List (Nat × Nat) := []
  /-- stores below this number are followed by its later scalar accesses (VWAIT, R213 item 3) -/
  joined : Nat := 0
  /-- places of owned lines that an access of its waits for (R175) -/
  awaited : List Nat := []
  /-- its last relaxed scalar and vector reads -/
  lastScalar : Option ReadNote := none
  lastVector : Option ReadNote := none
  deriving DecidableEq, Repr

/-- One hardware thread (R74, R354) and the task it runs. -/
structure Thread where
  /-- THREADID: 4 × core + thread within the core -/
  id : Nat := 0
  /-- TASKID of its task; none on a free thread -/
  task : Option (BitVec 32) := none
  pc : Word := 0
  /-- s0 to s63; s0 is never written (R75) -/
  sr : Vector Word 64 := Vector.replicate 64 0
  csr : Csrs := {}
  lanes : Lanes := {}
  /-- the VIQ, oldest entry first; in trap mode the kept entries (R194, R425) -/
  viq : List VEntry := []
  /-- q0 to q7, oldest entry first (R197) -/
  q : Vector (List QEntry) 8 := Vector.replicate 8 []
  /-- the event latch (R378) -/
  latch : Option Word := none
  trap : TrapRegs := {}
  wait : Option Wait := none
  /-- the access at PC waits for fault service (R419) -/
  fsw : Option FsWait := none
  /-- the access of the VIQ's head waits for fault service -/
  vfsw : Option FsWait := none
  /-- what its relaxed accesses are ordered after -/
  order : Order := {}
  /-- the instruction at PC could not go on at its last turn (the model's own mark, log 2) -/
  stall : Bool := false
  /-- YIELD gave its next issue turn away (R381) -/
  yielded : Bool := false
  deriving DecidableEq, Repr

/-! ### Tasks and leases -/

/-- The lease of a task (R105-R112, Table 4-3); the banks' own contents are in `State.banks`. -/
structure Lease where
  /-- the lease is held -/
  active : Bool := false
  /-- first global pseudo-channel -/
  p0 : Nat := 0
  /-- pseudo-channels held -/
  npc : Nat := 0
  /-- REV -/
  rev : Bool := false
  /-- bound bits of t0 to t31 -/
  tbound : BitVec 32 := 0
  /-- bound bits of c0 to c7 -/
  cbound : BitVec 8 := 0
  /-- pinned pages, oldest first; a bank's list is its pages in this order -/
  pins : List Pin := []
  deriving DecidableEq, Repr

/-- Where a task is in its life. -/
inductive TaskStatus where
  /-- on a hardware thread -/
  | running
  /-- pre-empted; `forced` with the lane groups it held (R238, R437) -/
  | saved (forced : Bool) (grant : Nat)
  /-- ended with the status of Table 13-4; a gang member waits so for its gang (R394) -/
  | ended (status : BitVec 7)
  deriving DecidableEq, Repr

/-- A task, or one member of a gang (R386-R388). -/
structure Task where
  /-- TASKID -/
  id : BitVec 32
  /-- the launch record as dispatched (Table 13-1) -/
  launch : BitVec 1024
  /-- rank in the gang; 0 outside a gang -/
  rank : Nat := 0
  /-- TASKID of rank 0 -/
  base : BitVec 32
  /-- work queue the record came from, and its position there -/
  queue : Nat := 0
  qpos : Nat := 0
  /-- module of that queue, whose dispatcher placed it (R398) -/
  home : Nat := 0
  status : TaskStatus := .running
  /-- core the task runs on, or last ran on -/
  core : Nat := 0
  lease : Lease := {}
  /-- PREQ.PEND -/
  pend : Bool := false
  /-- the pre-emption grace has run out in trap mode (R406) -/
  graceOut : Bool := false
  /-- a failed save made it non-pre-emptible (R407) -/
  noPreempt : Bool := false
  /-- resumed ahead of every other candidate (R408) -/
  urgent : Bool := false
  /-- BARs completed and ARRIVED (R375) -/
  barK : BitVec 32 := 0
  arrived : Bool := false
  /-- dispatch order, for ties (R403, R405) -/
  order : Nat := 0
  /-- dispatcher round of its pre-emption, for aging (R400) -/
  since : Nat := 0
  /-- when its record became head, among the records that did (R401) -/
  head : Nat := 0
  /-- storage still to be zeroed before any member executes: place and bytes (R398) -/
  zeroing : List (Nat × Nat) := []
  /-- it has been stopped to be retired as ABORTED, once an append that has reserved its entries is complete (R397, Table
  14-6) -/
  aborting : Bool := false
  deriving DecidableEq, Repr

/-! ### Banks -/

/-- The contents of one bank logic unit (Table 3-2, Table 4-3). -/
structure Bank where
  /-- element e of v(32+j) at key 256·j + e -/
  v : List (Nat × BitVec 40) := []
  /-- OV of v32 to v63 -/
  ov : BitVec 32 := 0
  /-- entry x of slot t at key 256·t + x -/
  t : List (Nat × BitVec 32) := []
  /-- texp of slot t -/
  texp : List (Nat × BitVec 8) := []
  tsat : BitVec 32 := 0
  /-- entry j of codebook c at key 16·c + j -/
  cb : List (Nat × BitVec 16) := []
  /-- its storage that holds an uncorrectable error: slot t as t, upper register r as r, codebook n as 64 + n (R127) -/
  bad : List Nat := []
  deriving DecidableEq, Repr, Inhabited

/-! ### Engine, splice and repair commands -/

/-- The state of a stream unit's open stream (R182-R184). -/
structure Stream where
  /-- descriptor address, and its fields -/
  desc : Word
  src : Word
  srclen : Word
  ring : Word
  rsz : Nat
  /-- source bytes consumed -/
  taken : Nat := 0
  /-- decoded bytes published -/
  prod : Nat := 0
  /-- closed by the named XSCLOSE or XCANCEL, or by HALT -/
  closing : Bool := false
  deriving DecidableEq, Repr

/-- One part of an XSTOR request on its way to the drive (R187). -/
structure StorePart where
  /-- first block relative to the request, and blocks -/
  first : Nat
  count : Nat
  submitted : Bool := false
  done : Bool := false
  /-- its blocks have all been moved -/
  ok : Bool := false
  deriving DecidableEq, Repr

/-- The peer that an endpoint handle names (R454). -/
inductive PeerAddr where
  /-- a module of this package -/
  | here (m : Nat)
  /-- by UALink: port, accelerator identifier and module -/
  | ualink (port id m : Nat)
  /-- by Ultra Ethernet: port, IPv6 address, job identifier and module -/
  | ultra (port : Nat) (ip : List Byte) (job m : Nat)
  /-- its entry of the connection table cannot be read -/
  | unknown
  deriving DecidableEq, Repr

/-- The state of a rank's collective (R189-R191). -/
structure Coll where
  group : BitVec 32
  op : Nat
  nrank : Nat
  rank : Nat
  dtype : Nat
  /-- how many earlier XCOLLs of this task and group were accepted -/
  seq : Nat
  /-- chunk length L -/
  len : Nat
  send : List Word
  recv : List Word
  /-- endpoint handles -/
  handles : List Word
  /-- the peers that the handles name (R454) -/
  peers : List PeerAddr := []
  /-- S as its engine has read it: each word once (R176) -/
  src : Option (List Byte) := none
  /-- or the COUNT and status with which that read failed -/
  srcFail : Option (Nat × Nat) := none
  /-- what arrived from the ranks of other packages: rank, OP, NRANK and DTYPE, and data -/
  arrived : List (Nat × PeerHead × List Byte) := []
  /-- what was sent to the ranks of other packages, and which of them have read it -/
  sent : List (Nat × List Byte) := []
  acked : List Nat := []
  deriving DecidableEq, Repr

/-- A collective that ended without its exchange, for the ranks of this package that had not issued (R190). -/
structure CollEnd where
  group : BitVec 32
  seq : Nat
  status : BitVec 7
  ranks : List Nat
  /-- the NRANKs that were found, and the tasks that had issued: a rank beyond the NRANKs finds it while one lives -/
  nrank : Nat := 0
  tasks : List (BitVec 32) := []
  deriving DecidableEq, Repr

/-- An NVMe command with a drive (R186, R187). -/
structure NvmeCmd where
  drive : Nat
  /-- the XSTOR and the part of it that this command is -/
  cmd : Nat
  part : Nat
  /-- queue pair in device memory -/
  sq : Nat
  cq : Nat
  nsid : Nat
  /-- 0 Flush, 1 Write, 2 Read -/
  op : Nat
  lba : Word
  blocks : Nat
  /-- what a Write carries -/
  data : List Byte := []
  deriving DecidableEq, Repr

/-- Where a repair plan is (Table 10-17). -/
inductive FidPhase where
  /-- waiting at the Fid for one of its 16 places -/
  | queued
  | mark (l : Nat)
  | run (l : Nat)
  | sealing (l : Nat)
  | abandon (l : Nat) (status : BitVec 7)
  deriving DecidableEq, Repr

/-- A repair plan the Fid carries out (R325-R329). -/
structure FidPlan where
  phase : FidPhase := .queued
  /-- the plan's words as read at START (Table 10-16) -/
  words : List Word := []
  /-- physical addresses of the blocks marked for the current layer -/
  marked : List Nat := []
  /-- TSET as read in MARK of the current layer -/
  tset : Word := 0
  /-- tasks of the current layer submitted: queue and position; and whether each has ended -/
  tasks : List (Nat × Nat × Bool) := []
  /-- tasks of the current layer submitted or ended without a queue -/
  nsub : Nat := 0
  /-- last layer entered and blocks sealed so far -/
  entered : Nat := 0
  sealed : Nat := 0
  deriving DecidableEq, Repr

/-- How far a command has come. -/
inductive Progress where
  /-- nothing is performed before the end -/
  | whole
  | stream (st : Stream)
  | store (parts : List StorePart) (fail : Option (Nat × BitVec 7 × BitVec 15))
  | coll (c : Coll)
  | fid (p : FidPlan)
  /-- a splice whose plan has been read; `held` once it holds LOCK (R318) -/
  | splice (plan : List Byte) (held : Bool)
  /-- the outcome is known; the slot write is to follow -/
  | ended (status : BitVec 7) (count : Nat)
  deriving DecidableEq, Repr

/-- An accepted command of an engine, of the splice unit or of a Fid (R169, R317, R325). -/
structure Cmd where
  id : Nat
  insn : Instr
  /-- issuing task, its record and rank, and the core it was issued on (R159, R193) -/
  task : BitVec 32
  launch : BitVec 1024
  rank : Nat
  core : Nat
  /-- the hardware thread it works for (R337) -/
  hw : Nat := 0
  /-- the members of the issuer's gang at issue, for its windows (R158, R159) -/
  gang : List Task := []
  /-- values of sd, sa, sn and the slot address sc -/
  sd : Word
  sa : Word
  sn : Word
  slot : Word
  /-- lines owned: place of the first byte and bytes (R175) -/
  owned : List (Nat × Nat) := []
  prog : Progress := .whole
  /-- reached by an XCANCEL -/
  cancelled : Bool := false
  /-- XCANCEL: commands its slot is to report (R192), and the first of them, whose engine carries it out (Table 6-1) -/
  count : Nat := 0
  target : Option Instr := none
  /-- writes performed when it was accepted (R176) -/
  since : Nat := 0
  /-- XSTOR: DRVCTL, DRVSQ, DRVCQ and DRVFMT of its drive slot when it was accepted (R452) -/
  drv : List Word := []
  deriving DecidableEq, Repr

/-! ### Dispatchers -/

/-- What a module's dispatcher knows of a queue that was rung (R392, R400). -/
structure Queue where
  q : Nat
  /-- TAIL as last read -/
  tail : Word
  /-- round at which its head record became head -/
  since : Nat := 0
  /-- when its head record became head, among the records that did (R401) -/
  stamp : Nat := 0
  /-- its head record as read and checked (R387) -/
  checked : Option (BitVec 1024) := none
  deriving DecidableEq, Repr

/-- One module's dispatcher. -/
structure Dispatcher where
  rounds : Nat := 0
  /-- queue whose turn it is, and records it has dispatched in its turn -/
  turn : Nat := 0
  used : Nat := 0
  /-- class-driven pre-emption request pending: the base TASKID (R405) -/
  asked : Option (BitVec 32) := none
  deriving DecidableEq, Repr, Inhabited

/-- A task end in progress (R394): its successors are counted down one by one, then its slot is written. -/
structure Ending where
  key : Nat
  /-- TASKID of rank 0, or 0 for a record that never ran -/
  id : BitVec 32
  launch : BitVec 1024
  status : BitVec 7
  /-- core of the ending task, or a core of the dispatching module -/
  core : Nat
  /-- position of the next successor -/
  next : Nat := 0
  /-- a node reached 0: its record waits for room in its queue -/
  submit : Option (BitVec 1024) := none
  /-- where the record came from, for the Fid's watch (R329) -/
  queue : Nat := 0
  qpos : Nat := 0
  deriving DecidableEq, Repr

/-! ### Caches and translation -/

/-- A line an L1 instruction cache holds, with its 32 parcels; none for one it could not read (R152, R154). -/
structure IcLine where
  core : Nat
  /-- address of the line -/
  pa : Nat
  parcels : List (Option Parcel)
  deriving DecidableEq, Repr

/-- A line an L1 data cache holds; its home's record of holders is the list of these (R152, R153). Data are those of
`State.mem`, as no copy is ever older. -/
structure DcLine where
  core : Nat
  /-- address of the line -/
  pa : Nat
  deriving DecidableEq, Repr

/-- A non-leaf entry a module's walker holds (R416): the place it was read at, and its value. -/
structure WalkEntry where
  module : Nat
  aspace : BitVec 16
  /-- virtual addresses it leads to: the first, and log2 of their span -/
  va : Nat
  size : Nat
  /-- physical address of the entry -/
  at' : Nat
  pte : Word
  deriving DecidableEq, Repr

/-- A translation a core's TLB holds (R416). -/
structure TlbEntry where
  core : Nat
  aspace : BitVec 16
  /-- virtual address of the page and log2 of its size -/
  va : Nat
  size : Nat
  /-- the leaf entry -/
  pte : Word
  deriving DecidableEq, Repr

/-- The class of an L2 line (R148). -/
inductive L2Class where
  | normal | keep | once
  deriving DecidableEq, Repr

/-- One L2 line: tag, class and marks; data are those of `State.mem` (R148-R150). -/
structure L2Line where
  /-- home module, slice (16·row + column) and set -/
  module : Nat
  slice : Nat
  set : Nat
  /-- address of the line -/
  pa : Nat
  cls : L2Class
  used : Bool := false
  dirty : Bool := false
  deriving DecidableEq, Repr

/-- One bit-masked byte of a store: its place, the byte and the bits it writes (R206). -/
structure ByteWrite where
  p : Nat
  b : Byte
  m : Byte := 0xFF
  deriving DecidableEq, Repr

/-- What a command's write carries until it is performed (R175, R334). -/
structure CommandWrite where
  /-- the task that issued the command -/
  task : BitVec 32
  /-- the class its line takes (R148) -/
  cls : L2Class := .normal
  /-- data of another package: a peer write (R191) -/
  outside : Bool := false
  /-- the moment of acceptance -/
  since : Nat := 0
  deriving DecidableEq, Repr

/-- A store that has committed and has not been performed at its home (R336, R344): a pending store of a scalar
side, an entry of a lane group's store queue, or bytes of a 32-byte block that a command writes. -/
structure PendingStore where
  /-- its number, in the order of the thread's commits -/
  serial : Nat
  /-- the thread, the task whose thread has been taken away as `savedKey` numbers it, or the command as `unitKey` does -/
  thread : Nat
  core : Nat
  /-- the lane group; none for the scalar side and for commands -/
  lane : Option Nat := none
  ws : List ByteWrite
  /-- the scope of a release (R338) -/
  release : Option (BitVec 3) := none
  /-- it follows the thread's vector stores below this number (R213 item 3) -/
  joined : Nat := 0
  /-- for a write of a command -/
  cmd : Option CommandWrite := none
  deriving DecidableEq, Repr

/-- A stream of writes that other agents may observe late: those of a lane group of a thread to one slice, which every agent
sees in order (R345). -/
structure SoftKey where
  writer : Nat
  lane : Nat
  slice : Nat
  deriving DecidableEq, Repr

/-- A byte as it stood before one of the writes performed, counted from 1. -/
structure PastByte where
  at' : Nat
  /-- the moment from which agents other than engines find the write: that of the acceptance for a line that its
  command owns (R175, R346) -/
  since : Nat
  p : Nat
  old : Byte
  /-- the stream it belongs to, while agents may still observe it late -/
  soft : Option SoftKey := none
  deriving DecidableEq, Repr

/-- What an acquire of a released location has still to find (R339): the stores of the releasing thread or command that
are older than the release. -/
structure ReleaseMark where
  places : List Nat
  /-- who released -/
  agent : Agent
  /-- whose stores, as they are numbered -/
  thread : Nat
  scope : BitVec 3
  /-- the release's own number, and the write that performed it -/
  serial : Nat
  at' : Nat
  /-- the write that ended the release's value -/
  till : Option Nat := none
  /-- it carries the kind v as well -/
  vec : Bool := false
  deriving DecidableEq, Repr

/-- A host access that has arrived and waits to be performed (R175, R350, R351). -/
structure HostPost where
  ws : List (Nat × Byte)
  /-- it is a read of these places, through CXL.mem or not -/
  read : Option (List Nat × Bool) := none
  /-- its completion goes back to the host: a CXL.mem write (R351) -/
  completes : Bool := false
  /-- it reached host memory through CXL.cache -/
  toHost : Bool := false
  /-- the register of BAR0 it writes, and the value -/
  reg : Option (Nat × Word) := none
  /-- requester and traffic class of a posted write without Relaxed Ordering, which follows those before it (R351) -/
  order : Option Nat := some 0
  deriving DecidableEq, Repr

/-- A fault-service record that has no answer yet (R419). -/
structure FsRecord where
  tag : BitVec 32
  aspace : BitVec 16
  /-- virtual address of the 64 KiB page -/
  page : Nat
  write : Bool
  module : Nat
  deriving DecidableEq, Repr

/-! ### The package -/

/-- What is fused off (R2-R4, R103, R451); a complete N4 has every field as here. -/
structure Fuses where
  /-- module m present -/
  modules : BitVec 4 := 0xF
  /-- core 16·m + 4·k + c present -/
  cores : BitVec 64 := 0xFFFFFFFFFFFFFFFF
  /-- absent lane groups of a core, by core -/
  noLanes : List (Nat × BitVec 16) := []
  /-- absent layers of a stack, by stack -/
  noLayers : List (Nat × BitVec 16) := []
  /-- the storage port and engine -/
  storage : Bool := true
  /-- scale-out port n present -/
  ports : BitVec 4 := 0xF
  /-- DEVID.STEPPING -/
  stepping : BitVec 16 := 0
  deriving DecidableEq, Repr

/-- A firmware image (R459): its SHAKE256 hash, whether its signature verifies, and its version number. -/
structure Image where
  hash : BitVec 256 := 0
  signed : Bool := true
  version : Nat := 0
  deriving DecidableEq, Repr

/-- The housekeeping controller (R457-R461). -/
structure Hkc where
  /-- generation of K_TIC -/
  keyGen : Nat := 0
  /-- translated-image entries that SEAL has completed under it, and under earlier ones (R458) -/
  issued : List (List Byte) := []
  revoked : List (List Byte) := []
  /-- hash of the running firmware image, and the stored image -/
  running : BitVec 256 := 0
  stored : Image := {}
  /-- fused rollback counter -/
  rollback : Nat := 0
  /-- the command in progress -/
  busy : Option (BitVec 8) := none
  /-- events it has recorded: 1 a lost UCIe link, 2 a shutdown temperature (R448, R465) -/
  events : List Nat := []
  deriving DecidableEq, Repr

/-- A drive slot's link (R451, R452). -/
structure Drive where
  /-- the link is trained -/
  linked : Bool := false
  /-- the engine submits nothing until BOUND is written again -/
  suspended : Bool := false
  deriving DecidableEq, Repr, Inhabited

/-- The last response to a host read (R446, R449). -/
inductive HostResponse where
  | data (bytes : List Byte)
  /-- Completer Abort of a PCIe read of an uncorrectable word -/
  | abort
  /-- CXL.mem poison with zero data -/
  | poison (bytes : List Byte)
  /-- Unsupported Request -/
  | unsupported
  /-- completion of a CXL.mem write (R351) -/
  | written
  deriving DecidableEq, Repr

/-- What moves next when the agenda names it: a thread, the vector side of a thread, a pending store, or an event. -/
inductive Turn where
  | thread (n : Nat)
  | vector (n : Nat)
  /-- a store is performed at its home: of a thread, or of a key that its stores carry -/
  | store (n : Nat)
  /-- a task whose replay has diverged, or that TABORT has named, is retired as ABORTED (R397, R463) -/
  | retire (id : BitVec 32)
  | event (e : Instr)
  deriving DecidableEq, Repr

/-- What a convoy in progress has done to memory (R69, R276); empty between steps. -/
structure GroupLog where
  active : Bool := false
  /-- number of the first store its members may make; stores from there on are held until it commits (R69) -/
  first : Nat := 0
  /-- amax updates performed: the places of the word and the pattern -/
  amax : List (List Nat × Nat) := []
  deriving DecidableEq, Repr

/-- The package. -/
structure State where
  /-- the thread whose turn it is, and the others that hold tasks, in turn order (R360) -/
  th : Thread := {}
  parked : List Thread := []
  tasks : List Task := []
  mem : Memory := []
  /-- uncorrectable and corrected-error ECC words: place of the word's first byte (R100, R162) -/
  uncorr : List Nat := []
  corr : List Nat := []
  /-- bank logic units by global bank number (R84) -/
  banks : List (Nat × Bank) := []
  /-- refresh debt by global pseudo-channel (R95) -/
  debt : List (Nat × Nat) := []
  /-- BAR0 registers by offset (Table 15-2) -/
  ctl : List (Nat × Word) := []
  /-- CYCLE of each core (R359) -/
  cycles : Vector Word 64 := Vector.replicate 64 0
  tlb : List TlbEntry := []
  /-- the walkers' non-leaf entries -/
  walks : List WalkEntry := []
  /-- lines of the L1 caches, most recently used first -/
  l1i : List IcLine := []
  l1d : List DcLine := []
  /-- IMGID of the last task entered on a core (R154) -/
  image : List (Nat × BitVec 32) := []
  /-- L2 lines, most recently used first -/
  l2 : List L2Line := []
  cmds : List Cmd := []
  nextCmd : Nat := 0
  /-- XCOLLs accepted of a task with a GROUPID (R189) -/
  colls : List (BitVec 32 × BitVec 32 × Nat) := []
  /-- collectives that ended before every rank had issued -/
  collEnds : List CollEnd := []
  /-- commands with the drives, oldest first -/
  nvme : List NvmeCmd := []
  /-- threads asleep in SETVL, oldest first (R235) -/
  sleepers : List Nat := []
  queues : List Queue := []
  disp : List (Nat × Dispatcher) := []
  nextTask : BitVec 32 := 1
  nextOrder : Nat := 0
  /-- records that have become the head of a queue (R401) -/
  heads : Nat := 0
  endings : List Ending := []
  nextKey : Nat := 0
  fsRecs : List FsRecord := []
  nextTag : BitVec 32 := 0
  /-- the held TLBINV request has been held for LEASEMAX (R111) -/
  holdOut : Bool := false
  /-- revocations in progress: the task, and a pseudo-channel of its lease that has yet to reach a boundary (R111) -/
  revoking : List (BitVec 32 × Nat) := []
  /-- TLBVA as the TLBINV request in progress found it (R417) -/
  invVa : Word := 0
  /-- places of 128-byte lines whose last write came from the host or a peer (R462) -/
  hostLines : List Nat := []
  fuse : Fuses := {}
  hkc : Hkc := {}
  drives : List (Nat × Drive) := []
  /-- port n is trained (R453) -/
  portUp : BitVec 4 := 0
  /-- MSI-X vectors raised, oldest first (R450) -/
  msix : List Nat := []
  hostResp : Option HostResponse := none
  /-- base of the HDM range, which the host assigns (R446, log 34) -/
  hdmBase : Nat := 0
  /-- main-clock steps of 100 MHz taken off, and halved admission (R464) -/
  clockSteps : Nat := 0
  padmHalved : Bool := false
  /-- a lost UCIe link or the absence of valid firmware holds every core (R448, R459) -/
  stopped : Bool := false
  /-- the convoy in progress -/
  group : GroupLog := {}
  /-- stores not yet performed, oldest first -/
  pending : List PendingStore := []
  /-- the number of the next store -/
  nextStore : Nat := 0
  /-- releases whose earlier stores may still be pending -/
  marks : List ReleaseMark := []
  /-- writes performed, and the bytes they replaced, newest first -/
  now : Nat := 0
  past : List PastByte := []
  /-- host writes that wait, oldest first -/
  posted : List HostPost := []
  /-- the model's own: lines of host memory the L2 has moved since the step began (R421) -/
  hostFills : List Nat := []
  /-- the model's own: what moves next (log 2) -/
  agenda : List Turn := []
  /-- the model's own: the vector side takes entries only at its turns, at waits and at a full VIQ (log 2) -/
  vlag : Bool := true
  /-- the model's own: stores wait in `pending`, and relaxed reads may return a byte of `past` (log 14) -/
  weak : Bool := true
  /-- the model's own: turns of threads since the events were last tried (log 2) -/
  turns : Nat := 0
  /-- the model's own: the index of the next free value (log 1) -/
  free : Nat := 0
  deriving DecidableEq, Repr

/-- The control registers whose reset value is not 0 (Tables 3-7, 4-4, 13-3, 14-4), by offset. -/
def ctlReset : List (Nat × Word) :=
  [(0x000100, 4096), (0x000108, 256), (0x010000, 100000), (0x030010, 1024), (0x030018, 2400000),
   (0x030020, 240000), (0x040058, 0xFFFF)]

/-- The machine right after reset: no task, memory with nothing listed, the control registers at their
reset values, a complete N4 (log 3, 4, 6, 7). -/
def State.reset : State := { ctl := ctlReset }

end Sys2Proof.Machine
end

