-- ==== Sys2Proof/Machine/Regs.lean ====
section
/-! DEFINITION. Offsets of the control registers in BAR0 (Table 15-2 and the tables of its blocks). -/
namespace Sys2Proof.Machine

/-- MCFG. -/
def regMcfg : Nat := 0x000000
/-- RVIEW. -/
def regRview : Nat := 0x000040
/-- RPRES. -/
def regRpres : Nat := 0x0000C0
/-- NLAT. -/
def regNlat : Nat := 0x000100
/-- PADM. -/
def regPadm : Nat := 0x000108
/-- MSTAT. -/
def regMstat : Nat := 0x000110
/-- MERR. -/
def regMerr : Nat := 0x000118
/-- MELAST. -/
def regMelast : Nat := 0x000120
/-- LEASEMAX. -/
def regLeasemax : Nat := 0x010000
/-- LREVOKE. -/
def regLrevoke : Nat := 0x010008
/-- QBASE. -/
def regQbase : Nat := 0x030000
/-- QDOOR. -/
def regQdoor : Nat := 0x030008
/-- AGE. -/
def regAge : Nat := 0x030010
/-- PGRACE. -/
def regPgrace : Nat := 0x030018
/-- LGRACE. -/
def regLgrace : Nat := 0x030020
/-- TABORT. -/
def regTabort : Nat := 0x030028
/-- PREQSET. -/
def regPreqset : Nat := 0x030030
/-- GERR. -/
def regGerr : Nat := 0x030038
/-- ASTBASE. -/
def regAstbase : Nat := 0x040000
/-- TLBVA. -/
def regTlbva : Nat := 0x040008
/-- TLBINV. -/
def regTlbinv : Nat := 0x040010
/-- TLBHOLD. -/
def regTlbhold : Nat := 0x040018
/-- ICINV. -/
def regIcinv : Nat := 0x040020
/-- FSQBASE. -/
def regFsqbase : Nat := 0x040028
/-- FSQTAIL. -/
def regFsqtail : Nat := 0x040030
/-- FSQHEAD. -/
def regFsqhead : Nat := 0x040038
/-- FSREPLY. -/
def regFsreply : Nat := 0x040040
/-- ACBASE. -/
def regAcbase : Nat := 0x040048
/-- ACRANGE. -/
def regAcrange : Nat := 0x040050
/-- ACTHR. -/
def regActhr : Nat := 0x040058
/-- NQBASE. -/
def regNqbase : Nat := 0x040060
/-- NQTAIL. -/
def regNqtail : Nat := 0x040068
/-- NQHEAD. -/
def regNqhead : Nat := 0x040070
/-- NQSTAT. -/
def regNqstat : Nat := 0x040078
/-- DFQBASE. -/
def regDfqbase : Nat := 0x040080
/-- DFQTAIL. -/
def regDfqtail : Nat := 0x040088
/-- DFQHEAD. -/
def regDfqhead : Nat := 0x040090
/-- DFQSTAT. -/
def regDfqstat : Nat := 0x040098
/-- KVDOM. -/
def regKvdom : Nat := 0x020000
/-- DRV. -/
def regDrv : Nat := 0x050000
/-- LMODE. -/
def regLmode : Nat := 0x060000
/-- HDMA. -/
def regHdma : Nat := 0x060040
/-- UETAB. -/
def regUetab : Nat := 0x060140
/-- DEVID. -/
def regDevid : Nat := 0x100000
/-- FEAT. -/
def regFeat : Nat := 0x100008
/-- MBCMD. -/
def regMbcmd : Nat := 0x100010
/-- MBSTAT. -/
def regMbstat : Nat := 0x100018
/-- MBBUF. -/
def regMbbuf : Nat := 0x100020
/-- MBLEN. -/
def regMblen : Nat := 0x100028

end Sys2Proof.Machine
end

