-- ==== Sys2Proof/Machine/Phys.lean ====
section
/-! DEFINITION. Physical memory and window storage: places, presence, views, banks, ECC, the L2's tags, the
access counters, and the reads and writes every agent makes. -/
namespace Sys2Proof.Machine

/-- Why an operation of the machine does not go on. `kept` says that what it has done so far stays;
otherwise the machine is left as it was before the operation. -/
inductive Stop where
  /-- a trap condition -/
  | trap (t : Trap) (kept : Bool)
  /-- a wait: the operation is tried again -/
  | wait (kept : Bool)
  /-- a wait for fault service (R419) -/
  | service (w : FsWait) (kept : Bool)
  /-- a restart unit is committed and others are to follow (R126) -/
  | more
  deriving DecidableEq, Repr

/-- An operation on the package that may stop. -/
abbrev Op (α : Type) := EStateM Stop State α

/-- A trap that leaves the machine as it was before the instruction. -/
def fault {α : Type} (cause : Nat) (faddr : Word) (finfo : Nat) : Op α :=
  throw (.trap { cause := BitVec.ofNat 8 cause, faddr := faddr, finfo := BitVec.ofNat 64 finfo } false)

/-- Waits; nothing has changed. -/
def waits {α : Type} : Op α := throw (.wait false)

/-! ### Control registers -/

/-- A register of BAR0 (Table 15-2). -/
def ctlGet (s : State) (off : Nat) : Word := smGet s.ctl off

/-- The package with a register of BAR0 at a value. -/
def ctlSet (s : State) (off : Nat) (v : Word) : State := { s with ctl := smSet s.ctl off v }

/-- A counter register that saturates at 2^32 - 1 in bits [lo+31:lo] goes up by 1. -/
def ctlCount (s : State) (off lo : Nat) : State :=
  let v := (ctlGet s off).toNat
  let c := bitsOf v lo 32
  ctlSet s off (BitVec.ofNat 64 (if c = 0xFFFFFFFF then v else putBits v lo 32 (c + 1)))

/-- GERR.COUNT goes up by 1 (Table 13-3). -/
def gerrCount (s : State) : State := ctlCount s regGerr 0

/-- An MSI-X vector is raised (R450). -/
def raiseMsix (s : State) (v : Nat) : State := { s with msix := s.msix ++ [v] }

/-! ### Places -/

/-- Places of window storage lie above the 52-bit physical addresses. -/
def placeBase : Nat := 2 ^ 52

/-- Storage offset `o` of the scratchpad of a global core (R156). -/
def placeCs (core o : Nat) : Nat := placeBase + core * 2 ^ 21 + o

/-- Storage offset `o` of the cluster memory of a global cluster (R156, R157). -/
def placeCm (cluster o : Nat) : Nat := placeBase + 2 ^ 28 + cluster * 2 ^ 22 + o

/-- Storage offset `o` of the die scratchpad of a module (R156). -/
def placeDs (module o : Nat) : Nat := placeBase + 2 ^ 29 + module * 2 ^ 25 + o

/-- The core whose segment of a cluster memory holds offset `o`, within the cluster (R157). -/
def cmSegment (o : Nat) : Nat := bitsOf o 8 2

/-- The offset within that segment (R157). -/
def cmOffset (o : Nat) : Nat := bitsOf o 10 12 * 256 + o % 256

/-- Byte `o` of the lane-private memory of lane group `h` of a global core, for its ECC words (R161, R162). -/
def placeLp (core h o : Nat) : Nat := placeBase + 2 ^ 30 + core * 2 ^ 19 + h * 2 ^ 15 + o

/-- Whether a place is a physical address. -/
def isPhys (p : Nat) : Bool := decide (p < placeBase)

/-- Whether a physical address is host memory (Table 14-1). -/
def isHost (p : Nat) : Bool := decide (2 ^ 51 ≤ p) && isPhys p

/-- Whether a place is device memory. -/
def isDevice (p : Nat) : Bool := decide (p < 2 ^ 51)

/-! ### Presence and views -/

/-- Module `m` is present (R2). -/
def modulePresent (s : State) (m : Nat) : Bool := decide (m < 4) && s.fuse.modules.getLsbD m

/-- Core `c` is present (R451). -/
def corePresent (s : State) (c : Nat) : Bool := decide (c < 64) && s.fuse.cores.getLsbD c && modulePresent s (c / 16)

/-- The present lane groups of a core. -/
def coreLanes (s : State) (c : Nat) : BitVec 16 := if corePresent s c then ~~~ (smGet s.fuse.noLanes c) else 0

/-- Layer `l` of stack `k` is present (R103). -/
def layerPresent (s : State) (k l : Nat) : Bool :=
  decide (k < 8) && decide (l < 16) && modulePresent s (k / 2) && !(smGet s.fuse.noLayers k).getLsbD l

/-- The module, layer and index of region `r` (R85). -/
def regionCoords (r : Nat) : Nat × Nat × Nat := (r / 192, r % 192 / 12, r % 12)

/-- Region `r` is present (R103). -/
def regionPresent (s : State) (r : Nat) : Bool :=
  let (m, l, j) := regionCoords r
  let a := layerPresent s (2 * m) l
  let b := layerPresent s (2 * m + 1) l
  decide (r < 768) && (if a && b then true else if a || b then decide (j < 6) else false)

/-- Region `r` is in the bank-linear view (R86). -/
def regionLinear (s : State) (r : Nat) : Bool := (ctlGet s (regRview + 8 * (r / 64))).getLsbD (r % 64)

/-- The KV domain of region `r`; 0 outside the pool (R298). -/
def regionDomain (s : State) (r : Nat) : Nat :=
  if regionPresent s r && regionLinear s r then bitsOf (ctlGet s (regKvdom + 8 * (r / 8))).toNat (8 * (r % 8)) 8 else 0

/-- A physical address falls in a row of Table 14-1 (R85, R411). -/
def physPresent (s : State) (p : Nat) : Bool := if isDevice p then regionPresent s (p / 2 ^ 30) else isHost p

/-- A physical address lies in bank-linear memory. -/
def isLinear (s : State) (p : Nat) : Bool :=
  isDevice p && regionPresent s (p / 2 ^ 30) && regionLinear s (p / 2 ^ 30)

/-- A host physical address lies in an enabled window HDMAn (R447). -/
def inHdma (s : State) (p : Nat) : Bool :=
  (List.range 16).any fun n =>
    let b := (ctlGet s (regHdma + 16 * n)).toNat
    let l := (ctlGet s (regHdma + 16 * n + 8)).toNat
    let u := bitsOf p 21 30
    decide (bitAt b 63 = 1) && decide (bitsOf b 21 30 ≤ u) && decide (u ≤ bitsOf l 21 30)

/-- Device memory is served: MCFG.READY (R86). -/
def memReady (s : State) : Bool := (ctlGet s regMcfg).getLsbD 1

/-- Global bank number of the coordinates (R82). -/
def bankNo (k l c p b : Nat) : Nat := 1024 * k + 64 * l + 32 * c + 16 * p + b

/-- Global bank, row and byte within the row of a device address (R87, R88). -/
def bankOf (s : State) (pa : Nat) : Nat × Nat × Nat :=
  let r := pa / 2 ^ 30
  let (m, l, j) := regionCoords r
  let o := pa % 2 ^ 30
  let a := layerPresent s (2 * m) l
  let b := layerPresent s (2 * m + 1) l
  let k0 := if a then 2 * m else 2 * m + 1
  if regionLinear s r then
    let i := bitsOf o 21 9
    let w := o % 2 ^ 21
    if a && b then
      (bankNo (2 * m + bitAt i 6) l (bitAt i 5) (bitAt i 4) (bitsOf i 0 4),
        512 * (4 * j + bitsOf i 7 2) + bitsOf w 12 9, w % 4096)
    else
      (bankNo k0 l (bitAt i 5) (bitAt i 4) (bitsOf i 0 4), 512 * (8 * j + bitsOf i 6 3) + bitsOf w 12 9, w % 4096)
  else
    let n := bitsOf o 8 22
    if a && b then
      let x := Nat.xor (bitsOf n 0 7) (bitsOf n 7 7)
      let u := bitsOf n 7 15
      (bankNo (2 * m + bitAt x 6) l (bitAt x 5) (bitAt x 4) (bitsOf x 0 4), 2048 * j + bitsOf u 4 11,
        256 * bitsOf u 0 4 + o % 256)
    else
      let x := Nat.xor (bitsOf n 0 6) (bitsOf n 6 6)
      let u := bitsOf n 6 16
      (bankNo k0 l (bitAt x 5) (bitAt x 4) (bitsOf x 0 4), 4096 * j + bitsOf u 4 12, 256 * bitsOf u 0 4 + o % 256)

/-- Pseudo-channel `p` is present (R104). -/
def pcPresent (s : State) (p : Nat) : Bool := decide (p < 512) && layerPresent s (p / 64) (p % 64 / 4)

/-! ### ECC -/

/-- The ECC word that holds a place: its first byte and its size; host memory has none (R100, R162). -/
def eccWord (p : Nat) : Nat × Nat := if isPhys p then (p / 32 * 32, 32) else (p / 8 * 8, 8)

/-- A place lies in an uncorrectable word. -/
def isUncorr (s : State) (p : Nat) : Bool := !isHost p && s.uncorr.contains (eccWord p).1

/-- UECNT and MELAST after an uncorrectable word (R101, R162). -/
def countUncorr (s : State) (p : Nat) : State :=
  let s := ctlCount s regMerr 32
  if isDevice p then
    let (b, row, _) := bankOf s p
    let v := putBits (putBits (putBits (putBits (putBits (putBits 0 63 1 1) 53 3 (b / 1024)) 49 4 (b / 64))
      48 1 (b / 32)) 47 1 (b / 16)) 43 4 b
    ctlSet s regMelast (BitVec.ofNat 64 (putBits v 28 15 row))
  else s

/-- CECNT after reads of words with corrected errors (R100). -/
def countCorr (s : State) (ps : List Nat) : State :=
  if s.corr.isEmpty then s
  else ((ps.map fun p => (eccWord p).1).eraseDups.filter fun w => !isHost w && s.corr.contains w).foldl
    (fun t _ => ctlCount t regMerr 0) s

/-! ### Access counters (R421, R422) -/

/-- A byte of memory. -/
def memByte (s : State) (p : Nat) : Byte := smGet s.mem p

/-- Some consecutive bytes of memory. -/
def memBytes (s : State) (p n : Nat) : List Byte := (List.range n).map fun i => memByte s (p + i)

/-- Memory with bytes from an address on replaced. -/
def memPut : Memory → Nat → List Byte → Memory
  | m, _, [] => m
  | m, p, b :: bs => memPut (smSet m p b) (p + 1) bs

/-- The canonical form of memory: addresses rise strictly, and no byte is listed that an unlisted address
reads as. -/
def Memory.wf (m : Memory) : Bool := smWf m

/-- 128-byte lines, each once. -/
def ownLines (ls : List DcLine) (lines : List Nat) : List DcLine := ls.filter fun l => !lines.contains l.pa

/-! ### Writes at their homes -/

/-- A byte of a header row that only KV instructions, the splice unit and the Fid write (R299). -/
def isControlled (s : State) (p : Nat) : Bool :=
  let row := bitsOf p 12 9
  let b := p % 4096
  isDevice p && decide (row % 10 = 9) && decide (row ≤ 509) &&
  (decide (b < 0x10) || (decide (0x18 ≤ b) && decide (b < 0x40)) || decide (0x240 ≤ b)) &&
  decide (regionDomain s (p / 2 ^ 30) ≠ 0)

/-- Who writes. -/
inductive Writer where
  /-- a thread, an engine or a dispatcher -/
  | device
  /-- a KV instruction, the splice unit or the Fid: controlled bytes too -/
  | kv
  /-- the host or a peer -/
  | outside
  deriving DecidableEq, Repr

/-- The first byte among some places that lies in an uncorrectable word. -/
def firstUncorr (s : State) (ps : List Nat) : Option Nat :=
  if s.uncorr.isEmpty then none else ps.find? (isUncorr s)

/-- The uncorrectable words among some places, by their first bytes. -/
def badWords (s : State) (ps : List Nat) : List Nat :=
  if s.uncorr.isEmpty then []
  else ((ps.map fun p => (eccWord p).1).eraseDups).filter fun w => !isHost w && s.uncorr.contains w

/-- A read of some places counted: each word with a corrected error, and each uncorrectable word (R100, R101). -/
def countRead (s : State) (ps : List Nat) : State := (badWords s ps).foldl countUncorr (countCorr s ps)

/-- Writes cover the whole of a line. -/
def coversLine (ws : List ByteWrite) (l : Nat) : Bool := (List.range 128).all fun i => ws.any fun w => w.p == l + i

/-- The line bits of R462 after some writes. -/
def hostLinesAfter (lines : List Nat) (who : Writer) (ws : List ByteWrite) : List Nat :=
  match who with
  | .outside => lines ++ (linesOf (ws.map ByteWrite.p)).filter fun l => !lines.contains l
  | _ => lines.filter fun l => !coversLine ws l

/-- A byte with the bits of a store written (R206). -/
def mergeByte (old : Byte) (w : ByteWrite) : Byte := (old &&& ~~~ w.m) ||| (w.b &&& w.m)

/-- Memory with one store's byte written. -/
def putByte (m : Memory) (w : ByteWrite) : Memory := smSet m w.p (mergeByte (smGet m w.p) w)

/-- The writes that R299 lets an agent make. -/
def admitted (s : State) (who : Writer) (ws : List ByteWrite) : List ByteWrite :=
  if who == .kv then ws else ws.filter fun w => !isControlled s w.p

/-- Writes cover the whole of an ECC word, every bit of every byte. -/
def coversWord (ws : List ByteWrite) (u : Nat) : Bool :=
  (List.range (eccWord u).2).all fun i => ((ws.filter fun w => w.p == u + i).foldl (fun m w => m ||| w.m) 0) == 0xFF

/-- The uncorrectable words that writes meet and do not cover (R102). -/
def brokenWords (s : State) (ws : List ByteWrite) : List Nat :=
  s.uncorr.filter fun u => (ws.any fun w => (eccWord w.p).1 == u && !isHost w.p) && !coversWord ws u

/-- The writes that take effect: those into a broken word are discarded (R102). -/
def keptWrites (s : State) (ws : List ByteWrite) : List ByteWrite :=
  if s.uncorr.isEmpty then ws
  else ws.filter fun w => !((brokenWords s ws).contains (eccWord w.p).1 && !isHost w.p)

/-- How a write joins the order of writes. -/
structure Landing where
  /-- the moment from which agents other than engines find it, when its lines are owned (R175) -/
  since : Option Nat := none
  /-- the stream of a write that agents may observe late (R345) -/
  soft : Nat → Option SoftKey := fun _ => none
  /-- each aligned 8-byte word is performed at an instant of its own (Table 11-2) -/
  split : Bool := false

/-- The instants that a write takes. -/
def Landing.span (how : Landing) (ws : List ByteWrite) : Nat :=
  match ws with
  | w :: rest => if how.split && rest.any fun x => x.p / 8 != w.p / 8 then ws.length / 8 + 1 else 1
  | [] => 1

/-- The bytes that a write replaces, as they join the past: each word of a split write at a free one of its instants. -/
def replaced (s : State) (how : Landing) (ws : List ByteWrite) : List PastByte :=
  let n := how.span ws
  ws.map fun w =>
    let t := s.now + 1 + (if n = 1 then 0 else (Config.freeWord s.free (w.p / 8)).toNat % n)
    { at' := t, since := min t (how.since.getD t), p := w.p, old := memByte s w.p, soft := how.soft w.p }

/-- A release's value ends with a write over it (R339). -/
def endMark (t : Nat) (ws : List ByteWrite) (k : ReleaseMark) : ReleaseMark :=
  if k.till.isNone && ws.any fun w => k.places.contains w.p then { k with till := some t } else k

/-- A write performed at its home: what R299 and R102 discard is left out, whole ECC words end their errors, every L1
data copy goes (R153), and the bytes it replaces join the past (R335, R336). -/
def landBits (s : State) (who : Writer) (how : Landing) (ws : List ByteWrite) : State :=
  let ws := admitted s who ws
  let kept := keptWrites s ws
  let s := (brokenWords s ws).foldl countUncorr s
  { s with
    mem := kept.foldl putByte s.mem
    uncorr := s.uncorr.filter fun u => !coversWord ws u
    corr := s.corr.filter fun u => !coversWord ws u
    hostLines := hostLinesAfter s.hostLines who kept
    l1d := if s.l1d.isEmpty then [] else ownLines s.l1d (linesOf (kept.map ByteWrite.p))
    now := s.now + how.span kept
    marks := s.marks.map (endMark (s.now + 1) kept)
    past := if s.weak then replaced s how kept ++ s.past else s.past
    free := if how.split then s.free + 1 else s.free }

/-- A write performed at its home at one instant. -/
def writeBits (s : State) (who : Writer) (ws : List ByteWrite) : State := landBits s who {} ws

/-- Whole bytes. -/
def byteWrites (ws : List (Nat × Byte)) : List ByteWrite := ws.map fun w => { p := w.1, b := w.2 }

/-- Bytes written at their places at one instant. -/
def writePlaces (s : State) (who : Writer) (ws : List (Nat × Byte)) : State := writeBits s who (byteWrites ws)

/-- Bytes written at their places, word by word where `how` splits them. -/
def landPlaces (s : State) (who : Writer) (how : Landing) (ws : List (Nat × Byte)) : State := landBits s who how (byteWrites ws)

/-- Pairs of consecutive places and bytes. -/
def placed (ps : List Nat) (bs : List Byte) : List (Nat × Byte) := ps.zip bs

/-! ### Access counters (R421, R422) -/

/-- One transfer between the L2 and host memory for a line of region `n` is counted, and its crossing of
the threshold notified (R421, R422); `touch` is the L2's part in the writes of the counter and of the queue. A counter word
that cannot be corrected is counted as an error and stays as it is (log 15). -/
def countHostAccess (touch : State → List Nat → State) (s : State) (p : Nat) : State :=
  let n := bitsOf p 21 30
  let r := (ctlGet s regAcrange).toNat
  let lo := bitsOf r 32 30
  if isHost p && decide (lo ≤ n) && decide (n < lo + bitsOf r 0 32) then
    let ps := (List.range 4).map ((ctlGet s regAcbase).toNat + 4 * (n - lo) + ·)
    match firstUncorr s ps with
    | some q => countUncorr s q
    | none =>
      let s := countCorr (touch s ps) ps
      let w := natOfBytes (ps.map (memByte s))
      let c := min 0xFFFF (bitsOf w 0 16 + 1)
      let nq := (ctlGet s regNqbase).toNat
      let sz := bitsOf nq 0 5
      let tail := (ctlGet s regNqtail).toNat
      let put := fun s v => writePlaces s .device (placed ps (bytesOfNat 4 v))
      if c < bitsOf (ctlGet s regActhr).toNat 0 16 || bitAt w 16 = 1 || sz = 0 then put s (putBits w 0 16 c)
      else if tail - (ctlGet s regNqhead).toNat = 2 ^ sz then ctlSet (put s (putBits w 0 16 c)) regNqstat 1
      else
        let qs := (List.range 8).map (bitsOf nq 12 52 * 4096 + 8 * (tail % 2 ^ sz) + ·)
        let s := touch (writePlaces (put s (2 ^ 16)) .device (placed qs (bytesOfNat 8 (2 ^ 63 + n)))) qs
        raiseMsix (ctlSet s regNqtail (BitVec.ofNat 64 (tail + 1))) 2
  else s

/-! ### The L2's tags (R146-R150) -/

/-- Home module, slice and set of a line (R146, R147). -/
def l2Home (s : State) (p : Nat) : Nat × Nat × Nat :=
  let h := Nat.xor (bitsOf p 21 2) (bitsOf p 23 2)
  let m := if isHost p then (if s.fuse.modules.toNat < 4 then h % 2 else h) else p / 2 ^ 30 / 192
  let row := (List.range 10).foldl (fun x j => Nat.xor x (bitsOf (p % placeBase) (15 + 4 * j) 4)) 0
  (m, 16 * row + bitsOf p 11 4, 16 * bitsOf p 15 3 + bitsOf p 7 4)

/-- How an agent uses a line. -/
inductive L2Use where
  /-- a read by a thread, or by an engine that is not a stream unit -/
  | read
  /-- a read or prefetch that sets no used bit: a stream unit's, or that of no thread and no engine -/
  | peek
  | write
  deriving DecidableEq, Repr

/-- The lines with the least recently used one of a kind taken out, and that line. -/
def dropLast (f : L2Line → Bool) (ls : List L2Line) : Option (L2Line × List L2Line) :=
  match (ls.filter f).getLast? with
  | some v => some (v, ls.filter fun x => x.pa != v.pa)
  | none => none

/-- A full set gives up one line, in the order of R149: the lines without it, and the line when it is dirty. -/
def l2Evict (ls : List L2Line) (m sl st : Nat) : List L2Line × Option Nat :=
  let mine : L2Line → Bool := fun x => x.module == m && x.slice == sl && x.set == st
  if (ls.filter mine).length < 16 then (ls, none)
  else
    let pick := (dropLast (fun x => mine x && x.cls == .once && x.used) ls).or <|
      (dropLast (fun x => mine x && x.cls == .normal) ls).or <|
      (dropLast (fun x => mine x && x.cls == .once) ls).or (dropLast mine ls)
    match pick with
    | some (v, rest) => (rest, if v.dirty then some v.pa else none)
    | none => (ls, none)

/-- A set keeps at most 12 KEEP lines: the least recently used one more becomes NORMAL (R149). -/
def l2KeepLimit (ls : List L2Line) (m sl st : Nat) : List L2Line :=
  let mine : L2Line → Bool := fun x => x.module == m && x.slice == sl && x.set == st && x.cls == .keep
  if (ls.filter mine).length ≤ 12 then ls
  else match (ls.filter mine).getLast? with
    | some v => ls.map fun x => if x.pa == v.pa then { x with cls := .normal } else x
    | none => ls

/-- A line that the L2 holds accessed (R148). -/
def l2Hit (s : State) (x : L2Line) (cls : L2Class) (use : L2Use) (through : Bool) : State :=
  let x' := { x with
    cls := if cls == .keep then .keep else x.cls
    used := x.used || (x.cls == .once && use == .read)
    dirty := x.dirty || (use == .write && !through) }
  { s with l2 := l2KeepLimit (x' :: s.l2.filter fun y => y.pa != x.pa) x.module x.slice x.set }

/-- One access to the line of a physical address through its home slice (R147-R150); `move` counts a line that moves between
the L2 and host memory, once the line has its way. -/
def l2Reach (move : State → Nat → State) (s : State) (p : Nat) (cls : L2Class) (use : L2Use) : State :=
  if !isPhys p then s
  else
    let line := p / 128 * 128
    let (m, sl, st) := l2Home s line
    let through := isLinear s p
    match s.l2.find? fun x => x.pa == line with
    | some x => l2Hit s x cls use through
    | none =>
      if use == .write && through then s
      else
        let (ls, out) := l2Evict s.l2 m sl st
        let x : L2Line :=
          { module := m, slice := sl, set := st, pa := line, cls := cls, dirty := use == .write }
        let s := { s with l2 := l2KeepLimit (x :: ls) m sl st }
        move (match out with
          | some v => move s v
          | none => s) line

/-- A line moves between the L2 and host memory, and is counted (R421). The write of the notification queue passes through the
L2 too; it can make one more queue write, and none beyond it (log 15). -/
def movedLine : Nat → State → Nat → State
  | 0, s, line => if isHost line then countHostAccess (fun s _ => s) { s with hostFills := s.hostFills ++ [line] } line else s
  | n + 1, s, line =>
    if isHost line then
      countHostAccess (fun s qs => (linesOf qs).foldl (fun t p => l2Reach (movedLine n) t p .normal .write) s)
        { s with hostFills := s.hostFills ++ [line] } line
    else s

/-- A line moves between the L2 and host memory. -/
def hostTransfer (s : State) (line : Nat) : State := movedLine 2 s line

/-- One access to the line of a physical address through its home slice. -/
def l2Access (s : State) (p : Nat) (cls : L2Class) (use : L2Use) : State := l2Reach hostTransfer s p cls use

/-- The accesses of an agent to the lines of some places, each line once. -/
def l2Touch (s : State) (ps : List Nat) (cls : L2Class) (use : L2Use) : State :=
  (linesOf ps).foldl (fun t p => l2Access t p cls use) s

/-- Every L2 copy of the lines of some places is invalidated (R150); a dirty line of host memory is written back. -/
def l2Invalidate (s : State) (ps : List Nat) : State :=
  let ls := linesOf ps
  let dirty := s.l2.filter fun x => x.dirty && ls.contains x.pa
  dirty.foldl (fun t x => hostTransfer t x.pa) { s with l2 := s.l2.filter fun x => !ls.contains x.pa }

/-! ### The L1 data caches (R152, R153) -/

/-- The set of an L1 line: 64 sets of 8 ways, by the address bits above the line (R152, log 16). -/
def l1Set (pa : Nat) : Nat := pa / 128 % 64

/-- A core's L1 data cache with a line used last; a ninth line of its set takes the place of the least recently
used (log 16). -/
def l1Use (ls : List DcLine) (core line : Nat) : List DcLine :=
  let l : DcLine := { core := core, pa := line }
  let rest := ls.filter fun x => x != l
  let mine := rest.filter fun x => x.core == core && l1Set x.pa == l1Set line
  if mine.length < 8 then l :: rest
  else match mine.getLast? with
    | some v => l :: rest.filter fun x => x != v
    | none => l :: rest

/-- A scalar load's line: a copy in the core's L1 data cache serves it, else the home slice does and the L1 keeps the
line. Windows are never cached (R152). -/
def l1Load (s : State) (core line : Nat) : State :=
  if !isPhys line then s
  else
    let s := if s.l1d.contains { core := core, pa := line } then s else l2Access s line .normal .read
    { s with l1d := l1Use s.l1d core line }

/-- The lines of a scalar load. -/
def l1Touch (s : State) (core : Nat) (ps : List Nat) : State := (linesOf ps).foldl (fun t p => l1Load t core p) s

/-! ### Waiting for a line -/

/-- A command owns the line of a place (R175). -/
def isOwned (s : State) (p : Nat) : Bool :=
  s.cmds.any fun c => c.owned.any fun r => decide (r.1 / 128 ≤ p / 128) && decide (p / 128 ≤ (r.1 + r.2 - 1) / 128)

/-- A map of moments with some keys at a moment or later. -/
def seeFrom (m : Nat) (keys : List Nat) (seen : List (Nat × Nat)) : List (Nat × Nat) :=
  keys.foldl (fun l k => smSet l k (max m (smGet l k))) seen

/-- An access of the thread waits for owned lines: it will find what the owner writes (R175, R346). -/
def sawOwned (ps : List Nat) (s : State) : State :=
  if s.weak then
    { s with th := { s.th with order := { s.th.order with
      awaited := s.th.order.awaited ++ ps.filter fun p => !s.th.order.awaited.contains p } } }
  else s

/-- An access by an agent other than an engine to owned lines waits (R175), and one to device memory
before READY stalls (R86). -/
def awaitOwned (ps : List Nat) : Op Unit := fun s =>
  if !s.cmds.isEmpty && ps.any (isOwned s) then .error (.wait false) (sawOwned ps s)
  else if !memReady s && ps.any isDevice then .error (.wait false) s
  else .ok () s

end Sys2Proof.Machine
end

