-- ==== Sys2Proof/Machine/Order.lean ====
section
/-! DEFINITION. The memory consistency model (R333-R351): scopes, stores that wait to be performed at their homes, the
moments at which reads are satisfied, releases and acquires, and the reads and writes of a thread. -/
namespace Sys2Proof.Machine

/-! ### Scopes (R337) -/

/-- The module an agent lies in. -/
def Agent.module : Agent → Option Nat
  | .thread n => some (n / 64)
  | .unit m _ => some m
  | .outside => none

/-- The hardware thread that acts, or that an agent works for. -/
def Agent.hwThread : Agent → Option Nat
  | .thread n => some n
  | .unit _ n => some n
  | .outside => none

/-- Agent `b` lies in a scope as seen from agent `a` (Table 11-3): below .mod a scope holds threads alone, those of the
issuing thread, its core or its cluster. -/
def inScope (scope : BitVec 3) (a b : Agent) : Bool :=
  let near := fun k : Nat => match a.hwThread, b with
    | some x, .thread y => x / k == y / k
    | _, _ => false
  match scope.toNat with
  | 0 => near 1
  | 1 => near 4
  | 2 => near 16
  | 3 => b.module.isSome && a.module == b.module
  | 4 => b != .outside
  | _ => true

/-- A command as the writer of stores; threads are below 512. -/
def unitKey (id : Nat) : Nat := 512 + id

/-- A pre-empted task as the writer of the stores that its thread could not perform; commands are below 2^40. -/
def savedKey (id : BitVec 32) : Nat := 2 ^ 40 + id.toNat

/-! ### Moments (R335) -/

/-- A byte as it stood before the oldest of the later writes that `late` picks; as memory now stands when there is none. -/
def pastByte (late : PastByte → Bool) (s : State) (p : Nat) : Byte :=
  if s.past.isEmpty then memByte s p
  else match (s.past.filter fun x => x.p == p && late x).getLast? with
    | some x => x.old
    | none => memByte s p

/-- A byte as agents other than engines find it at a moment. -/
def byteAt (s : State) (m p : Nat) : Byte := pastByte (fun x => decide (m < x.since)) s p

/-- A byte as an engine reads it: each aligned 8-byte word as it stood at a moment of its own since `lo`, which is free
(R176, R334). -/
def engineByte (s : State) (lo p : Nat) : Byte :=
  if s.past.any fun x => lo < x.at' then
    let m := lo + (Config.freeWord s.free (p / 8)).toNat % (s.now - lo + 1)
    pastByte (fun x => decide (m < x.at')) s p
  else memByte s p

/-- A moment from `lo` on at which a read is satisfied: now, unless a write since then leaves a choice, which is free
(R335, R340, log 14). -/
def pickMoment (lo : Nat) : Op Nat := fun s =>
  if s.past.any fun x => lo < x.at' then
    .ok (lo + Config.freeNat s.free % (s.now - lo + 1)) { s with free := s.free + 1 }
  else .ok s.now s

/-- The latest moment a map gives to some keys. -/
def latestOf (seen : List (Nat × Nat)) (keys : List Nat) : Nat :=
  if seen.isEmpty then 0 else keys.foldl (fun n k => max n (smGet seen k)) 0

/-- A write to some places by a moment that an agent may still miss (R345). -/
def missable (s : State) (lo : Nat) (ps : List Nat) : Bool :=
  s.past.any fun x => x.soft.isSome && decide (x.since ≤ lo) && ps.contains x.p

/-- The moment from which a read ordered after moment `lo` finds some places: `lo`, but for writes that it may still miss,
where it is the last write it may not (R345). -/
def boundOf (s : State) (lo : Nat) (ps : List Nat) : Nat :=
  if missable s lo ps then
    (s.past.filter fun x => x.soft.isNone && decide (x.since ≤ lo) && ps.contains x.p).foldl (fun n x => max n x.since) 0
  else lo

/-- The writes that follow from a read of some places at a moment: those of the streams it found, up to the ones it found
(R345). -/
def streamSeen (s : State) (m : Nat) (ps : List Nat) : List (Nat × Nat) :=
  let found := s.past.filter fun x => decide (x.since ≤ m) && ps.contains x.p && x.soft.isSome
  if found.isEmpty then []
  else (s.past.filter fun y => found.any fun x => x.soft == y.soft && decide (y.since ≤ x.since)).map fun y => (y.p, y.since)

/-- The package with what the thread whose turn it is is ordered after changed. -/
def updOrder (s : State) (f : Order → Order) : State := { s with th := { s.th with order := f s.th.order } }

/-- A task's stores that are left when its thread is taken away keep a name of their own; with the thread it gets again, they
are that thread's, and its commands work for it (R193, R337). -/
def renameStores (a b : Nat) (s : State) : State :=
  { s with
    pending := s.pending.map fun x => if x.thread = a then { x with thread := b } else x
    marks := s.marks.map fun k => if k.thread = a then { k with thread := b } else k }

/-- The commands of a task, and the releases of those whose writes are pending, work for hardware thread `n` (R337). -/
def rehome (id : BitVec 32) (n : Nat) (s : State) : State :=
  let mine := fun k : ReleaseMark => s.pending.any fun x => x.thread == k.thread && x.cmd.any fun c => c.task == id
  { s with
    cmds := s.cmds.map fun k => if k.task = id then { k with hw := n } else k
    marks := s.marks.map fun k => match k.agent with
      | .unit m _ => if mine k then { k with agent := .unit m n } else k
      | _ => if k.thread = n then { k with agent := .thread n } else k }

/-- A thread of an identifier with its order changed. -/
def updOrderOf (s : State) (n : Nat) (f : Order → Order) : State :=
  let g := fun th : Thread => if th.id = n then { th with order := f th.order } else th
  { s with th := g s.th, parked := s.parked.map g }

/-- The past that no access of a thread or an engine can reach any more is dropped, and the marks of releases whose value
none can read: a write that some agent may still miss stays until one that none can miss lies over it. -/
def prunePast (s : State) : State :=
  let lo := ((s.th :: s.parked).filter fun t => t.task.isSome).foldl
    (fun n t => min n (min t.order.scalar (min t.order.vector t.order.bank))) s.now
  let lo := s.cmds.foldl (fun n k => min n k.since) lo
  let hidden := fun x : PastByte => s.past.any fun z =>
    z.p == x.p && z.soft.isNone && decide (x.since < z.since) && decide (z.since ≤ lo)
  { s with
    past := s.past.filter fun x => decide (lo < x.at') || (x.soft.isSome && !hidden x)
    marks := s.marks.filter fun k => !decide (k.till.getD (lo + 1) ≤ lo) }

/-- A map of moments with some of another's at theirs or later. -/
def seeAll (xs : List (Nat × Nat)) (seen : List (Nat × Nat)) : List (Nat × Nat) := xs.foldl (fun l x => seeFrom x.2 [x.1] l) seen

/-- A map of moments without those up to `lo`, but for the bytes that some agent may still miss. -/
def keepSeen (s : State) (lo : Nat) (key : Nat → Nat) (seen : List (Nat × Nat)) : List (Nat × Nat) :=
  seen.filter fun x => decide (lo < x.2) || s.past.any fun y => y.soft.isSome && y.p == key x.1

/-- What a thread's order keeps of single bytes once its sides follow their moments. -/
def tidyOrder (s : State) (o : Order) : Order :=
  { o with
    seen := keepSeen s (min o.scalar o.vector) id o.seen, vecSeen := keepSeen s (min o.scalar o.vector) id o.vecSeen
    read := keepSeen s o.scalar id o.read, laneSeen := keepSeen s (min o.scalar o.vector) (· / 16) o.laneSeen
    laneNext := keepSeen s (min o.scalar o.vector) (· / 16) o.laneNext }

/-- Later accesses of the thread's kinds s and v follow a moment (R338, R341, Table 11-5). -/
def followAt (scalar vector : Bool) (m : Nat) (s : State) : State :=
  if s.past.isEmpty then s else
  prunePast (updOrder s fun o =>
    tidyOrder s { o with
      scalar := if scalar then max m o.scalar else o.scalar, vector := if vector then max m o.vector else o.vector })

/-- Later scalar and vector accesses of the thread follow a moment (R338, Table 11-5). -/
def acquireAt (m : Nat) (s : State) : State := followAt true true m s

/-- Later vector accesses of the thread follow a moment (R225). -/
def vectorFrom (m : Nat) (s : State) : State :=
  if s.past.isEmpty then s else prunePast (updOrder s fun o => { o with vector := max m o.vector, last := max m o.last })

/-- The moment from which the thread's reads of a bank may be satisfied: a FENCE with kind b orders those of every bank,
and its earlier accesses of the bank order its own (R124, R341, Table 11-5). -/
def bankBound (s : State) (b : Nat) : Nat := max s.th.order.bank (smGet s.th.order.rows b)

/-- Later accesses of the thread to a bank follow a moment (R124, R129). -/
def rowFrom (b m : Nat) (s : State) : State :=
  if s.past.isEmpty then s else updOrder s fun o => { o with rows := seeFrom m [b] o.rows }

/-- What lane groups have found, by place. -/
def laneFound (o : Order) : List (Nat × Nat) := (o.laneSeen ++ o.laneNext).map fun x => (x.1 / 16, x.2)

/-- Later scalar accesses of the thread follow its earlier vector accesses and what they found (VWAIT, FENCE with kind v, a
release that carries v, R213 item 3). -/
def joinVector (s : State) : State :=
  if !s.weak then s else updOrder s fun o =>
    { o with scalar := max o.scalar o.last, read := seeAll (laneFound o ++ o.vecSeen) o.read, joined := s.nextStore }

/-- A vector instruction begins to read: its elements follow what the earlier ones of their lane group found, and not each
other (R335). -/
def nextVector (s : State) : State :=
  if s.th.order.laneNext.isEmpty then s
  else updOrder s fun o => { o with laneSeen := seeAll o.laneNext o.laneSeen, laneNext := [] }

/-- The thread's vector side has made an access at a moment. -/
def noteVector (m : Nat) (s : State) : State :=
  if s.weak then updOrder s fun o => { o with last := max m o.last } else s

/-- The writes of a stream that no agent can miss any more. -/
def hardenWrites (f : PastByte → Bool) (s : State) : State :=
  if s.past.any fun x => x.soft.isSome then
    { s with past := s.past.map fun x => if f x then { x with soft := none } else x }
  else s

/-- The thread has found a write itself. -/
def hasSeen (vector : Bool) (o : Order) (x : PastByte) : Bool :=
  decide (x.since ≤ max (smGet o.seen x.p) (smGet o.read x.p)) ||
  (vector && (decide (x.since ≤ smGet o.vecSeen x.p) || (laneFound o).any fun y => y.1 == x.p && decide (x.since ≤ y.2)))

/-- A release of a thread: nobody who acquires it can miss what its scalar side has found or, with `vector`, what its
vector side has found and the stores of its lane groups (R341, R343). -/
def publishBy (th : Thread) (vector : Bool) (s : State) : State :=
  hardenWrites (fun x => hasSeen vector th.order x || (vector && x.soft.any fun k => k.writer == th.id)) s

/-- A release of the thread whose turn it is. -/
def publish (vector : Bool) (s : State) : State := publishBy s.th vector s

/-! ### Stores not yet performed (R336, R344) -/

/-- The slice of a place; each scratchpad and each segment of a cluster memory counts as one (R146, R160, R213). -/
def sliceOf (s : State) (p : Nat) : Nat :=
  if isPhys p then
    let (m, sl, _) := l2Home s p
    256 * m + sl
  else
    let o := p - placeBase
    if o < 2 ^ 28 then 2 ^ 20 + o / 2 ^ 21
    else if o < 2 ^ 29 then 2 ^ 21 + 4 * (o / 2 ^ 22) + cmSegment o
    else 2 ^ 22 + o / 2 ^ 25

/-- Two stores write a common byte. -/
def PendingStore.meets (x : PendingStore) (ps : List Nat) : Bool := x.ws.any fun w => ps.contains w.p

/-- The places a store writes. -/
def PendingStore.places (x : PendingStore) : List Nat := x.ws.map ByteWrite.p

/-- The `lane` of a vector store that is performed as one write though its elements lie in several lane groups. -/
def severalLanes : Nat := 16

/-- Two stores leave one lane group's store queue. -/
def sameQueue (x y : PendingStore) : Bool :=
  x.lane.isSome && y.lane.isSome && (x.lane == y.lane || x.lane == some severalLanes || y.lane == some severalLanes)

/-- A write of a command. -/
def unitStore (x : PendingStore) : Bool := x.cmd.isSome

/-- Two writes of commands lie in one 32-byte block. -/
def sameBlock (x y : PendingStore) : Bool :=
  match x.ws, y.ws with
  | a :: _, b :: _ => a.p / 32 == b.p / 32
  | _, _ => false

/-- A store `y` follows store `x` of its thread: they meet in a byte, and no scalar store comes after a vector store that
nothing has joined to it; or they leave one lane group for one slice (R335, R213). Writes of commands to one block stay in the
order in which the lines were granted (R175). -/
def storeFollows (s : State) (x y : PendingStore) : Bool :=
  decide (x.serial < y.serial) &&
  ((x.thread == y.thread &&
    ((x.meets y.places && (x.lane.isNone || y.lane.isSome || decide (x.serial < y.joined))) ||
     (sameQueue x y && x.ws.any fun a => y.ws.any fun b => sliceOf s a.p == sliceOf s b.p))) ||
   (unitStore x && unitStore y && sameBlock x y))

/-- A pending store can be performed: nothing it follows is pending, its lines are free and memory is served (R175,
R86). A command writes lines that it owns. -/
def storeReady (s : State) (y : PendingStore) : Bool :=
  !(s.pending.any fun x => storeFollows s x y) &&
  (unitStore y || (!(!s.cmds.isEmpty && y.places.any (isOwned s)) && (memReady s || !y.places.any isDevice)))

/-- A store taken out of the pending ones and written at its home, the writer's own L1 copy being updated with it
(R152). -/
def writeStore (s : State) (y : PendingStore) : State :=
  let own := if y.lane.isNone then s.l1d.filter fun l => l.core == y.core else []
  let soft := fun p => match y.lane with
    | some h => if h < severalLanes then some { writer := y.thread, lane := h, slice := sliceOf s p } else none
    | none => none
  let t := landBits { s with pending := s.pending.filter fun x => x.serial != y.serial } .device { soft := soft } y.ws
  l2Touch { t with l1d := s.l1d.filter fun l => t.l1d.contains l || own.contains l } y.places .normal .write

/-- A thread's order once bytes it has written are performed: both its sides see those of its scalar side, and its vector
side alone those of its lane groups and commands, until the scalar side is joined to them (R213, R336). -/
def seeWritten (both : Bool) (now : Nat) (ps : List Nat) (o : Order) : Order :=
  if both then { o with seen := seeFrom now ps o.seen } else { o with vecSeen := seeFrom now ps o.vecSeen }

/-- The writer sees its store from the moment it is performed (R336). -/
def seeStore (y : PendingStore) (s : State) : State :=
  if s.weak then updOrderOf s y.thread fun o =>
    let o := seeWritten (y.lane.isNone || decide (y.serial < o.joined)) s.now y.places o
    { o with last := if y.lane.isSome then max s.now o.last else o.last }
  else s

/-- The thread whose turn it is sees bytes that it has just written at their homes (R213 item 1, R336). -/
def seeOwn (vector : Bool) (ps : List Nat) (s : State) : State :=
  if s.weak then updOrder s fun o =>
    let o := seeWritten (!vector) s.now ps o
    { o with last := if vector then max s.now o.last else o.last }
  else s

/-- A write of a command performed at its home, each aligned 8-byte word at an instant of its own, and found by its own task's
thread from then on: a scalar side that follows the acceptance finds it too (R169, R175, Table 6-5). -/
def landUnit (s : State) (y : PendingStore) : State :=
  match y.cmd with
  | none => s
  | some c =>
    let how : Landing := { since := if y.places.any (isOwned s) then some c.since else none, split := true }
    let t := landBits { s with pending := s.pending.filter fun x => x.serial != y.serial } (if c.outside then .outside else .device) how y.ws
    let t := l2Touch t y.places c.cls .write
    let g := fun th : Thread =>
      if th.task == some c.task then
        { th with order := seeWritten (decide (c.since ≤ th.order.scalar)) t.now y.places th.order }
      else th
    if t.weak then { t with th := g t.th, parked := t.parked.map g } else t

/-- Writes of commands performed, with those to the same blocks before them (R175). -/
def performUnits (f : PendingStore → Bool) (s : State) : State :=
  let us := s.pending.filter unitStore
  let mine := us.filter f
  (us.filter fun x => mine.any fun y => x.serial == y.serial || (decide (x.serial < y.serial) && sameBlock x y)).foldl landUnit s

/-- The release of a command in memory: who acquires it finds its writes (R338, R339). -/
def markCommand (ps : List Nat) (a : Agent) (key : Nat) (scope : BitVec 3) (s : State) : State :=
  if s.pending.any fun x => x.thread == key then
    { s with marks := s.marks ++ [{ places := ps, agent := a, thread := key, scope := scope, serial := s.nextStore, at' := s.now }] }
  else s

/-- A release whose thread has older scalar stores pending leaves its mark (R339). -/
def markRelease (y : PendingStore) (s : State) : State :=
  match y.release with
  | some sc =>
    if s.pending.any fun x => x.thread == y.thread && x.lane.isNone && decide (x.serial < y.serial) then
      { s with marks := s.marks ++
        [{ places := y.places, agent := .thread y.thread, thread := y.thread, scope := sc, serial := y.serial, at' := s.now }] }
    else s
  | none => s

/-- A store performed at its home, after what commands that owned its lines have written there (R175, R336). -/
def performStore (s : State) (y : PendingStore) : State :=
  if unitStore y then performUnits (fun x => x.serial == y.serial) s
  else markRelease y (seeStore y (writeStore (performUnits (fun x => x.meets y.places) s) y))

/-- What the thread has waited for at some places is performed, and found from now on (R175, R346). -/
def endAwait (ps : List Nat) (s : State) : State :=
  let qs := ps.filter s.th.order.awaited.contains
  if qs.isEmpty then s
  else
    let s := performUnits (fun x => x.meets qs) s
    updOrder s fun o => { o with seen := seeFrom s.now qs o.seen, awaited := o.awaited.filter fun p => !qs.contains p }

/-- A write of a command of the thread's own task. -/
def ownUnit (s : State) (x : PendingStore) : Bool := x.cmd.any fun c => s.th.task == some c.task

/-- A relaxed access to some places waits for owned lines; what it waited for, and what the task's own commands write there,
is performed first (R169, R175, Table 6-5). -/
def awaitLines (ps : List Nat) : Op Unit := fun s =>
  match awaitOwned ps s with
  | .error e s => .error e s
  | .ok _ s => .ok () (performUnits (fun x => ownUnit s x && x.meets ps) (endAwait ps s))

/-- An access at the homes of some places waits for owned lines, and then comes after what their owners have written
(R175). -/
def awaitPlaces (ps : List Nat) : Op Unit := fun s =>
  match awaitOwned ps s with
  | .error e s => .error e s
  | .ok _ s => .ok () (performUnits (fun x => x.meets ps) (endAwait ps s))

/-- Places of a bank as `awaitPlaces` has them: a bank access that has waited finds what the owner wrote (R346). -/
def awaitRows (b : Nat) (ps : List Nat) : Op Unit := fun s =>
  match awaitPlaces ps s with
  | .ok _ t => .ok () (if ps.any s.th.order.awaited.contains then rowFrom b t.now t else t)
  | r => r

/-- The pending stores of a thread up to a number performed in order, as far as they can be. -/
def performThrough (s : State) (n serial : Nat) : State :=
  (s.pending.filter fun x => x.thread == n && decide (x.serial ≤ serial)).foldl
    (fun t x => if storeReady t x then performStore t x else t) s

/-- Every pending store of a thread performed, as far as they can be. -/
def performAllOf (s : State) (n : Nat) : State := performThrough s n s.nextStore

/-- Every pending store of the package performed, as far as they can be. -/
def performAll (s : State) : State := s.pending.foldl (fun t x => if storeReady t x then performStore t x else t) s

/-- One of the pending stores of a thread that can be performed, by a free choice among several (R340, R345). -/
def performOne (s : State) (n : Nat) : State :=
  match s.pending.filter fun x => x.thread == n && storeReady s x with
  | [] => s
  | [x] => performStore s x
  | x :: xs => performStore { s with free := s.free + 1 } ((x :: xs).getD (Config.freeNat s.free % (xs.length + 1)) x)

/-- The own pending stores of a kind are performed first, with those older than them; a wait while one cannot be. -/
def forceStores (f : PendingStore → Bool) : Op Unit := fun s =>
  let mine := fun x : PendingStore => x.thread == s.th.id && f x
  match (s.pending.filter mine).getLast? with
  | none => .ok () s
  | some y =>
    let s' := performThrough s s.th.id y.serial
    if s'.pending.any mine then .error (.wait false) s else .ok () s'

/-- The scalar side's stores. -/
def scalarStore (x : PendingStore) : Bool := x.lane.isNone

/-- A store that a convoy in progress holds until it commits (R69). -/
def heldStore (s : State) (x : PendingStore) : Bool :=
  s.group.active && x.thread == s.th.id && decide (s.group.first ≤ x.serial)

/-- The lane groups' store queues. -/
def laneStore (x : PendingStore) : Bool := x.lane.isSome

/-- A store commits: it waits to be performed, or is performed at once where the model holds none back (log 14). One of
a convoy in progress is held in either case. -/
def commitStore (lane : Option Nat) (release : Option (BitVec 3)) (ws : List ByteWrite) : Op Unit := fun s =>
  let y : PendingStore :=
    { serial := s.nextStore, thread := s.th.id, core := s.th.id / 4, lane := lane, ws := ws, release := release
      joined := s.th.order.joined }
  let s := { s with nextStore := s.nextStore + 1 }
  .ok () (if s.weak || s.group.active then { s with pending := s.pending ++ [y] } else performStore s y)

/-- A store commits in units of some lengths, each of which is performed on its own (R334). -/
def commitUnits (lane : Option Nat) (release : Option (BitVec 3)) : List Nat → List ByteWrite → Op Unit
  | [], _ => pure ()
  | n :: ns, ws => do
    commitStore lane release (ws.take n)
    commitUnits lane release ns (ws.drop n)

/-- A byte at a moment with the pending stores of a kind of the thread whose turn it is over it (R336). -/
def viewByte (f : PendingStore → Bool) (s : State) (m p : Nat) : Byte :=
  if s.pending.isEmpty then byteAt s m p
  else ((s.pending.filter fun x => x.thread == s.th.id && f x).flatMap fun x => x.ws.filter fun w => w.p == p).foldl
    mergeByte (byteAt s m p)

/-- A write that is half of a read-modify-write: the releases it continues keep their marks (R339). -/
def continueMarks (before after : State) : State := { after with marks := before.marks }

/-! ### Reads and writes of a thread -/

/-- 0x14 when a word of some places is uncorrectable, with the given FADDR and FINFO; every word read is counted (R100,
R101). -/
def checkWords (ps : List Nat) (faddr : Word) (finfo : Nat) : Op Unit := fun s =>
  let t := countRead s ps
  if (firstUncorr s ps).isSome then .error (.trap { cause := 0x14, faddr := faddr, finfo := BitVec.ofNat 64 finfo } false) t
  else .ok () t

/-- The thread's vector side has read some places as memory now stands. -/
def noteHome (ps : List Nat) (s : State) : State :=
  if s.past.isEmpty then s else updOrder s fun o =>
    { o with vecSeen := seeAll (streamSeen s s.now ps) (seeFrom s.now ps o.vecSeen), last := max s.now o.last }

/-- A read of the vector side at its place's home as memory now stands, after the thread's own stores to it, and noted as
`note` says. -/
def readAt (note : List Nat → State → State) (ps : List Nat) (faddr : Word) (finfo : Nat) : Op (List Byte) := do
  awaitPlaces ps
  forceStores fun x => x.meets ps
  checkWords ps faddr finfo
  fun s => .ok (ps.map (memByte s)) (note ps (l2Touch s ps .normal .read))

/-- Such a read that no lane group makes. -/
def readBytes (ps : List Nat) (faddr : Word) (finfo : Nat) : Op (List Byte) := readAt noteHome ps faddr finfo

/-- A write at its place's home, after the thread's own stores to it. -/
def writeBytes (ps : List Nat) (bs : List Byte) : Op Unit := do
  awaitPlaces ps
  forceStores fun x => x.meets ps
  fun s => .ok () (l2Touch (writePlaces s .device (placed ps bs)) ps .normal .write)

/-- One unit of an access satisfied at a moment that its side's order and what was found of its bytes allow: its bytes,
with the moment (R334, R336). -/
def readUnit (f : PendingStore → Bool) (lo found : Nat) (ps : List Nat) : Op (List Byte × Nat) := do
  let s ← get
  let m ← pickMoment (max (boundOf s lo ps) found)
  let s ← get
  pure (ps.map (viewByte f s m), m)

/-- The thread has read a unit of its scalar side at a moment. -/
def noteScalar (ps : List Nat) (m : Nat) (s : State) : State :=
  let s := if s.past.isEmpty then s else updOrder s fun o =>
    { o with
      read := seeAll (streamSeen s m ps) (seeFrom m ps o.read) }
  if s.marks.isEmpty then s else updOrder s fun o => { o with lastScalar := some { places := ps, at' := m } }

/-- Lane group `h` has read a unit at a moment. -/
def noteLane (h : Nat) (ps : List Nat) (m : Nat) (s : State) : State :=
  let s := if s.past.isEmpty then s else updOrder s fun o =>
    { o with
      laneNext := seeAll ((streamSeen s m ps).map fun x => (16 * x.1 + h, x.2)) (seeFrom m (ps.map fun p => 16 * p + h) o.laneNext)
      last := max m o.last }
  if s.marks.isEmpty then s else updOrder s fun o => { o with lastVector := some { places := ps, at' := m } }

/-- A read of the scalar side at the home of its places as memory now stands, after the thread's own stores that it
follows: one that WAITC or an atomic makes (R335, R345). -/
def readHome (ps : List Nat) (faddr : Word) (finfo : Nat) : Op (List Byte) := do
  awaitPlaces ps
  let s ← get
  forceStores fun x => x.meets ps && (scalarStore x || decide (x.serial < s.th.order.joined))
  checkWords ps faddr finfo
  fun s => .ok (ps.map (memByte s)) (noteScalar ps s.now (l2Touch s ps .normal .read))

/-- The units of a scalar read, one after another: their bytes, and the latest moment. -/
def readUnits : List (List Nat) → Op (List Byte × Nat)
  | [] => pure ([], 0)
  | ps :: rest => do
    let s ← get
    let o := s.th.order
    let (bs, m) ← readUnit scalarStore o.scalar (max (latestOf o.seen ps) (latestOf o.read ps)) ps
    modify (noteScalar ps m)
    let (bs', m') ← readUnits rest
    pure (bs ++ bs', max m m')

/-- The words of a scalar read that the L1 data cache does not serve (R101, R152). -/
def uncached (s : State) (cached : Bool) (ps : List Nat) : List Nat :=
  if cached && !s.l1d.isEmpty then
    ps.filter fun p => !s.l1d.contains { core := s.th.id / 4, pa := p / 128 * 128 }
  else ps

/-- A relaxed scalar read in units: from moments the thread's order allows, through its own pending stores (R335, R336),
and through its core's L1 data cache when `cached`. Answers the moment too. -/
def readScalar (cached : Bool) (units : List (List Nat)) (faddr : Word) (finfo : Nat) : Op (List Byte × Nat) := do
  let ps := units.flatten
  awaitLines ps
  let s ← get
  forceStores fun x => laneStore x && x.meets ps && decide (x.serial < s.th.order.joined)
  let s ← get
  checkWords (uncached s cached ps) faddr finfo
  let r ← readUnits units
  modify fun s => if cached then l1Touch s (s.th.id / 4) ps else l2Touch s ps .normal .read
  pure r

/-- The units of a lane group's read, one after another. -/
def readLaneUnits (h : Nat) : List (List Nat) → Op (List Byte)
  | [] => pure []
  | ps :: rest => do
    let s ← get
    let o := s.th.order
    let keys := ps.map fun p => 16 * p + h
    let (bs, m) ← readUnit laneStore o.vector
      (max (max (latestOf o.seen ps) (latestOf o.vecSeen ps)) (latestOf o.laneSeen keys)) ps
    modify (noteLane h ps m)
    let bs' ← readLaneUnits h rest
    pure (bs ++ bs')

/-- A relaxed read of a lane group in units: from moments the thread's order allows, through the thread's own store queues,
its scalar stores to the bytes being performed first (R213, R335). -/
def readLane (h : Nat) (units : List (List Nat)) (faddr : Word) (finfo : Nat) : Op (List Byte) := do
  let ps := units.flatten
  awaitLines ps
  forceStores fun x => scalarStore x && x.meets ps
  checkWords ps faddr finfo
  let bs ← readLaneUnits h units
  modify fun s => l2Touch s ps .normal .read
  pure bs

/-! ### Acquires and releases (R338, R339) -/

/-- A release whose mark an acquire at scope τ meets: each lies in the other's scope (R339). -/
def synchronises (n : Nat) (scope : BitVec 3) (k : ReleaseMark) : Bool :=
  inScope k.scope k.agent (.thread n) && inScope scope (.thread n) k.agent

/-- An acquire reads the value of a release: it finds one of its places before another write ends the value. -/
def readsMark (ps : List Nat) (m : Nat) (k : ReleaseMark) : Bool :=
  k.places.any (ps.contains ·) && decide (k.at' ≤ m) && !decide (k.till.getD (m + 1) ≤ m)

/-- A store that a release carries. -/
def carried (k : ReleaseMark) (x : PendingStore) : Bool :=
  x.thread == k.thread && (k.vec || x.lane.isNone) && decide (x.serial < k.serial)

/-- The stores that a release carries performed, as far as they can be: those alone where that is enough. -/
def performCarried (k : ReleaseMark) (s : State) : State :=
  let s' := (s.pending.filter (carried k)).foldl (fun t x => if storeReady t x then performStore t x else t) s
  if s'.pending.any (carried k) then performThrough s' k.thread (k.serial - 1) else s'

/-- The releases whose value some places hold at a moment, among some, have what they carry performed; none when it cannot be
yet. -/
def meetMarks (pairs : ReleaseMark → Bool) (ps : List Nat) (m : Nat) (s : State) : Option State :=
  let met := s.marks.filter fun k => readsMark ps m k && pairs k
  let s' := met.foldl (fun t k => performCarried k t) s
  if met.any fun k => s'.pending.any (carried k) then none else some s'

/-- An acquire of some kinds of access of some places at a moment: the stores that each release it pairs with carries are
performed, and the thread's later accesses of the kinds follow. -/
def acquireKinds (scalar vector : Bool) (scope : BitVec 3) (ps : List Nat) (m : Nat) : Op Unit := fun s =>
  let pairs := synchronises s.th.id scope
  match meetMarks pairs ps m s with
  | none => .error (.wait false) s
  | some s' => .ok () (followAt scalar vector (if s.marks.any fun k => readsMark ps m k && pairs k then s'.now else m) s')

/-- An acquire of some places at a scope. -/
def acquire (scope : BitVec 3) (ps : List Nat) (m : Nat) : Op Unit := acquireKinds true true scope ps m

/-- An acquire that observes all that has been performed by now. -/
def acquireNow (s : State) : State := acquireAt s.now s

/-- A unit of the device or the host acquires some places as they now stand: what the releases there carry is performed; none
when it cannot be yet (R184, R305, R351). -/
def acquireFor (a : Agent) (scope : BitVec 3) (ps : List Nat) (s : State) : Option State :=
  meetMarks (fun k => inScope k.scope k.agent a && inScope scope a k.agent) ps s.now s

/-- A FENCE of some kinds as the acquire of a relaxed read before it (R338, R339). -/
def acquireNote (kinds : BitVec 4) (scope : BitVec 3) : Option ReadNote → Op Unit
  | some r => acquireKinds (kinds.getLsbD 0) (kinds.getLsbD 1) scope r.places r.at'
  | none => pure ()

/-- The thread's stores of the kinds s and v are performed: a release that carries them, at a scope of the package. -/
def releaseStores : Op Unit := do
  forceStores fun _ => true
  modify fun s => joinVector (publish true s)

/-- A release in memory at a scope, which carries the thread's stores of the kinds s and v: they are left to a mark, which
its acquires meet (R338, R339). -/
def releaseAt (ps : List Nat) (scope : BitVec 3) : Op Unit :=
  modify fun s =>
    let s := joinVector (publish true s)
    if s.pending.any fun x => x.thread == s.th.id then
      { s with
        nextStore := s.nextStore + 1
        marks := s.marks ++ [{ places := ps, agent := .thread s.th.id, thread := s.th.id, scope := scope
                               serial := s.nextStore, at' := s.now + 1, vec := true }] }
    else s

end Sys2Proof.Machine
end

