-- ==== Sys2Proof/Machine/Translate.lean ====
section
/-! DEFINITION. From virtual addresses to places: the launch record's fields, windows and allotments
(R155-R166), the page-table walk and the TLBs (R410-R416), and fault service (R419). -/
namespace Sys2Proof.Machine

/-! ### Launch-record fields (Table 13-1) -/

/-- Bits [lo+w-1:lo] of the doubleword at a byte offset of a launch record. -/
def recBits (r : BitVec 1024) (off lo w : Nat) : Nat := bitsOf r.toNat (8 * off + lo) w

def recEntry (r : BitVec 1024) : Word := BitVec.ofNat 64 (recBits r 0x00 0 64)
def recArgs (r : BitVec 1024) : Word := BitVec.ofNat 64 (recBits r 0x08 0 64)
def recSlot (r : BitVec 1024) : Word := BitVec.ofNat 64 (recBits r 0x10 0 64)
def recAspace (r : BitVec 1024) : BitVec 16 := BitVec.ofNat 16 (recBits r 0x18 48 16)
def recImgid (r : BitVec 1024) : BitVec 32 := BitVec.ofNat 32 (recBits r 0x18 0 32)
def recInst (r : BitVec 1024) : Nat := recBits r 0x20 32 32
def recVer (r : BitVec 1024) : Nat := recBits r 0x20 24 8
def recKvdom (r : BitVec 1024) : Nat := recBits r 0x20 16 8
def recGid (r : BitVec 1024) : Nat := recBits r 0x28 32 32
def recModmask (r : BitVec 1024) : Nat := recBits r 0x28 28 4
def recGsize (r : BitVec 1024) : Nat := recBits r 0x28 16 9
def recMin (r : BitVec 1024) : Nat := recBits r 0x28 8 5
def recReq (r : BitVec 1024) : Nat := recBits r 0x28 0 5
def recNpc (r : BitVec 1024) : Nat := recBits r 0x30 24 8
def recP0 (r : BitVec 1024) : Nat := recBits r 0x30 0 9
def recDssize (r : BitVec 1024) : Nat := recBits r 0x38 48 16
def recDsbase (r : BitVec 1024) : Nat := recBits r 0x38 32 16
def recCmsize (r : BitVec 1024) : Nat := recBits r 0x38 24 8
def recCmbase (r : BitVec 1024) : Nat := recBits r 0x38 16 8
def recCssize (r : BitVec 1024) : Nat := recBits r 0x38 8 8
def recCsbase (r : BitVec 1024) : Nat := recBits r 0x38 0 8
def recSucc (r : BitVec 1024) : Word := BitVec.ofNat 64 (recBits r 0x40 0 64)
def recNsucc (r : BitVec 1024) : Nat := recBits r 0x48 32 16
def recRecord (r : BitVec 1024) : Bool := recBits r 0x48 31 1 == 1
def recZds (r : BitVec 1024) : Bool := recBits r 0x48 30 1 == 1
def recZcm (r : BitVec 1024) : Bool := recBits r 0x48 29 1 == 1
def recZcs (r : BitVec 1024) : Bool := recBits r 0x48 28 1 == 1
def recScope (r : BitVec 1024) : Nat := recBits r 0x48 24 3
def recQueue (r : BitVec 1024) : Nat := recBits r 0x48 0 18
def recSave (r : BitVec 1024) : Word := BitVec.ofNat 64 (recBits r 0x50 0 64)
def recSavesz (r : BitVec 1024) : Nat := recBits r 0x58 0 32
def recTvec (r : BitVec 1024) : Word := BitVec.ofNat 64 (recBits r 0x60 0 64)
def recTstack (r : BitVec 1024) : Word := BitVec.ofNat 64 (recBits r 0x68 0 64)
def recRpl (r : BitVec 1024) : Word := BitVec.ofNat 64 (recBits r 0x70 0 64)

/-- A task is a member of a gang (R386). -/
def recInGang (r : BitVec 1024) : Bool := decide (1 < recGsize r)

/-! ### Who accesses -/

/-- The kind of an access (R415). -/
inductive Access where
  | read | write | atomic | fetch
  deriving DecidableEq, Repr

/-- Whether an access counts as a write in R415 and R419. -/
def Access.writes : Access → Bool
  | .write | .atomic => true
  | _ => false

/-- On whose behalf an access is made: the core, the task's record and rank, and whether the thread is in
trap mode and may be served (R419). -/
structure Ctx where
  core : Nat
  task : BitVec 32
  base : BitVec 32
  launch : BitVec 1024
  rank : Nat
  trapMode : Bool := false
  /-- accesses of a thread, which fault service covers -/
  served : Bool := false
  /-- BLEASE pinning a page (Table 14-5) -/
  pin : Bool := false
  /-- a command's gang as it was at issue; the gang as it is otherwise -/
  gang : Option (List Task) := none
  /-- the host's answer to the record this access waited on -/
  answer : Option FsWait := none
  /-- the index of the free choices its translations share; each draws its own when none (R208) -/
  draw : Option Nat := none
  deriving DecidableEq, Repr

/-- The module of a core. -/
def moduleOf (core : Nat) : Nat := core / 16

/-- The global cluster of a core. -/
def clusterOf (core : Nat) : Nat := core / 4

/-- The task of an identifier. -/
def findTask (s : State) (id : BitVec 32) : Option Task := s.tasks.find? fun t => t.id == id

/-- The task of the thread whose turn it is. -/
def curTask (s : State) : Option Task := s.th.task.bind (findTask s)

/-- The package with the task of an identifier changed. -/
def updTask (s : State) (id : BitVec 32) (f : Task → Task) : State :=
  { s with tasks := s.tasks.map fun t => if t.id == id then f t else t }

/-- The core of a hardware thread. -/
def coreOf (th : Thread) : Nat := th.id / 4

/-- The access context of a task on a core. -/
def taskCtx (t : Task) (core : Nat) : Ctx := { core := core, task := t.id, base := t.base, launch := t.launch, rank := t.rank }

/-- The access context of the thread whose turn it is; a thread without a task has an empty record. -/
def curCtx (s : State) : Ctx :=
  let c : Ctx := match curTask s with
    | some t => taskCtx t (coreOf s.th)
    | none => { core := coreOf s.th, task := 0, base := 0, launch := 0, rank := 0 }
  { c with trapMode := s.th.trap.mode, served := true, answer := s.th.fsw, draw := some s.free }

/-- The access context of the vector side of the thread whose turn it is. -/
def vecCtx (s : State) : Ctx := { curCtx s with answer := s.th.vfsw }

/-- The access context of an accepted command (R159, R193). -/
def cmdCtx (c : Cmd) : Ctx :=
  { core := c.core, task := c.task, base := c.task - BitVec.ofNat 32 c.rank, launch := c.launch, rank := c.rank
    gang := some c.gang }

/-! ### Windows (R155-R166) -/

/-- A window address (R155). -/
def isWindow (a : Nat) : Bool := bitsOf a 40 16 == 0xFFFF && a < 2 ^ 56

/-- A range of 64 KiB units holds a byte offset. -/
def inAllot (base size o : Nat) : Bool := decide (base * 2 ^ 16 ≤ o) && decide (o < (base + size) * 2 ^ 16)

/-- The members of a task's gang (R399). -/
def gangOf (s : State) (base : BitVec 32) : List Task := s.tasks.filter fun t => t.base == base

/-- The storage offset of a window offset under a swizzle mode (R164). -/
def swizzle (sw o : Nat) : Nat :=
  match sw with
  | 1 => putBits o 4 3 (Nat.xor (bitsOf o 4 3) (bitsOf o 7 3))
  | 2 => putBits o 5 3 (Nat.xor (bitsOf o 5 3) (bitsOf o 8 3))
  | 3 => putBits o 2 3 (Nat.xor (bitsOf o 2 3) (bitsOf o 5 3))
  | _ => o

/-- The chunk size of a swizzle mode; 0 for the whole access (Table 5-4). -/
def chunkOf (sw : Nat) : Nat :=
  match sw with
  | 1 => 16
  | 2 => 32
  | 3 => 4
  | _ => 0

/-- The bits [35:0] that the window of a selector assigns (Table 5-1). -/
def windowMask (sel : Nat) : Option Nat :=
  match sel with
  | 0 => some (0xC0000000 + 0x1FFFFF)
  | 1 => some (0xC0000000 + 0x3FFFFF)
  | 2 => some (0x300000000 + 0xC0000000 + 0x1FFFFFF)
  | 4 => some (0xC0000000 + 0x3F000000 + 0x1FFFFF)
  | _ => none

/-- The place of one byte of a window access that begins at `a`, or the reason of Table 5-3 (R163). -/
def windowByte (s : State) (c : Ctx) (a i : Nat) : Except Nat Nat :=
  let sel := bitsOf a 36 4
  let f := bitsOf a 0 36 + i
  match windowMask sel with
  | none => .error 0x01
  | some m =>
    if f ≥ 2 ^ 36 || Nat.land f m != f then .error 0x02
    else
      let sw := bitsOf f 30 2
      let gang := recInGang c.launch
      let members := c.gang.getD (gangOf s c.base)
      match sel with
      | 0 =>
        let p := swizzle sw (f % 2 ^ 21)
        if inAllot (recCsbase c.launch + c.rank * recCssize c.launch) (recCssize c.launch) p then .ok (placeCs c.core p)
        else .error 0x04
      | 1 =>
        let p := swizzle sw (f % 2 ^ 22)
        if inAllot (recCmbase c.launch) (recCmsize c.launch) p then .ok (placeCm (clusterOf c.core) p) else .error 0x04
      | 2 =>
        let m := bitsOf f 32 2
        let p := swizzle sw (f % 2 ^ 25)
        if !modulePresent s m then .error 0x03
        else if m == moduleOf c.core then
          if inAllot (recDsbase c.launch) (recDssize c.launch) p then .ok (placeDs m p) else .error 0x04
        else if gang && members.any (fun t => moduleOf t.core == m) && recDssize c.launch != 0 then
          if inAllot (recDsbase c.launch) (recDssize c.launch) p then .ok (placeDs m p) else .error 0x04
        else .error 0x06
      | _ =>
        let k := bitsOf f 24 6
        let p := swizzle sw (f % 2 ^ 21)
        if !corePresent s k then .error 0x03
        else if gang then
          let rs := members.filter fun t => t.core == k && recCssize t.launch != 0
          if rs.isEmpty then .error 0x06
          else if rs.any (fun t => inAllot (recCsbase t.launch + t.rank * recCssize t.launch) (recCssize t.launch) p)
          then .ok (placeCs k p) else .error 0x04
        else if k == c.core then
          if inAllot (recCsbase c.launch) (recCssize c.launch) p then .ok (placeCs k p) else .error 0x04
        else .error 0x06

/-- The places of `n` bytes of a window access at `a`, or the reason of the first failing byte. -/
def windowPlaces (s : State) (c : Ctx) (a : Nat) : Nat → Except Nat (List Nat)
  | 0 => .ok []
  | n + 1 =>
    match windowPlaces s c a n with
    | .error e => .error e
    | .ok ps =>
      match windowByte s c a n with
      | .error e => .error e
      | .ok p => .ok (ps ++ [p])

/-- A byte of an access begun inside its window's fields lies outside them: its last one does (R163). -/
def windowCarries (a n : Nat) : Bool :=
  match windowMask (bitsOf a 36 4) with
  | some m => let f := bitsOf a 0 36 + (n - 1); f ≥ 2 ^ 36 || Nat.land f m != f
  | none => false

/-- The places of a window access of `n` bytes at `a`, or the first reason of Table 5-3: that a byte lies outside the window's
fields comes before what a byte inside them meets (R163). -/
def windowAccess (s : State) (c : Ctx) (a n : Nat) : Except Nat (List Nat) :=
  if n != 0 && windowCarries a n then .error 0x02 else windowPlaces s c a n

/-- An access spans more than one chunk of its swizzle mode (R165). -/
def spansChunk (a n : Nat) : Bool :=
  let ch := chunkOf (bitsOf a 30 2)
  ch != 0 && a / ch != (a + n - 1) / ch

/-- The units of an access at an address: one byte each where it spans chunks of a window, else the whole (R165, Table
11-2). -/
def accessUnits (va : Word) (ps : List Nat) : List (List Nat) :=
  if isWindow va.toNat && spansChunk va.toNat ps.length then ps.map fun p => [p] else [ps]

/-! ### The page-table walk (R413-R415) -/

/-- What a walk finds. -/
inductive Walk where
  | leaf (pte : Nat) (size : Nat)
  | notPresent
  | malformed
  | uncorr (p : Nat)
  deriving DecidableEq, Repr

/-- Reading a page-table entry at a physical address: none where the walker cannot reach it. -/
def pteAt (s : State) (p : Nat) : Option Nat :=
  if physPresent s p && (!isHost p || inHdma s p) then some (natOfBytes (memBytes s p 8)) else none

/-- The physical address an entry holds: {ADDR, 0x00} (R414). -/
def pteAddr (e : Nat) : Nat := bitsOf e 8 44 * 256

/-- An entry with V = 1 is malformed at a level with the given page bits (R414). -/
def pteMalformed (s : State) (level bits e : Nat) : Bool :=
  let a := pteAddr e
  bitsOf e 52 12 != 0 || bitsOf e 6 2 != 0 || (bitAt e 3 == 1 && bitAt e 2 == 0) ||
  (if bitAt e 1 == 1 then
     level == 3 || a % 2 ^ bits != 0 || (bits != 21 && isDevice a && regionPresent s (a / 2 ^ 30) && regionLinear s (a / 2 ^ 30))
   else level == 0 || (level != 1 && a % 4096 != 0))

/-- The walker of a module: on whose behalf it walks, and the index of its free choices. -/
structure Walker where
  module : Nat
  aspace : BitVec 16
  draw : Nat

/-- The non-leaf entry a walker holds for an address at a level whose index begins at bit `lo` (R416). -/
def heldEntry (s : State) (x : Walker) (va lo : Nat) : Option WalkEntry :=
  s.walks.find? fun w => w.module == x.module && w.aspace == x.aspace && w.size == lo && w.va == va / 2 ^ lo * 2 ^ lo

/-- The entry a walk uses at a place: memory's, or the one the walker holds when memory has changed since and the free
choice falls on it (R416, log 9). Answers whether memory was read. -/
def entryUsed (s : State) (x : Walker) (va lo p : Nat) : Option Nat × Bool :=
  let now := pteAt s p
  match heldEntry s x va lo with
  | some w => if now != some w.pte.toNat && Config.freeStale x.draw (w.at') then (some w.pte.toNat, false) else (now, true)
  | none => (now, true)

/-- The walk from a table: each level with the low bit and the width of its index (Table 14-2). Answers the
places read and the pointers followed, too. -/
def walkFrom (s : State) (x : Walker) (va : Nat) : Nat → List (Nat × Nat × Nat) → List Nat → List WalkEntry →
    Walk × List Nat × List WalkEntry
  | _, [], seen, ptrs => (.malformed, seen, ptrs)
  | table, (level, lo, w) :: rest, seen, ptrs =>
    let p := table + 8 * bitsOf va lo w
    match entryUsed s x va lo p with
    | (none, _) => (.malformed, seen, ptrs)
    | (some e, fresh) =>
      let seen := if fresh then p :: seen else seen
      if fresh && isUncorr s p then (.uncorr p, seen, ptrs)
      else if bitAt e 0 == 0 then (.notPresent, seen, ptrs)
      else if pteMalformed s level lo e then (.malformed, seen, ptrs)
      else if bitAt e 1 == 1 then (.leaf e lo, seen, ptrs)
      else
        let ptr : WalkEntry :=
          { module := x.module, aspace := x.aspace, va := va / 2 ^ lo * 2 ^ lo, size := lo, at' := p, pte := BitVec.ofNat 64 e }
        walkFrom s x va (pteAddr e) rest seen (ptr :: ptrs)

/-- The levels of Table 14-2: level, low bit of the index, width of the index. -/
def walkLevels : List (Nat × Nat × Nat) := [(3, 39, 17), (2, 30, 9), (1, 21, 9), (0, 16, 5)]

/-- Physical address of an address space's entry (R412). -/
def astAddr (s : State) (aspace : BitVec 16) : Nat :=
  bitsOf (ctlGet s regAstbase).toNat 12 52 * 4096 + 8 * aspace.toNat

/-- The address-space entry is bound: V = 1 and no reserved bit (R412). -/
def astEntry (s : State) (aspace : BitVec 16) : Option Nat :=
  let p := astAddr s aspace
  if aspace == 0 then none
  else match pteAt s p with
    | none => none
    | some e => if bitAt e 0 == 1 && bitsOf e 2 18 == 0 && bitsOf e 52 12 == 0 && !isUncorr s p then some e else none

/-- A walk in an address space; an unbound one answers as a malformed entry, and one whose entry cannot be read as an
uncorrectable entry (R412, R415). -/
def walk (s : State) (x : Walker) (va : Nat) : Walk × List Nat × List WalkEntry :=
  let p := astAddr s x.aspace
  match astEntry s x.aspace with
  | none => if x.aspace != 0 && physPresent s p && isUncorr s p then (.uncorr p, [p], []) else (.malformed, [], [])
  | some e => walkFrom s x va (bitsOf e 20 32 * 2 ^ 20) walkLevels [p] []

/-- A leaf grants an access (R415 item 3). -/
def pteGrants (pte : Nat) (acc : Access) (trapMode : Bool) : Bool :=
  match acc with
  | .read => bitAt pte 2 == 1
  | .write => bitAt pte 3 == 1
  | .atomic => bitAt pte 2 == 1 && bitAt pte 3 == 1
  | .fetch => bitAt pte 4 == 1 && (!trapMode || bitAt pte 5 == 1)

/-- What a translation gives: a physical address, or the outcome of R415. -/
inductive Translation where
  | at (pa : Nat) (pte : Nat)
  /-- cause of the trap an access takes -/
  | fails (cause : Nat)
  | uncorr (p : Nat)
  deriving DecidableEq, Repr

/-- The walkers with some pointers held in place of what they held for the same addresses. -/
def holdPointers (ws ptrs : List WalkEntry) : List WalkEntry :=
  ptrs.foldl (fun ws e => if ws.contains e then ws else
    e :: ws.filter fun w => !(w.module == e.module && w.aspace == e.aspace && w.size == e.size && w.va == e.va)) ws

/-- A cached leaf covers an address. -/
def TlbEntry.covers (t : TlbEntry) (core : Nat) (aspace : BitVec 16) (va : Nat) : Bool :=
  t.core == core && t.aspace == aspace && va / 2 ^ t.size == t.va / 2 ^ t.size

/-- What an access finds at an address: a cached leaf that memory no longer holds, by a choice that is free and one for the
whole of that leaf, or else what memory holds, cached or by a walk (R208, R416, log 9). -/
def lookupVa (s : State) (core : Nat) (aspace : BitVec 16) (va draw : Nat) : Walk × State :=
  let x : Walker := { module := core / 16, aspace := aspace, draw := draw }
  let (w, seen, ptrs) := walk s x va
  let walked := l2Touch (countCorr { s with walks := holdPointers s.walks ptrs } seen) seen .normal .read
  let now := fun t : TlbEntry => decide (w = Walk.leaf t.pte.toNat t.size)
  let held := s.tlb.filter fun t => t.covers core aspace va
  let found := if held.any now then (w, s) else (w, walked)
  match held.find? fun t => !now t with
  | some t => if Config.freeStale draw (t.va / 2 ^ 16) then (Walk.leaf t.pte.toNat t.size, s) else found
  | none => found

/-- The translation an access uses, with the TLB's entry for it. `draw` is the index of its free choices: the accesses
of one instruction share it, so that each page is translated once (R208). -/
def translateVa (s : State) (core : Nat) (aspace : BitVec 16) (va : Nat) (acc : Access) (trapMode : Bool) (draw : Nat) :
    Translation × State :=
  let (w, s) := lookupVa s core aspace va draw
  match w with
  | .notPresent => (.fails (if acc.writes then 0x08 else 0x07), s)
  | .malformed => (.fails 0x09, s)
  | .uncorr p => (.uncorr p, s)
  | .leaf pte size =>
    let e : TlbEntry :=
      { core := core, aspace := aspace, va := va / 2 ^ size * 2 ^ size, size := size, pte := BitVec.ofNat 64 pte }
    let s := if s.tlb.contains e then s else { s with tlb := e :: s.tlb }
    let pa := pteAddr pte + va % 2 ^ size
    if !pteGrants pte acc trapMode then (.fails 0x09, s)
    else if physPresent s pa && (!isHost pa || inHdma s pa) then (.at pa pte, s)
    else (.fails 0x09, s)

/-- Fault service applies to an address space: FS = 1 and a queue (R419). -/
def serviceOn (s : State) (aspace : BitVec 16) : Bool :=
  (match astEntry s aspace with
   | some e => bitAt e 1 == 1
   | none => false) && bitsOf (ctlGet s regFsqbase).toNat 0 5 != 0

/-- The cause an access takes in place of fault service, once the host has answered FAULT or EXHAUSTED for
its page (R420). -/
def answered (c : Ctx) (va : Nat) (acc : Access) : Option Bool :=
  match c.answer with
  | some w => if w.va.toNat / 2 ^ 16 == va / 2 ^ 16 && w.write == acc.writes then w.answer else none
  | none => none

/-- A page-mapped address to its physical address, or the trap of R415 with the given FADDR and FINFO; a
page that is not present may be served first (R419). -/
def translateAt (c : Ctx) (va : Nat) (acc : Access) (faddr : Word) (finfo : Nat) : Op (Nat × Nat) := fun s =>
  let trap (cause : Nat) : Stop := .trap { cause := BitVec.ofNat 8 cause, faddr := faddr, finfo := BitVec.ofNat 64 finfo } false
  match answered c va acc with
  | some true => .error (trap (if acc.writes then 0x08 else 0x07)) s
  | some false => .error (trap 0x13) s
  | none =>
    let draw := c.draw.getD s.free
    let (t, s) := translateVa s c.core (recAspace c.launch) va acc c.trapMode draw
    let s := if c.draw.isSome then s else { s with free := s.free + 1 }
    match t with
    | .at pa pte => .ok (pa, pte) s
    | .uncorr p => .error (trap 0x14) (countUncorr s p)
    | .fails cause =>
      if (cause == 0x07 || cause == 0x08) && c.served && serviceOn s (recAspace c.launch) then
        .error (.service { va := BitVec.ofNat 64 va, write := acc.writes, fetch := acc == .fetch, pin := c.pin } false) s
      else .error (trap cause) s

/-- A range of addresses cut at 64 KiB boundaries, the least page size: starts and lengths. -/
def pagePieces : Nat → Nat → Nat → List (Nat × Nat)
  | 0, _, _ => []
  | k + 1, a, n =>
    let m := min n (2 ^ 16 - a % 2 ^ 16)
    if m = 0 then [] else (a, m) :: pagePieces k (a + m) (n - m)

/-- The pieces of `n` bytes at `a`. -/
def piecesOf (a n : Nat) : List (Nat × Nat) := pagePieces (n / 2 ^ 16 + 2) a n

/-- The physical addresses of pieces of page-mapped memory. -/
def pagePlaces (c : Ctx) (acc : Access) (faddr : Word) (finfo : Nat) : List (Nat × Nat) → Op (List Nat)
  | [] => pure []
  | (a, m) :: rest => do
    let (pa, _) ← translateAt c a acc faddr finfo
    let ps ← pagePlaces c acc faddr finfo rest
    pure ((List.range m).map (pa + ·) ++ ps)

/-- The lowest window address (R155). -/
def windowBase : Nat := 0x00FFFF0000000000

/-- The places of an access of `n` bytes at `va`, checked in the order of R209 and R369: canonical form
and no fetch from a window (R410), window rules, alignment (`bad` when it fails), translation. A range that begins below
the windows and reaches into them has its last bytes in the lowest window. `finfo` is the element's index field; the
window reason joins it. `chunk` says that an atomic access must keep to one chunk (R165). -/
def resolveWith (c : Ctx) (va : Word) (n : Nat) (bad : Bool) (acc : Access) (finfo : Nat) (chunk : Bool := true) :
    Op (List Nat) := do
  let a := va.toNat
  let s ← get
  let low := if isWindow a then 0 else if windowBase < a + n then windowBase - a else n
  if a ≥ 2 ^ 56 || (isWindow a && acc == .fetch) then fault 0x09 va finfo
  else match windowAccess s c (a + low) (n - low) with
    | .error r => fault 0x0A va (finfo + r)
    | .ok ps =>
      if bad || (acc == .atomic && chunk && low == 0 && spansChunk a n) then fault 0x06 va finfo
      else if low == 0 then pure ps
      else do
        let qs ← pagePlaces c acc va finfo (piecesOf a low)
        pure (qs ++ ps)

/-- The places of an access whose address must be a multiple of `align`. -/
def resolve (c : Ctx) (va : Word) (n align : Nat) (acc : Access) (finfo : Nat := 0) : Op (List Nat) :=
  resolveWith c va n (va.toNat % align != 0) acc finfo

end Sys2Proof.Machine
end

