-- ==== Sys2Proof/Machine/Ops.lean ====
section
/-! DEFINITION. The shared operations: registers, switching threads, taking an exception and returning from
it (R424-R435), the end of a task's hold on the machine, record and replay, and scalar memory accesses. -/
namespace Sys2Proof.Machine

/-! ### Registers -/

/-- A scalar register of a thread: s0 reads 0, s62 is hs in trap mode (R75). -/
def regOf (th : Thread) (r : Reg) : Word :=
  if r = 0 then 0 else if r = 62 ∧ th.trap.mode then th.trap.hs else th.sr[r.toNat]

/-- A thread with a scalar register written; a write to s0 is discarded (R75). -/
def setRegOf (th : Thread) (r : Reg) (v : Word) : Thread :=
  if r = 0 then th
  else if r = 62 ∧ th.trap.mode then { th with trap := { th.trap with hs := v } }
  else { th with sr := th.sr.set r.toNat v }

/-- A scalar register of the thread whose turn it is. -/
def getR (s : State) (r : Reg) : Word := regOf s.th r

/-- The package with a scalar register written. -/
def setR (s : State) (r : Reg) (v : Word) : State := { s with th := setRegOf s.th r v }

/-- The package with PC at an address. -/
def setPc (s : State) (pc : Word) : State := { s with th := { s.th with pc := pc } }

/-- The package with PC past `n` bytes (R45). -/
def advance (s : State) (n : Nat) : State := setPc s (s.th.pc + BitVec.ofNat 64 n)

/-- The package with the thread whose turn it is changed. -/
def updTh (s : State) (f : Thread → Thread) : State := { s with th := f s.th }

/-- The package with every thread changed. -/
def updThreads (s : State) (f : Thread → Thread) : State := { s with th := f s.th, parked := s.parked.map f }

/-- Every thread that holds a task. -/
def threads (s : State) : List Thread := (s.th :: s.parked).filter fun t => t.task.isSome

/-- The thread that runs a task. -/
def threadOf (s : State) (id : BitVec 32) : Option Thread := (threads s).find? fun t => t.task == some id

/-- The package with hardware thread `n` at its turn, when it holds a task. -/
def switchTo (s : State) (n : Nat) : Option State :=
  if s.th.id = n ∧ s.th.task.isSome then some s
  else match s.parked.find? fun t => t.id == n with
    | some t =>
      let rest := s.parked.filter fun u => u.id != n
      some { s with th := t, parked := if s.th.task.isSome then rest ++ [s.th] else rest }
    | none => none

/-- The turn passes to the next thread that holds a task (R360, R381). -/
def rotate (s : State) : State :=
  match s.parked with
  | t :: rest => { s with th := t, parked := if s.th.task.isSome then rest ++ [s.th] else rest }
  | [] => s

/-- The threads of a package back in the turn order of another. -/
def reorder (before after : State) : State :=
  let all := (after.th :: after.parked).filter fun t => t.task.isSome
  match all.find? fun t => t.id == before.th.id with
  | none => after
  | some t =>
    let order := before.parked.map Thread.id
    { after with
      th := t
      parked := order.filterMap (fun n => all.find? fun u => u.id == n) ++
        all.filter fun u => u.id != t.id && !order.contains u.id }

/-- An operation on hardware thread `n`, the turn order staying; the package unchanged when the thread holds
no task. -/
def onThread (s : State) (n : Nat) (f : State → State) : State :=
  match switchTo s n with
  | none => s
  | some s1 => reorder s (f s1)

/-- The current free value's index, and the package with the next one (log 1). -/
def nextFree : Op Nat := fun s => .ok s.free { s with free := s.free + 1 }

/-! ### Lane groups of a core (R234-R236) -/

/-- The threads of a core that hold tasks. -/
def coreThreads (s : State) (core : Nat) : List Thread := (threads s).filter fun t => coreOf t == core

/-- Lane groups held on a core. -/
def heldLanes (s : State) (core : Nat) : BitVec 16 :=
  (coreThreads s core).foldl (fun m t => m ||| t.lanes.gmap) 0

/-- Free lane groups of a core. -/
def freeLanes (s : State) (core : Nat) : BitVec 16 := coreLanes s core &&& ~~~ heldLanes s core

/-- How many bits of a lane-group map are 1. -/
def laneCount (m : BitVec 16) : Nat := popCount 16 m.toNat

/-- The threads of a core whose task asks for lane groups (R236). -/
def sharers (s : State) (core : Nat) : Nat :=
  ((coreThreads s core).filter fun t =>
    match t.task.bind (findTask s) with
    | some k => recReq k.launch != 0
    | none => false).length

/-- The equal share of a core (R236). -/
def shareOf (s : State) (core : Nat) : Nat :=
  let p := laneCount (coreLanes s core)
  let m := sharers s core
  if m = 0 then p else p / m

/-- SHARE of a core's threads when the number of those that ask for lane groups is no longer `m`, and SHRINK of those
that hold more than the share while one sleeps (R236). DESIGN CHOICE (log 43): SHRINK, once 1, stays until the thread's next
SETVL is granted, whether or not one still sleeps. -/
def shareLanes (m : Nat) (s : State) (core : Nat) : State :=
  let e := shareOf s core
  let moved := sharers s core != m
  let sleeping := s.sleepers.any fun n => n / 4 == core
  updThreads s fun t =>
    if t.task.isSome && coreOf t == core then
      { t with lanes := { t.lanes with
        share := if moved then BitVec.ofNat 5 e else t.lanes.share
        shrink := t.lanes.shrink || (sleeping && decide (e < laneCount t.lanes.gmap)) } }
    else t

/-! ### Host records and double faults (R434, R435) -/

/-- The little-endian bytes of some doublewords. -/
def dwords (ws : List Nat) : List Byte := ws.flatMap fun w => bytesOfNat 8 w

/-- A 64-byte host record at DFQTAIL, or OVF when the ring has no room or cannot be written (R435). -/
def hostRecord (s : State) (ws : List Nat) : State :=
  let q := (ctlGet s regDfqbase).toNat
  let sz := bitsOf q 0 5
  let tail := (ctlGet s regDfqtail).toNat
  let p := bitsOf q 12 52 * 4096 + 64 * (tail % 2 ^ sz)
  let ps := (List.range 64).map (p + ·)
  if sz = 0 || tail - (ctlGet s regDfqhead).toNat = 2 ^ sz || !ps.all (physPresent s) || (firstUncorr s ps).isSome then
    ctlSet s regDfqstat 1
  else
    let s := l2Touch (writePlaces s .device (placed ps (dwords ws))) ps .normal .write
    raiseMsix (ctlSet s regDfqtail (BitVec.ofNat 64 (tail + 1))) 0

/-- A trap condition met in trap mode: the thread freezes and the host learns of it (R434). -/
def doubleFault (s : State) (t : Trap) (pc2 : Word) : State :=
  let r := s.th.trap
  let s := updTh s fun th => { th with
    trap := { th.trap with frozen := true, cause2 := t.cause, faddr2 := t.faddr }
    wait := none, fsw := none, vfsw := none }
  let id := (s.th.task.getD 0).toNat
  let asp := match curTask s with
    | some k => (recAspace k.launch).toNat
    | none => 0
  hostRecord s [0x16 * 2 ^ 56 + (s.th.id % 256) * 2 ^ 48 + asp * 2 ^ 32 + id, t.cause.toNat * 256 + r.cause.toNat,
    r.faddr.toNat, t.faddr.toNat, r.finfo.toNat, r.tpc.toNat, pc2.toNat, 0]

/-! ### Taking an exception and returning from it (R424-R432) -/

/-- The address VCP names for the first kept entry: a convoy's header (R69, R425). -/
def entryAddr (e : VEntry) : BitVec 56 :=
  if e.conv then e.addr - BitVec.ofNat 56 (4 + 8 * e.member.toNat) else e.addr

/-- VCP of a stopped thread (R425). -/
def vcpOf (th : Thread) : BitVec 56 :=
  match th.viq with
  | e :: _ => entryAddr e
  | [] => th.pc.setWidth 56

/-- TSTATUS at trap entry (Table 14-7): `vside` when the fault is that of kept entry 0. -/
def tstatusOf (th : Thread) (t : Trap) (vside resume : Bool) : BitVec 11 :=
  let head := if vside then th.viq.head? else none
  let conv := match head with
    | some e => e.conv
    | none => t.conv
  let member := if conv then t.member.toNat else 0
  let replay := match head with
    | some e => e.replay
    | none => false
  BitVec.ofNat 11 (member * 256 + resume.toNat * 16 + replay.toNat * 8 + conv.toNat * 4 + vside.toNat * 2)

/-- The VIQ's head is a VCAPP that has reserved ring entries: it runs to completion before any stop (Table 14-6). -/
def appendReserved (th : Thread) : Bool :=
  match th.viq with
  | e :: _ => e.reserved.isSome
  | [] => false

/-- Instructions that a stop abandons when they are in progress: no element of theirs is architectural (Table 14-6). -/
def abandons (i : Instr) : Bool :=
  match i with
  | .vld _ | .vlds _ | .vldx _ | .vldff _ | .vldl _ | .vconfl _ | .vpref _ | .vcapp _ | .lsync _ => true
  | _ => false

/-- The VIQ's head is a bank instruction inside a restart unit: the unit is completed before any stop (R126, R128). -/
def insideUnit (th : Thread) : Bool :=
  match th.viq with
  | e :: _ => e.runs.any PcRun.started
  | [] => false

/-- What is in progress at the VIQ's head comes to its end before the thread stops (Table 14-6). -/
def holdsStop (th : Thread) : Bool := appendReserved th || insideUnit th

/-- An entry after a stop (Table 14-6): one in progress that is abandoned begins again. -/
def stopEntry (e : VEntry) : VEntry :=
  { e with begun := false, els := [], need := none, kv := none, runs := [], restart := if e.begun && abandons e.insn && e.reserved.isNone then 0 else e.restart }

/-- The kept entries of a thread that stops. -/
def stopViq (th : Thread) : Thread := { th with viq := th.viq.map stopEntry }

/-- A thread with the VIQ's head changed. -/
def updHead (f : VEntry → VEntry) (th : Thread) : Thread :=
  match th.viq with
  | e :: rest => { th with viq := f e :: rest }
  | [] => th

/-- The VIQ's head has begun and waits. -/
def beginHead (th : Thread) : Thread := updHead (fun e => { e with begun := true }) th

/-- The entry sequence of R426, at a stop of the thread: TPC is PC, the kept entries are the VIQ. In trap
mode it is a double fault. The stop waits for a VCAPP that has reserved its entries and for a restart unit of a bank
instruction (R126). -/
def takeTrap (s : State) (t : Trap) (vside : Bool) (resume : Bool := false) : State :=
  let s := { s with free := s.free + 1, sleepers := s.sleepers.filter fun n => n != s.th.id }
  if s.th.trap.mode then doubleFault s t s.th.pc
  else if !vside && holdsStop s.th then updTh s fun th => { th with stall := true }
  else
    let s := updTh s fun th => { stopViq th with
      trap := { th.trap with
        mode := true, hs := th.trap.tstack, tstatus := tstatusOf th t vside resume, tpc := th.pc.setWidth 56
        cause := t.cause, faddr := t.faddr, finfo := t.finfo, cause2 := 0, faddr2 := 0, vcp := vcpOf th
        selWord := 0, selEntry := 0 }
      pc := th.trap.tvec.setWidth 64
      wait := none, fsw := none, vfsw := none, stall := false }
    let tvec := s.th.trap.tvec
    if tvec.setWidth 2 = 0 then s
    else doubleFault s { cause := 0x03, faddr := tvec.setWidth 64, finfo := 0 } (tvec.setWidth 64)

/-- A queue without its `n`-th claimed entry. -/
def dropClaimed : Nat → List QEntry → List QEntry
  | _, [] => []
  | n, e :: rest =>
    if e.claimed then (match n with | 0 => rest | k + 1 => e :: dropClaimed k rest) else e :: dropClaimed n rest

/-- The kept entries that TRET posts again, and the queues: an entry whose SKIP is set, or whose convoy's
first member has it set, is dropped with its claim (R431, R432). `skipping` is the convoy in hand. -/
def replayEntries : List VEntry → Bool → Vector (List QEntry) 8 → List VEntry × Vector (List QEntry) 8
  | [], _, q => ([], q)
  | e :: rest, skipping, q =>
    let skip := if e.conv ∧ e.member ≠ 0 then skipping else e.skip
    let (rest', q') := replayEntries rest skip q
    if skip then
      (rest', if e.claimed then q'.set e.queue.toNat (dropClaimed 0 q'[e.queue.toNat]) else q')
    else ({ e with replay := true } :: rest', q')

/-- Where a claim stands: the claims on a queue held by the entries before it come first in the queue, so
a dropped entry's own claim is found by leaving those out. -/
def keptClaims (es : List VEntry) (q : BitVec 3) : Nat := (es.filter fun e => e.claimed && e.queue == q).length

/-- The queues once the dropped entries' claims are consumed (R432). -/
def dropSkipped : List VEntry → List VEntry → Bool → Vector (List QEntry) 8 → Vector (List QEntry) 8
  | [], _, _, q => q
  | e :: rest, before, skipping, q =>
    let skip := if e.conv ∧ e.member ≠ 0 then skipping else e.skip
    if skip then
      let q := if e.claimed then q.set e.queue.toNat (dropClaimed (keptClaims before e.queue) q[e.queue.toNat]) else q
      dropSkipped rest before skip q
    else dropSkipped rest (before ++ [e]) skip q

/-- The thread after TRET: out of trap mode, PC at TPC, the kept entries posted again (R432). -/
def tretThread (th : Thread) : Thread :=
  { th with
    trap := { th.trap with mode := false }
    pc := th.trap.tpc.setWidth 64
    viq := (replayEntries th.viq false th.q).1
    q := dropSkipped th.viq [] false th.q }

/-! ### Engine-held translations and leases -/

/-- The virtual pages a TLBINV request covers hold a page (R417). -/
def tlbCovers (s : State) (aspace : BitVec 16) (va size : Nat) : Bool :=
  let r := (ctlGet s regTlbinv).toNat
  match bitsOf r 48 2 with
  | 0 =>
    let lo := bitsOf s.invVa.toNat 16 40 * 2 ^ 16
    bitsOf r 32 16 == aspace.toNat && va < lo + bitsOf r 0 32 * 2 ^ 16 && lo < va + size
  | 1 => bitsOf r 32 16 == aspace.toNat
  | 2 => true
  | _ => false

/-- The tasks whose leases pin a page a TLBINV request covers. -/
def tlbHolders (s : State) : List (BitVec 32) :=
  (s.tasks.filter fun t => t.lease.active && t.lease.pins.any fun p =>
    tlbCovers s (recAspace t.launch) p.va.toNat (2 ^ 21)).map Task.id

/-- HELD and TLBHOLD of a request in progress follow the leases that hold it (R417). -/
def tlbRecheck (s : State) : State :=
  let r := (ctlGet s regTlbinv).toNat
  if bitAt r 63 = 0 then s
  else match tlbHolders s with
    | [] => ctlSet (ctlSet s regTlbinv (BitVec.ofNat 64 (putBits r 62 1 0))) regTlbhold 0
    | t :: _ => ctlSet (ctlSet s regTlbinv (BitVec.ofNat 64 (putBits r 62 1 1))) regTlbhold (t.setWidth 64)

/-- A dispatcher round is to take place (R400). -/
def ringRound (s : State) (m : Nat) : State :=
  let t : Turn := .event (.dispatchRound (BitVec.ofNat 2 m))
  if s.agenda.contains t then s else { s with agenda := s.agenda ++ [t] }

/-- A task's lease ends, and a revocation of it: its pages are unpinned and its pseudo-channels free (R110, R132). -/
def endLease (s : State) (id : BitVec 32) : State :=
  match findTask s id with
  | some t =>
    if t.lease.active then
      let s := { s with revoking := s.revoking.filter fun x => x.1 != id }
      tlbRecheck (ringRound (updTask s id fun t => { t with lease := {} }) (t.lease.p0 / 128))
    else s
  | none => s

/-- A revocation takes effect: REV is set and the pages are unpinned (R111, R112). -/
def revokedLease (s : State) (k : BitVec 32) : State :=
  tlbRecheck (updTask s k fun t => { t with lease := { t.lease with rev := true, pins := [] } })

/-- A pseudo-channel is at a boundary: revocations that waited for it alone take effect (R111). -/
def reachBoundary (s : State) (p : Nat) : State :=
  let left := s.revoking.filter fun x => x.2 != p
  let done := ((s.revoking.filter fun x => x.2 == p).map Prod.fst).filter fun k => !left.any fun x => x.1 == k
  done.foldl revokedLease { s with revoking := left }

/-! ### The end of a task (R382, R394, R397) -/

/-- A thread without its task: its stores are performed and none of them can be missed any more, nor what it has found; those
that cannot be performed yet wait under the task's name (log 14). -/
def freeThread (s : State) (id : BitVec 32) : State :=
  match threadOf s id with
  | none => s
  | some t =>
    let core := coreOf t
    let m := sharers s core
    let s := publishBy t true (performAllOf s t.id)
    let s := { s with
      th := if s.th.task == some id then { id := s.th.id } else s.th
      parked := s.parked.filter fun u => u.task != some id
      sleepers := s.sleepers.filter fun n => n != t.id }
    ringRound (shareLanes m (renameStores t.id (savedKey id) s) core) (moduleOf core)

/-- The status a gang ends with: that of its lowest-ranked member that did not end OK (R394). -/
def gangStatus (ts : List Task) : BitVec 7 :=
  ts.foldr (fun t st => match t.status with
    | .ended e => if e = 0 then st else e
    | _ => st) 0

/-- The end of R394 begins once every member has ended: the successors' countdown is to follow. -/
def beginEnding (s : State) (t : Task) : State :=
  let ms := (gangOf s t.base).mergeSort fun a b => a.rank ≤ b.rank
  let allEnded := ms.all fun m => match m.status with
    | .ended _ => true
    | _ => false
  if allEnded then
    let e : Ending :=
      { key := s.nextKey, id := t.base, launch := t.launch, status := gangStatus ms
        core := (ms.head?.map Task.core).getD t.core, queue := t.queue, qpos := t.qpos }
    { s with endings := s.endings ++ [e], nextKey := s.nextKey + 1 }
  else s

/-- A task's status is its last; the end of R394 begins with its gang's last member. -/
def closeTask (s : State) (id : BitVec 32) (status : BitVec 7) : State :=
  let core := (threadOf s id).map coreOf
  let s := updTask s id fun t => { t with status := .ended status, core := core.getD t.core, pend := false, graceOut := false }
  match findTask s id with
  | some t => beginEnding s t
  | none => s

/-- A task ends at HALT: its VIQ, thread, lane groups and lease go at once, its allotments at the end of
R394 (R382). -/
def endTask (s : State) (id : BitVec 32) (status : BitVec 7) : State :=
  let s := closeTask s id status
  endLease (freeThread s id) id

/-- A thread whose task has been retired holds nothing that runs. -/
def silence (th : Thread) : Thread :=
  { th with viq := [], wait := none, fsw := none, vfsw := none, stall := false, yielded := false }

/-- A task is retired: its VIQ is discarded, and it keeps its thread, lane groups and lease until the last
step of R394 (R397). -/
def retireTask (s : State) (id : BitVec 32) (status : BitVec 7) : State :=
  let n := (threadOf s id).map Thread.id
  let s := closeTask s id status
  let quiet := fun th : Thread => if th.task == some id then silence th else th
  { updThreads s quiet with sleepers := s.sleepers.filter fun k => some k != n }

/-! ### Running an operation as an instruction -/

/-- What of an abandoned operation stays: the free values it used, the lines its L2 took and the counts of its transfers
with host memory (R421), the lines it waits for (R346), and the rows it has activated (R129). -/
def backOut (before after : State) : State :=
  let s := { before with
    th := { before.th with order := { before.th.order with awaited := after.th.order.awaited, rows := after.th.order.rows } }
    free := after.free, l2 := after.l2 }
  (after.hostFills.drop before.hostFills.length).foldl hostTransfer s

/-- What of an operation that ends in a trap stays beside: the error counts it met, and the translations it found (R100, R101,
R416). -/
def rollback (before after : State) : State :=
  let s := ctlSet (ctlSet before regMerr (ctlGet after regMerr)) regMelast (ctlGet after regMelast)
  backOut { s with tlb := after.tlb, walks := after.walks } after

/-- The state a trapped operation stopped in, as R8 leaves it. -/
def stoppedState (before after : State) (kept : Bool) : State := if kept then after else rollback before after

/-- The state an operation waits in: it is tried again from its start, and what it read is read then (R100, R101). -/
def waitingState (before after : State) (kept : Bool) : State := if kept then after else backOut before after

/-- A wait for fault service that begins or goes on: a wait for the same page keeps its record (R419). -/
def joinService (v : Option FsWait) (w : FsWait) : Option FsWait :=
  match v with
  | some v =>
    if v.va.toNat / 2 ^ 16 = w.va.toNat / 2 ^ 16 ∧ v.write = w.write ∧ v.answer = none then some v else some w
  | none => some w

/-- A thread that waits for fault service, its scalar side or its VIQ's head. -/
def beginService (vside : Bool) (th : Thread) (w : FsWait) : Thread :=
  if vside then { beginHead th with vfsw := joinService th.vfsw w } else { th with fsw := joinService th.fsw w, stall := true }

/-- A thread whose operation went on. -/
def wentOn (vside : Bool) (th : Thread) : Thread :=
  if vside then { th with vfsw := none } else { th with stall := false, fsw := none }

/-- The package after an operation of an instruction: a trap is taken, a wait marks the thread; `vside`
when the instruction is the VIQ's head. -/
def settle (vside : Bool) (s : State) (r : EStateM.Result Stop State Unit) : State :=
  match r with
  | .ok _ s' => updTh s' (wentOn vside)
  | .error (.trap t kept) s' => takeTrap (stoppedState s s' kept) t vside
  | .error (.wait kept) s' => updTh (waitingState s s' kept) fun th => if vside then beginHead th else { th with stall := true }
  | .error (.service w kept) s' => updTh (waitingState s s' kept) fun th => beginService vside th w
  | .error .more s' => updTh s' fun th => beginHead (wentOn vside th)

/-- A scalar instruction: its operation, with its trap, wait or next state. -/
def scalarStep (m : Op Unit) (s : State) : Host.Outcome State Fault Refusal := .next (settle false s (m s))

/-! ### Record and replay (R462, R463) -/

/-- Some bytes of a replay buffer: what they hold, and their places. An error of theirs is counted, and no byte of the
word is used (R100, R101). -/
def replayRead (c : Ctx) (a : Word) (n : Nat) : Op (List Nat × List Byte) := do
  let ps ← resolve { c with served := false } a n 8 .write
  forceStores fun x => x.meets ps
  checkWords ps a 0
  let s ← get
  set (l2Touch s ps .normal .read)
  pure (ps, ps.map (memByte s))

/-- Bytes of a replay buffer written. -/
def replayWrite (ps : List Nat) (bs : List Byte) (s : State) : State :=
  l2Touch (writePlaces s .device (placed ps bs)) (ps.take bs.length) .normal .write

/-- The replay-buffer header of a task: places of its first doublewords, its mode word, SIZE and USED. -/
def replayHead (c : Ctx) (a : Word) : Op (List Nat × Nat × Nat × Nat) := do
  let (ps, bs) ← replayRead c a 64
  pure (ps, dwordOf bs 0, dwordOf bs 1, dwordOf bs 2)

/-- Where a member's replay buffer lies: RPL + r·SIZE, SIZE read from the first (R462). -/
def replayBase (c : Ctx) : Op Word := do
  if c.rank = 0 then pure (recRpl c.launch)
  else
    let (_, _, size, _) ← replayHead c (recRpl c.launch)
    pure (recRpl c.launch + BitVec.ofNat 64 (c.rank * size))

/-- A logged event: recorded with its value, or replaced by the next entry's value, `mask` bits of its second word (R462,
R463). A full buffer ends the recording, and an event that no entry is left for takes its own value. -/
def logBody (c : Ctx) (kind : Nat) (addr value : Word) (mask : Nat) : Op Word := do
  let base ← replayBase c
  let (ps, mode, size, used) ← replayHead c base
  let entry := BitVec.ofNat 64 (used + (if used < 64 then 64 else 0))
  let first := kind * 2 ^ 56 + addr.toNat % 2 ^ 56
  let used' := bytesOfNat 8 (entry.toNat + 16)
  if bitAt mode 2 = 1 || (bitAt mode 0 = 0 && bitAt mode 1 = 1) then pure value
  else if entry.toNat + 16 > size then
    if bitAt mode 0 = 0 then modify (replayWrite (ps.take 8) (bytesOfNat 8 (putBits mode 1 1 1)))
    pure value
  else if bitAt mode 0 = 0 then
    let es ← resolve { c with served := false } (base + entry) 16 8 .write
    modify fun s => replayWrite ((ps.drop 16).take 8) used' (replayWrite es (dwords [first, value.toNat]) s)
    pure value
  else
    let (_, bs) ← replayRead c (base + entry) 16
    if dwordOf bs 0 = first then
      modify (replayWrite ((ps.drop 16).take 8) used')
      pure (BitVec.ofNat 64 (value.toNat / 2 ^ mask * 2 ^ mask + dwordOf bs 1 % 2 ^ mask))
    else
      modify fun s => { replayWrite (ps.take 8) (bytesOfNat 8 (putBits mode 2 1 1)) s with
        agenda := .retire c.task :: s.agenda }
      pure value

/-- A nondeterministic input of a task that records or replays; `mask` is the width of the value within
the entry's second word (R462). -/
def logEvent (kind : Nat) (addr value : Word) (mask : Nat := 64) : Op Word := fun s =>
  let c := curCtx s
  if !recRecord c.launch then .ok value s
  else match logBody c kind addr value mask s with
    | .ok v s' => .ok v s'
    | .error _ s' => .ok value (rollback s s')

/-- A place lies in a line whose last write came from the host or a peer (R462). -/
def fromOutside (s : State) (ps : List Nat) : Bool :=
  !s.hostLines.isEmpty && ps.any fun p => s.hostLines.contains (p / 128 * 128)

/-- A queue load of the thread has yet to read an element. -/
def fillsPending (th : Thread) : Bool := th.q.toList.any fun q => q.any fun e => !e.src.isEmpty

/-- The thread's task records or replays its inputs (R462). -/
def recording (s : State) : Bool := recRecord (curCtx s).launch

/-- An event of a vector instruction is logged after the queue loads before it have read their elements (R462). -/
def awaitLogged : Op Unit := fun s => if recording s && fillsPending s.th then .error (.wait false) s else .ok () s

/-- A vector instruction whose performance can log an event (Table 15-9). -/
def logsEvents (i : Instr) : Bool :=
  match i with
  | .vld _ | .vlds _ | .vldx _ | .vldff _ | .vamoadd _ | .vamomax _ | .vamomin _ | .vamoxchg _ => true
  | _ => false

/-- An event of the scalar side is logged after the queue loads before it have read their elements, and outside trap mode,
where kept entries come later, after every vector instruction before it that logs (R462). What logs nothing is not waited for
(R463). -/
def awaitLog : Op Unit := fun s =>
  if recording s && (fillsPending s.th || (!s.th.trap.mode && s.th.viq.any fun e => logsEvents e.insn)) then .error (.wait false) s
  else .ok () s

/-- An event of the scalar side. -/
def logScalar (kind : Nat) (addr value : Word) : Op Word := do
  awaitLog
  logEvent kind addr value

/-- The value of a scalar load, logged when a line it reads was last written from outside (R462). -/
def logLoad (ps : List Nat) (value : Word) : Op Word := fun s =>
  if fromOutside s ps then logScalar 0x03 s.th.pc value s else .ok value s

/-- An element's value, logged under its index (Table 15-9). -/
def logElem (kind : Nat) (pc : Word) (e value : Nat) : Op Nat := do
  let v ← logEvent kind pc (BitVec.ofNat 64 (e * 2 ^ 32 + value)) 32
  pure (v.toNat % 2 ^ 32)

/-! ### Scalar memory accesses (R368-R372) -/

/-- A scalar store or atomic, and with it a release, is performed only after every earlier load: it waits for
the queue loads whose fills have yet to read (R213 item 4, R340). -/
def awaitFills : Op Unit := fun s => if fillsPending s.th then .error (.wait false) s else .ok () s

/-- A later access to some places follows the thread's queue loads that have yet to read them (R197, R340). -/
def awaitFillsOf (ps : List Nat) : Op Unit := fun s =>
  if s.th.q.toList.any fun q => q.any fun e => e.src.any fun el => el.ps.any (ps.contains ·) then .error (.wait false) s
  else .ok () s

/-- `n` bytes at an address as a number, with the places and the moment: a scalar load by R369. -/
def loadAt (va : Word) (n : Nat) : Op (Word × List Nat × Nat) := do
  let s ← get
  let ps ← resolve (curCtx s) va n n .read
  awaitFillsOf ps
  let (bs, m) ← readScalar true (accessUnits va ps) va 0
  let v ← logLoad ps (BitVec.ofNat 64 (natOfBytes bs))
  pure (v, ps, m)

/-- `n` bytes at an address as a number. -/
def loadScalar (va : Word) (n : Nat) : Op Word := do
  let (v, _, _) ← loadAt va n
  pure v

/-- The doubleword at an address, acquired at a scope (R370). -/
def loadAcquire (va : Word) (scope : BitVec 3) : Op Word := do
  let (v, ps, m) ← loadAt va 8
  acquire scope ps m
  pure v

/-- The low `n` bytes of a value to an address: a scalar store by R369, a release at a scope for SDRL (R370). -/
def storeScalar (va : Word) (n : Nat) (v : Word) (release : Option (BitVec 3) := none) : Op Unit := do
  let s ← get
  let ps ← resolve (curCtx s) va n n .write
  awaitFills
  awaitLines ps
  if release.isSome then modify (publish false)
  commitUnits none release ((accessUnits va ps).map List.length) (byteWrites (placed ps (bytesOfNat n v.toNat)))

/-- The places of an atomic written: the marks of releases it continues stay (R339), and the writer's own L1 copy is
updated (R371). -/
def rmwBytes (ps : List Nat) (bs : List Byte) : Op Unit :=
  modify fun s =>
    let t := l2Touch (writePlaces s .device (placed ps bs)) ps .normal .write
    { seeOwn false ps t with
      marks := (continueMarks s t).marks, l1d := s.l1d.filter fun l => l.core == coreOf s.th || t.l1d.contains l }

/-- The release half of an atomic: the thread's earlier scalar stores are left to a mark, which its acquires meet (R338,
R339). -/
def releaseAtomic (ps : List Nat) (scope : BitVec 3) : Op Unit :=
  modify fun s =>
    let s := publish false s
    if s.pending.any fun x => x.thread == s.th.id && scalarStore x then
      { s with
        nextStore := s.nextStore + 1
        marks := s.marks ++ [{ places := ps, agent := .thread s.th.id, thread := s.th.id, scope := scope
                               serial := s.nextStore, at' := s.now + 1 }] }
    else s

/-- One read-modify-write of the doubleword at an address, giving its old value, with its order (bit 0 acquires, bit 1
releases) at a scope (R371, R372). It acquires what it reads, and not its own release. -/
def atomicScalar (va : Word) (scope : BitVec 3) (order : BitVec 2) (f : Word → Word) : Op Word := do
  let s ← get
  let ps ← resolve (curCtx s) va 8 8 .atomic
  awaitFills
  let bs ← readHome ps va 0
  let read ← get
  if order.getLsbD 1 then releaseAtomic ps scope
  let old ← logScalar 0x01 s.th.pc (BitVec.ofNat 64 (natOfBytes bs))
  rmwBytes ps (bytesOfNat 8 (f old).toNat)
  if order.getLsbD 0 then acquire scope ps read.now
  pure old

/-! ### Fetch (R45, R46, R101, R154, R410) -/

/-- A core's L1 instruction cache with a line used last; a ninth line of its set takes the place of the least recently
used (R152, log 16). -/
def icUse (ls : List IcLine) (l : IcLine) : List IcLine :=
  let rest := ls.filter fun x => !(x.core == l.core && x.pa == l.pa)
  let mine := rest.filter fun x => x.core == l.core && l1Set x.pa == l1Set l.pa
  if mine.length < 8 then l :: rest
  else match mine.getLast? with
    | some v => l :: rest.filter fun x => !(x.core == v.core && x.pa == v.pa)
    | none => l :: rest

/-- The 32 parcels of a line as memory holds them, but for those of uncorrectable words. -/
def lineParcels (s : State) (line : Nat) : List (Option Parcel) :=
  (List.range 32).map fun i =>
    if isUncorr s (line + 4 * i) then none else some (BitVec.ofNat 32 (natOfBytes (memBytes s (line + 4 * i) 4)))

/-- The parcel an L1 instruction cache serves: the copy it holds, which may be older than memory by a free choice
(R154, log 9). -/
def heldParcel (l : IcLine) (i : Nat) (now : Parcel) : Op (Option Parcel) :=
  match (l.parcels.getD i none) with
  | none => pure none
  | some x =>
    if x == now then pure (some x)
    else do
      let k ← nextFree
      pure (if Config.freeBit k then some x else none)

/-- One parcel at an address, from the core's L1 instruction cache or through the home of its line, which the cache
then holds (R101, R152, R154). -/
def fetchParcel (va : Word) : Op Parcel := do
  let s ← get
  let c := curCtx s
  let ps ← resolve c va 4 4 .fetch
  let pa := ps.headD 0
  let line := pa / 128 * 128
  let i := pa % 128 / 4
  awaitPlaces ps
  let s ← get
  let now := BitVec.ofNat 32 (natOfBytes (ps.map (memByte s)))
  let l := s.l1i.find? fun l => l.core == c.core && l.pa == line
  let held ← match l with
    | some l => heldParcel l i now
    | none => pure none
  match held, l with
  | some x, some l => do
    modify fun s => { s with l1i := icUse s.l1i l }
    pure x
  | _, _ => do
    checkWords ps va 0
    let s ← get
    let s := l2Touch s ps .normal .read
    let parcels := match l with
      | some l => l.parcels.set i (some now)
      | none => lineParcels s line
    set { s with l1i := icUse s.l1i { core := c.core, pa := line, parcels := parcels } }
    pure now

/-- `n` parcels from an address on. -/
def fetchParcels (va : Word) : Nat → Op (List Parcel)
  | 0 => pure []
  | n + 1 => do
    let p ← fetchParcel va
    let ps ← fetchParcels (va + 4) n
    pure (p :: ps)

/-- An illegal instruction: cause 0x01 with its parcels in FINFO (Table 14-19). -/
def illegal {α : Type} (pc : Word) (first second : Nat) (member : Option Nat := none) : Op α :=
  throw (.trap
    { cause := 0x01, faddr := pc, finfo := BitVec.ofNat 64 (first + second * 2 ^ 32), conv := member.isSome
      member := BitVec.ofNat 3 (member.getD 0) } false)

/-- The instruction at PC, or the trap of its fetch or of its encoding (R45, R46, R66, R71). -/
def fetchInstr : Op Instr := do
  let s ← get
  let pc := s.th.pc
  let w ← fetchParcel pc
  if w.getLsbD 0 && pc.toNat % 8 == 4 then illegal pc w.toNat 0
  else
    let n := parcelCount w - 1
    let rest ← if isConvoyHeader w && pc.toNat % 8 != 4 then pure [] else fetchParcels (pc + 4) n
    if isConvoyHeader w && pc.toNat % 8 != 4 then illegal pc w.toNat 0 (some 0)
    else match decode (w :: rest) with
    | .ok i => pure i
    | .error .header => illegal pc w.toNat 0 (some 0)
    | .error (.member m) => illegal pc w.toNat 0 (some m)
    | .error _ => illegal pc w.toNat (if w.getLsbD 0 then (rest.headD 0).toNat else 0)

end Sys2Proof.Machine
end

