-- ==== Sys2Proof/Machine/Reach.lean ====
section
/-! DEFINITION. Memory as the engines, the save sequencer and the dispatchers reach it: byte by byte, an
address that cannot be reached being an outcome and no trap (R174, R394, R441). -/
namespace Sys2Proof.Machine

/-- One byte of a range: its place, or the cause of Table 14-19 that stands against it. -/
abbrev Reached := Except Nat Nat

/-- The place of a byte that was reached. -/
def Reached.place (r : Reached) : Option Nat :=
  match r with
  | .ok p => some p
  | .error _ => none

/-- The bytes of a piece within one page. -/
def reachPiece (c : Ctx) (acc : Access) (a m : Nat) (s : State) : List Reached × State :=
  if a ≥ 2 ^ 56 then (List.replicate m (.error 0x09), s)
  else if isWindow a then
    ((List.range m).map fun i => match windowByte s c a i with
      | .ok p => .ok p
      | .error _ => .error 0x0A, s)
  else match translateVa s c.core (recAspace c.launch) a acc c.trapMode (c.draw.getD s.free) with
    | (.at pa _, s) => ((List.range m).map fun i => .ok (pa + i), { s with free := s.free + 1 })
    | (.fails e, s) => (List.replicate m (.error e), { s with free := s.free + 1 })
    | (.uncorr p, s) => (List.replicate m (.error 0x14), countUncorr { s with free := s.free + 1 } p)

/-- The pieces of a range, cut where the windows begin as well (R155). -/
def reachSplit (a n : Nat) : List (Nat × Nat) :=
  if a < windowBase ∧ windowBase < a + n then piecesOf a (windowBase - a) ++ piecesOf windowBase (a + n - windowBase)
  else piecesOf a n

/-- The bytes of some pieces. -/
def reachPieces (c : Ctx) (acc : Access) : List (Nat × Nat) → State → List Reached × State
  | [], s => ([], s)
  | (a, m) :: rest, s =>
    let (xs, s) := reachPiece c acc (a % 2 ^ 64) m s
    let (ys, s) := reachPieces c acc rest s
    (xs ++ ys, s)

/-- The bytes of a range of `n` at an address. -/
def reachBytes (c : Ctx) (acc : Access) (va : Word) (n : Nat) (s : State) : List Reached × State :=
  reachPieces c acc (reachSplit va.toNat n) s

/-- The places of a range when every byte is reached. -/
def allPlaces (rs : List Reached) : Option (List Nat) := rs.mapM Reached.place

/-- The places among some bytes that are reached. -/
def somePlaces (rs : List Reached) : List Nat := rs.filterMap Reached.place

/-- An access to some places would wait (R86, R175). -/
def mustWait (s : State) (ps : List Nat) : Bool :=
  match awaitOwned ps s with
  | .ok _ _ => false
  | .error _ _ => true

/-- Window storage with a range at 0: its errors end (R102, R398). -/
def zeroRange (s : State) (p n : Nat) : State :=
  let keep := fun a : Nat => decide (a < p) || decide (p + n ≤ a)
  { s with
    mem := s.mem.filter fun c => keep c.1, uncorr := s.uncorr.filter keep, corr := s.corr.filter keep
    hostLines := s.hostLines.filter keep }

/-- A read of some places that are all reached, what commands have yet to write there being performed first: none when a
word of them is uncorrectable. -/
def quietRead (ps : List Nat) (s : State) : Option (List Byte) × State :=
  let s := performUnits (fun x => x.meets ps) s
  (if (firstUncorr s ps).isSome then none else some (ps.map (memByte s)), countRead s ps)

/-- A read of some reached places by an agent that is no thread and no engine, counted, after what commands have yet to write
there (R100, R101, R148, R421). -/
def quietTouch (ps : List Nat) (s : State) : State :=
  l2Touch (countRead (performUnits (fun x => x.meets ps) s) ps) ps .normal .peek

/-- How a slot is written: the class its line takes, whether its reader sets a used bit, and the command and scope that
release through it (R148, R173). -/
structure SlotBy where
  cls : L2Class := .normal
  use : L2Use := .peek
  release : Option (Agent × Nat × BitVec 3) := none

/-- A completion-slot write (R173, Table 6-3): one read-modify-write of an aligned 8-byte word. A slot that is
misaligned or not reached is counted; an uncorrectable one is written whole in window storage, and discarded elsewhere. The
read counts its errors, an uncorrectable word of device memory with the write (R100-R102, R162). -/
def writeSlot (c : Ctx) (slot : Word) (status count : Nat) (s : State) (how : SlotBy := {}) : State :=
  let (rs, s) := reachBytes c .atomic slot 8 s
  match (if slot.toNat % 8 = 0 then allPlaces rs else none) with
  | none => gerrCount s
  | some ps =>
    let s := l2Touch (performUnits (fun x => x.meets ps) s) ps how.cls how.use
    let bad := (firstUncorr s ps).isSome
    let old := natOfBytes (ps.map (memByte s))
    let tag := if bad then 1 else bitsOf old 40 16 + 1
    let w := 2 ^ 63 + status % 2 ^ 7 * 2 ^ 56 + tag % 2 ^ 16 * 2 ^ 40 + count % 2 ^ 40
    let s := ((badWords s ps).filter fun p => !isDevice p).foldl countUncorr (countCorr s ps)
    let s := l2Touch (writePlaces s .device (placed ps (bytesOfNat 8 w))) ps how.cls .write
    match how.release with
    | some (a, key, scope) => if bad && ps.any isDevice then s else markCommand ps a key scope s
    | none => s

end Sys2Proof.Machine
end

