-- ==== Sys2Proof/Machine/Flags.lean ====
section
/-! DEFINITION. Rounding (R32-R35), the generator of stochastic rounding (R37, R38), and the sticky flags
of SFLAGS (R42, R43). -/
namespace Sys2Proof.Machine

/-! ### SFLAGS (Table 1-14) -/

/-- SFLAGS.SAT -/
def flagSat : Nat := 1
/-- SFLAGS.INVAL -/
def flagInval : Nat := 2
/-- SFLAGS.UFLOW -/
def flagUflow : Nat := 4
/-- SFLAGS.OVF -/
def flagOvf : Nat := 8

/-- A thread whose SFLAGS has the given events ORed in (R43). -/
def orFlags (th : Thread) (f : Nat) : Thread :=
  { th with csr := { th.csr with sflags := th.csr.sflags ||| BitVec.ofNat 64 (f % 16) } }

/-- A flag when a condition holds. -/
def flagIf (b : Bool) (f : Nat) : Nat := if b then f else 0

/-- The events of several elements together. -/
def joinFlags (fs : List Nat) : Nat := fs.foldl Nat.lor 0

/-- sat(y, n, s) and SFLAGS.SAT when it changed y (R245). -/
def satFlag (y : Int) (n : Nat) (signed : Bool) : Int × Nat :=
  let z := satInt y n signed
  (z, flagIf (z != y) flagSat)

/-! ### Rounding -/

/-- The modes of Table 1-8. -/
inductive Rounding where
  | rne | rtz | rup | rdn | rna | sr
  deriving DecidableEq, Repr

/-- The mode of a code; DYN reads the RMODE that travelled with the instruction (R35). DESIGN CHOICE (log 25): a
travelling RMODE of 6 or 7, which VIQDAT can write, rounds as RNE. -/
def roundingOf (code rmode : Nat) : Rounding :=
  match if code = 7 then rmode else code with
  | 1 => .rtz
  | 2 => .rup
  | 3 => .rdn
  | 4 => .rna
  | 5 => .sr
  | _ => .rne

/-- The magnitude is rounded up: Table 1-9 with rem = r / d, `odd` the parity of n0 and x the generator
output. -/
def roundsUp (m : Rounding) (neg odd : Bool) (r d x : Nat) : Bool :=
  match m with
  | .rne => decide (2 * r > d) || (decide (2 * r = d) && odd)
  | .rna => decide (2 * r ≥ d) && decide (r > 0)
  | .rtz => false
  | .rup => decide (r > 0) && !neg
  | .rdn => decide (r > 0) && neg
  | .sr => decide (r * 2 ^ 16 / d + x % 2 ^ 16 ≥ 2 ^ 16)

/-- The magnitude num / d rounded to an integer. -/
def roundMag (m : Rounding) (neg : Bool) (num d x : Nat) : Nat :=
  num / d + (roundsUp m neg (num / d % 2 == 1) (num % d) d x).toNat

/-- v / 2^n rounded to an integer (R33); for n below 0 the result is exact. -/
def roundShift (m : Rounding) (v : Int) (n : Int) (x : Nat) : Int :=
  if n ≤ 0 then v * (2 : Int) ^ (-n).toNat
  else
    let q := roundMag m (decide (v < 0)) v.natAbs (2 ^ n.toNat) x
    if v < 0 then -(q : Int) else (q : Int)

/-! ### The generator (R37) -/

/-- b rotated left by n within 32 bits. -/
def rotl32 (b n : Nat) : Nat := (b * 2 ^ n + b / 2 ^ (32 - n)) % 2 ^ 32

/-- One step of the generator on (a, b). -/
def genStep (s : Nat × Nat) (n : Nat) : Nat × Nat :=
  let a := (s.1 + s.2) % 2 ^ 32
  (a, Nat.xor (rotl32 s.2 n) a)

/-- The generator's output for key K, counter C, stream S and element e. -/
def generator (key : Word) (c : Nat) (stream e : Nat) : Nat :=
  let a := Nat.xor (bitsOf key.toNat 0 32) c
  let b := Nat.xor (bitsOf key.toNat 32 32) (stream % 256 * 2 ^ 24 + e % 2 ^ 14)
  let (a, b) := [13, 17, 5, 9].foldl genStep (a, b)
  Nat.xor a b

/-! ### Conditions -/

/-- The condition of a compare's fn4: EQ, NE, LT, LE, GT, GE (R253). -/
def compares (cc : Nat) (a b : Int) : Bool :=
  match cc with
  | 0 => decide (a = b)
  | 1 => decide (a ≠ b)
  | 2 => decide (a < b)
  | 3 => decide (a ≤ b)
  | 4 => decide (a > b)
  | _ => decide (a ≥ b)

end Sys2Proof.Machine
end

