-- ==== Sys2Proof/Machine/Operands.lean ====
section
/-! DEFINITION. The operands of vector instructions: elements of lower registers, masks and scales in the
lane groups a thread holds (R228-R232), the four forms of a second source (R58, R245), the modifiers of
ext16 (Tables 2-6, 8-5), and the write of results with tail and flags. -/
namespace Sys2Proof.Machine

/-! ### Positions (R230) -/

/-- The physical position of element `e` of a thread with the given lane groups: the j-th group holds
element group j. Positions past VLMAX fall on the position 16384, which nothing reads. -/
def posOf (gmap : BitVec 16) (e : Nat) : Nat :=
  match (onesBelow 16 gmap.toNat)[e / 1024]? with
  | some h => 1024 * h + e % 1024
  | none => 16384

/-- VLMAX (Table 8-3). -/
def vlmaxOf (l : Lanes) : Nat := 1024 * laneCount l.gmap

/-- The 16 planes of element `e` of register `r`. -/
def planesOf (l : Lanes) (r e : Nat) : Nat := (smGet l.v (16384 * r + posOf l.gmap e)).toNat

/-- Element `e` of register `r` at width `w`; a pair above 16 bits (R228). -/
def elemOf (l : Lanes) (r w e : Nat) : Nat :=
  if w ≤ 16 then planesOf l r e % 2 ^ w
  else planesOf l r e + 2 ^ 16 * (planesOf l (r + 1) e % 2 ^ (w - 16))

/-- A register with planes 0 to w-1 of one element written; the planes above keep their values (R228). -/
def setPlanes (l : Lanes) (r w e x : Nat) : Lanes :=
  if e < vlmaxOf l then
    { l with v := smSet l.v (16384 * r + posOf l.gmap e) (BitVec.ofNat 16 (putBits (planesOf l r e) 0 (min w 16) x)) }
  else l

/-- An element written at width `w`, across the pair above 16 bits (R228). -/
def setElem (l : Lanes) (r w e x : Nat) : Lanes :=
  if w ≤ 16 then setPlanes l r w e x
  else setPlanes (setPlanes l r 16 e x) (r + 1) (w - 16) e (x / 2 ^ 16)

/-- Bit `e` of mask register `k`. -/
def maskBit (l : Lanes) (k e : Nat) : Bool := smGet l.k (16384 * k + posOf l.gmap e)

/-- A mask register with bit `e` written. -/
def setMaskBit (l : Lanes) (k e : Nat) (b : Bool) : Lanes :=
  if e < vlmaxOf l then { l with k := smSet l.k (16384 * k + posOf l.gmap e) b } else l

/-- The scale byte of block `n` of register `r` (R229). -/
def scaleOf (l : Lanes) (r n : Nat) : Nat := (smGet l.z (1024 * r + posOf l.gmap (16 * n) / 16)).toNat

/-- A scale companion with the byte of block `n` written. -/
def setScale (l : Lanes) (r n x : Nat) : Lanes :=
  if 16 * n < vlmaxOf l then { l with z := smSet l.z (1024 * r + posOf l.gmap (16 * n) / 16) (BitVec.ofNat 8 x) } else l

/-! ### What a vector-class instruction runs with -/

/-- An entry being performed: its travelling values, its fields, the lanes its vector sources are read from, and
what a forward-only member before it gives: the register it would have written, and the lanes with that result (R68). -/
structure VCtx where
  e : VEntry
  f : W64
  src : Lanes
  fwd : Option (Reg × Lanes) := none
  deriving DecidableEq, Repr

/-- The lanes a source that names a register is read from (R68). -/
def srcLanes (c : VCtx) (r : Reg) : Lanes :=
  match c.fwd with
  | some (v, l) => if r = v then l else c.src
  | none => c.src

/-- Modifiers of ext16 outside form 10; 0 in form 10 (Table 2-6, R244). -/
def ext (c : VCtx) (lo w : Nat) : Nat := if c.f.form = 2 then 0 else bitsOf c.f.x16.toNat lo w

/-- U = 1. -/
def extU (c : VCtx) : Bool := ext c 10 1 == 1
/-- SAT = 1. -/
def extSat (c : VCtx) : Bool := ext c 11 1 == 1
/-- The rounding mode in force (R32, R35). -/
def extRm (c : VCtx) : Rounding := roundingOf (ext c 12 3) c.e.rmode.toNat
/-- W, with 0 meaning SEW. -/
def extW (c : VCtx) (sew : Nat) : Nat := if ext c 0 5 = 0 then sew else ext c 0 5

/-- Bits as an element type: typed(x) of R245. -/
def typed (u : Bool) (w x : Nat) : Int := if u then (x % 2 ^ w : Nat) else sextNat x w

/-- Element `e` of vs1 at width `w`. -/
def src1 (c : VCtx) (w e : Nat) : Nat := elemOf (srcLanes c c.f.vs1) c.f.vs1.toNat w e

/-- The oldest claimed entry of the queue an instruction consumes (R198). -/
def claimedEntry (s : State) (c : VCtx) : Option QEntry := s.th.q[c.e.queue.toNat].find? fun q => q.claimed

/-- The imm16 of form 10 at a width: sext(imm16, 32) cut (R245). -/
def immBits (f : W64) (w : Nat) : Nat := (f.x16.signExtend 32).toNat % 2 ^ w

/-- Element `e` of the second source at width `w`, by form (R245). -/
def src2 (s : State) (c : VCtx) (w e : Nat) : Nat :=
  match c.f.form.toNat with
  | 0 => elemOf (srcLanes c c.f.vs2) c.f.vs2.toNat w e
  | 1 => c.e.opa.toNat % 2 ^ w
  | 2 => immBits c.f w
  | _ => match claimedEntry s c with
    | some q => (q.data.getD e 0) % 2 ^ w
    | none => 0

/-- The uniform amount of a slide or VMVS: rs, or imm16 as unsigned (R255, R256). -/
def uniform (c : VCtx) : Nat := if c.f.form = 1 then c.e.opa.toNat else c.f.x16.toNat

/-- active(e) of R8. -/
def activeAt (l : Lanes) (mask : BitVec 3) (e : Nat) : Bool :=
  decide (e < l.vl.toNat) && (mask == 0 || maskBit l mask.toNat e)

/-- The active elements, ascending. -/
def actives (l : Lanes) (mask : BitVec 3) : List Nat := (List.range l.vl.toNat).filter (activeAt l mask)

/-- The elements that the tail bit governs (R57). -/
def tailElems (l : Lanes) (f : W64) : List Nat :=
  if f.tail then (List.range (vlmaxOf l)).drop l.vl.toNat else []

/-- The generator's output for an element (R37, R38). -/
def draw (c : VCtx) (stream e : Nat) : Nat := generator c.e.gkey c.e.gcnt.toNat stream e

/-- The lanes with some elements of a register written at a width. -/
def writeElems (l : Lanes) (r w : Nat) (xs : List (Nat × Nat)) : Lanes := xs.foldl (fun l x => setElem l r w x.1 x.2) l

/-- The lanes with some bits of a mask register written. -/
def writeMask (l : Lanes) (k : Nat) (xs : List (Nat × Bool)) : Lanes := xs.foldl (fun l x => setMaskBit l k x.1 x.2) l

/-- The lanes with some scale bytes of a register written. -/
def writeScales (l : Lanes) (r : Nat) (xs : List (Nat × Nat)) : Lanes := xs.foldl (fun l x => setScale l r x.1 x.2) l

/-- The thread's lanes changed. -/
def updLanes (s : State) (f : Lanes → Lanes) : State := updTh s fun th => { th with lanes := f th.lanes }

/-- Results written to a lower vector register at a width, then the tail, with the flags raised (R232, R43). DESIGN CHOICE
(log 43): tail bit 1 zeroes the positions from VL on in a group that is skipped too (R247). -/
def putResults (c : VCtx) (w : Nat) (xs : List (Nat × Nat)) (flags : Nat) (s : State) : State :=
  let l := s.th.lanes
  let t := (tailElems l c.f).map fun e => (e, 0)
  let s := updLanes s fun l => writeElems l c.f.vd.toNat w (xs ++ t)
  updTh s fun th => orFlags th flags

/-- Results written to a mask register, then the tail (R232). -/
def putMask (c : VCtx) (xs : List (Nat × Bool)) (s : State) : State :=
  let t := (tailElems s.th.lanes c.f).map fun e => (e, false)
  updLanes s fun l => writeMask l c.f.vd.toNat (xs ++ t)

/-- An element-wise instruction: each active element's result and events, from the state as it stands
(R231, R232). -/
def mapActive (c : VCtx) (w : Nat) (g : State → Nat → Nat × Nat) (s : State) : State :=
  let rs := (actives s.th.lanes c.f.mask).map fun e => (e, g s e)
  putResults c w (rs.map fun r => (r.1, r.2.1)) (joinFlags (rs.map fun r => r.2.2)) s

/-- An element-wise instruction with a mask destination. -/
def mapMask (c : VCtx) (g : State → Nat → Bool) (s : State) : State :=
  putMask c ((actives s.th.lanes c.f.mask).map fun e => (e, g s e)) s

/-! ### Checks made on the vector side (R240) -/

/-- A lower register named for an operand wider than 16 bits is even (R59). -/
def pairOk (r : Reg) (w : Nat) : Bool := w ≤ 16 || r.toNat % 2 == 0

/-- Cause 0x01 at a posted instruction, with its parcels in FINFO (Table 14-19). -/
def illegalEntry {α : Type} (e : VEntry) : Op α :=
  match encode e.insn with
  | some (a :: b :: _) => illegal (e.addr.setWidth 64) a.toNat b.toNat
  | _ => illegal (e.addr.setWidth 64) 0 0

/-- A check of Table 2-13 that VTYPE decides. -/
def requires (c : VCtx) (b : Bool) : Op Unit := if b then pure () else illegalEntry c.e

/-- The package changed. -/
def doing (f : State → State) : Op Unit := fun s => .ok () (f s)

end Sys2Proof.Machine
end

