-- ==== Sys2Proof/Machine/Lane.lean ====
section
/-! DEFINITION. The effects of the LANE instructions (R250-R265) when the vector side performs them; SETVL
and SETVT are in Alloc.lean. -/
namespace Sys2Proof.Machine

/-! ### Shared operations -/

/-- SEW of the thread whose turn it is (R233). -/
def sewOf (s : State) : Nat := s.th.lanes.sew.toNat

/-- The checks of R240 and R244: W at most SEW, and the pairs of the operands' widths. -/
def laneChecks (c : VCtx) (w1 w2 wd : Nat) : Op Unit := do
  let s ← get
  requires c (ext c 0 5 ≤ sewOf s && pairOk c.f.vs1 w1 && (c.f.form != 0 || pairOk c.f.vs2 w2) && pairOk c.f.vd wd)

/-- An element-wise instruction on A and B as raw bits at SEW. -/
def laneRaw (c : VCtx) (g : Nat → Nat → Nat → Nat × Nat) : Op Unit := do
  let sew := sewOf (← get)
  laneChecks c sew sew sew
  doing (mapActive c sew fun s e => g sew (src1 c sew e) (src2 s c sew e))

/-- An element-wise instruction on A and B as integers of type U, wrapping to SEW. -/
def laneTyped (c : VCtx) (g : Int → Int → Int) : Op Unit :=
  laneRaw c fun w a b => (lowBits (g (typed (extU c) w a) (typed (extU c) w b)) w, 0)

/-- An element-wise instruction on A and B, saturating to SEW (R245). -/
def laneSat (c : VCtx) (g : Int → Int → Int) : Op Unit :=
  laneRaw c fun w a b =>
    let (y, fl) := satFlag (g (typed (extU c) w a) (typed (extU c) w b)) w (!extU c)
    (lowBits y w, fl)

/-- An integer result, saturated when SAT = 1 and cut to its low bits otherwise. -/
def satOrWrap (c : VCtx) (y : Int) (w : Nat) (signed : Bool) : Nat × Nat :=
  if extSat c then
    let (z, fl) := satFlag y w signed
    (lowBits z w, fl)
  else (lowBits y w, 0)

/-- A multiplication: `g` takes the old element, the exact product and the generator's output (R252). -/
def laneMul (c : VCtx) (g : Nat → Int → Int → Nat → Int) : Op Unit := do
  let sew := sewOf (← get)
  let w := extW c sew
  laneChecks c sew w sew
  let u := extU c
  doing (mapActive c sew fun s e =>
    let p := typed u sew (src1 c sew e) * typed u w (src2 s c w e)
    satOrWrap c (g w (typed u sew (elemOf s.th.lanes c.f.vd.toNat sew e)) p (draw c (ext c 5 5) e)) sew (!u))

/-- A mask instruction on the bits of its operands (R263). -/
def maskOp (c : VCtx) (g : Bool → Bool → Bool) : Op Unit :=
  doing (mapMask c fun _ e => g (maskBit c.src c.f.vs1.toNat e) (maskBit c.src c.f.vs2.toNat e))

/-- The active elements whose bit of ks1 is 1 (R264, R265). -/
def activeSet (s : State) (c : VCtx) : List Nat :=
  (actives s.th.lanes c.f.mask).filter (maskBit c.src c.f.vs1.toNat)

/-- A mask instruction on the place of the first set bit (R264). -/
def maskFirst (c : VCtx) (g : Nat → Nat → Bool) : Op Unit :=
  doing (fun s => mapMask c (fun _ e => g e ((activeSet s c).headD s.th.lanes.vl.toNat)) s)

/-- A scalar result of a vector-class instruction (R195). -/
def scalarResult (c : VCtx) (v : Word) : Op Unit := doing fun s => setR s c.f.vd v

/-! ### Element-wise arithmetic and logic (R250, R251) -/

/-- VADD. -/
def effVadd (c : VCtx) : Op Unit := laneTyped c fun a b => a + b

/-- VSUB. -/
def effVsub (c : VCtx) : Op Unit := laneTyped c fun a b => a - b

/-- VSADD. -/
def effVsadd (c : VCtx) : Op Unit := laneSat c fun a b => a + b

/-- VSSUB. -/
def effVssub (c : VCtx) : Op Unit := laneSat c fun a b => a - b

/-- VMIN. -/
def effVmin (c : VCtx) : Op Unit := laneTyped c fun a b => min a b

/-- VMAX. -/
def effVmax (c : VCtx) : Op Unit := laneTyped c fun a b => max a b

/-- VAND. -/
def effVand (c : VCtx) : Op Unit := laneRaw c fun _ a b => (Nat.land a b, 0)

/-- VOR. -/
def effVor (c : VCtx) : Op Unit := laneRaw c fun _ a b => (Nat.lor a b, 0)

/-- VXOR. -/
def effVxor (c : VCtx) : Op Unit := laneRaw c fun _ a b => (Nat.xor a b, 0)

/-- VANDN: A and not B, on the SEW bits. -/
def effVandn (c : VCtx) : Op Unit := laneRaw c fun _ a b => (a - Nat.land a b, 0)

/-- VSLL. -/
def effVsll (c : VCtx) : Op Unit := laneRaw c fun w a b => satOrWrap c (typed (extU c) w a * (2 : Int) ^ (b % 64)) w (!extU c)

/-- VSRL. -/
def effVsrl (c : VCtx) : Op Unit := laneRaw c fun _ a b => (a >>> (b % 64), 0)

/-- VSRA. -/
def effVsra (c : VCtx) : Op Unit := laneRaw c fun w a b => (lowBits ((sextNat a w).fdiv ((2 : Int) ^ (b % 64))) w, 0)

/-- VSHRR (R251). -/
def effVshrr (c : VCtx) : Op Unit :=  do
  let sew := sewOf (← get)
  laneChecks c sew sew sew
  doing (mapActive c sew fun s e =>
    let n := src2 s c sew e % 64
    (lowBits (roundShift (extRm c) (typed (extU c) sew (src1 c sew e)) n (draw c (ext c 5 5) e)) sew, 0))

/-- VMUL (R252). -/
def effVmul (c : VCtx) : Op Unit := laneMul c fun _ _ p _ => p

/-- VMULH: h is W_B, or W_B - 1 for a signed multiplier of more than 1 bit (R252). -/
def effVmulh (c : VCtx) : Op Unit :=  do
  let w := extW c (sewOf (← get))
  requires c (extU c || w != 1)
  laneMul c fun w _ p x => roundShift (extRm c) p (if extU c then w else (w - 1 : Nat)) x

/-- VMACC (R252). -/
def effVmacc (c : VCtx) : Op Unit := laneMul c fun _ old p _ => old + p

/-- VABS. -/
def effVabs (c : VCtx) : Op Unit := laneRaw c fun w a _ => satOrWrap c (sextNat a w).natAbs w true

/-- VNEG. -/
def effVneg (c : VCtx) : Op Unit := laneRaw c fun w a _ => satOrWrap c (-(sextNat a w)) w true

/-- VCLZ. -/
def effVclz (c : VCtx) : Op Unit := laneRaw c fun w a _ => (w - bitLen a, 0)

/-- VCPOP. -/
def effVcpop (c : VCtx) : Op Unit := laneRaw c fun w a _ => (popCount w a, 0)

/-! ### Compares, moves and permutations (R253-R258) -/

/-- VCMP: vd names a mask register (R253). -/
def effVcmp (c : VCtx) : Op Unit :=  do
  let sew := sewOf (← get)
  laneChecks c sew sew 0
  doing (mapMask c fun s e =>
    compares c.f.fn4.toNat (typed (extU c) sew (src1 c sew e)) (typed (extU c) sew (src2 s c sew e)))

/-- VMERGE: every element below VL is written (R254). -/
def effVmerge (c : VCtx) : Op Unit :=  do
  let sew := sewOf (← get)
  laneChecks c sew sew sew
  doing fun s =>
    let l := s.th.lanes
    putResults c sew ((List.range l.vl.toNat).map fun e =>
      (e, if maskBit l c.f.mask.toNat e then src1 c sew e else src2 s c sew e)) 0 s

/-- VMV (R255). -/
def effVmv (c : VCtx) : Op Unit :=  do
  let sew := sewOf (← get)
  laneChecks c 0 sew sew
  doing (mapActive c sew fun s e => (src2 s c sew e, 0))

/-- VMVS (R256). -/
def effVmvs (c : VCtx) : Op Unit :=  do
  let s ← get
  let sew := sewOf s
  laneChecks c sew 0 0
  let i := uniform c
  scalarResult c (if i < s.th.lanes.vl.toNat then BitVec.ofInt 64 (typed (extU c) sew (src1 c sew i)) else 0)

/-- VSLUP: elements below the amount keep their values (R255). -/
def effVslup (c : VCtx) : Op Unit :=  do
  let sew := sewOf (← get)
  laneChecks c sew 0 sew
  let n := uniform c
  doing fun s => putResults c sew
    (((actives s.th.lanes c.f.mask).filter fun e => n ≤ e).map fun e => (e, src1 c sew (e - n))) 0 s

/-- VSLDN (R255). -/
def effVsldn (c : VCtx) : Op Unit :=  do
  let sew := sewOf (← get)
  laneChecks c sew 0 sew
  let n := uniform c
  doing (mapActive c sew fun s e => (if e + n < s.th.lanes.vl.toNat then src1 c sew (e + n) else 0, 0))

/-- VPERM (R255). -/
def effVperm (c : VCtx) : Op Unit :=  do
  let sew := sewOf (← get)
  laneChecks c sew sew sew
  doing (mapActive c sew fun s e =>
    let i := src2 s c sew e
    (if i < s.th.lanes.vl.toNat then src1 c sew i else 0, 0))

/-- VCOMPR: position k receives the active element of rank k (R257). -/
def effVcompr (c : VCtx) : Op Unit :=  do
  let sew := sewOf (← get)
  laneChecks c sew 0 sew
  doing fun s =>
    let as := actives s.th.lanes c.f.mask
    putResults c sew ((List.range as.length).zip (as.map (src1 c sew))) 0 s

/-- VEXPND: the active element of rank k receives position k (R257). -/
def effVexpnd (c : VCtx) : Op Unit :=  do
  let sew := sewOf (← get)
  laneChecks c sew 0 sew
  doing fun s =>
    let as := actives s.th.lanes c.f.mask
    putResults c sew (as.zip ((List.range as.length).map (src1 c sew))) 0 s

/-- VIOTA (R258). -/
def effViota (c : VCtx) : Op Unit :=  do
  let sew := sewOf (← get)
  laneChecks c 0 0 sew
  doing fun s =>
    let as := actives s.th.lanes c.f.mask
    putResults c sew (as.zip ((List.range as.length).map (· % 2 ^ sew))) 0 s

/-! ### Bit fields and widths (R259-R261) -/

/-- Position and length of a bit field (R259). -/
def fieldPlace (s : State) (c : VCtx) (sew e : Nat) : Nat × Nat :=
  if c.f.form = 2 then (bitsOf c.f.x16.toNat 0 6, bitsOf c.f.x16.toNat 6 5 + 1) else (src2 s c sew e % 64, extW c sew)

/-- VBFX (R259). -/
def effVbfx (c : VCtx) : Op Unit :=  do
  let sew := sewOf (← get)
  laneChecks c sew sew sew
  doing (mapActive c sew fun s e =>
    let (pos, len) := fieldPlace s c sew e
    let f := bitsOf (src1 c sew e) pos len
    (lowBits (typed (extU c) len f) sew, 0))

/-- VBFI (R259). -/
def effVbfi (c : VCtx) : Op Unit :=  do
  let sew := sewOf (← get)
  laneChecks c sew sew sew
  doing (mapActive c sew fun s e =>
    let (pos, len) := fieldPlace s c sew e
    (putBits (elemOf s.th.lanes c.f.vd.toNat sew e) pos len (src1 c sew e) % 2 ^ sew, 0))

/-- VWID (R260). -/
def effVwid (c : VCtx) : Op Unit :=  do
  let sew := sewOf (← get)
  let w := ext c 0 5
  laneChecks c w 0 sew
  doing (mapActive c sew fun _ e => (lowBits (typed (extU c) w (src1 c w e)) sew, 0))

/-- VNAR's destination width, shift field or none, U, SAT, rounding and stream: form 10 carries them in
imm16 (R261). -/
def narFields (c : VCtx) : Nat × Bool × Bool × Rounding × Nat :=
  if c.f.form = 2 then
    let i := c.f.x16.toNat
    (bitsOf i 6 5 + 1, bitAt i 12 == 1, bitAt i 11 == 1, roundingOf (bitsOf i 13 3) c.e.rmode.toNat, 0)
  else (ext c 0 5, extU c, extSat c, extRm c, ext c 5 5)

/-- VNAR: the destination is written at width W (R261). -/
def effVnar (c : VCtx) : Op Unit :=  do
  let sew := sewOf (← get)
  let (w, u, sat, rm, stream) := narFields c
  requires c (w ≤ sew)
  laneChecks c sew sew w
  doing (mapActive c w fun s e =>
    let n := if c.f.form = 2 then bitsOf c.f.x16.toNat 0 6 else src2 s c sew e % 64
    let y := roundShift rm (typed u sew (src1 c sew e)) n (draw c stream e)
    if sat then
      let (z, fl) := satFlag y w (!u)
      (lowBits z w, fl)
    else (lowBits y w, 0))

/-! ### Reductions (R262) -/

/-- The fold of VRED over I and the active elements, as SEW bits and events (R262). -/
def foldRed (op sew : Nat) (u : Bool) (i : Nat) (as : List Nat) : Nat × Nat :=
  let t := typed u sew
  let sum := as.foldl (fun x a => x + t a) (t i)
  match op with
  | 0 => (lowBits sum sew, 0)
  | 1 =>
    let (z, fl) := satFlag sum sew (!u)
    (lowBits z sew, fl)
  | 2 => (lowBits (as.foldl (fun x a => min x (t a)) (t i)) sew, 0)
  | 3 => (lowBits (as.foldl (fun x a => max x (t a)) (t i)) sew, 0)
  | 4 => (as.foldl Nat.land i, 0)
  | 5 => (as.foldl Nat.lor i, 0)
  | _ => (as.foldl Nat.xor i, 0)

/-- VRED: element 0 is written whether or not it is active (R262). -/
def effVred (c : VCtx) : Op Unit :=  do
  let s ← get
  let sew := sewOf s
  laneChecks c sew sew sew
  if s.th.lanes.vl = 0 then pure ()
  else
    let i := if c.f.form = 1 then c.e.opa.toNat % 2 ^ sew else elemOf (srcLanes c c.f.vs2) c.f.vs2.toNat sew 0
    let (r, fl) := foldRed c.f.fn4.toNat sew (extU c) i ((actives s.th.lanes c.f.mask).map (src1 c sew))
    doing (putResults c sew [(0, r)] fl)

/-! ### Masks (R263-R265) -/

/-- KAND. -/
def effKand (c : VCtx) : Op Unit := maskOp c fun a b => a && b

/-- KOR. -/
def effKor (c : VCtx) : Op Unit := maskOp c fun a b => a || b

/-- KXOR. -/
def effKxor (c : VCtx) : Op Unit := maskOp c fun a b => a != b

/-- KANDN. -/
def effKandn (c : VCtx) : Op Unit := maskOp c fun a b => a && !b

/-- KNOT. -/
def effKnot (c : VCtx) : Op Unit := maskOp c fun a _ => !a

/-- KMV: ks1, or bit 0 of the immediate. -/
def effKmv (c : VCtx) : Op Unit := if c.f.form = 2 then maskOp c fun _ _ => c.f.x16.getLsbD 0 else maskOp c fun a _ => a

/-- KWHILE: the limit is signed. -/
def effKwhile (c : VCtx) : Op Unit :=
  let lim : Int := if c.f.form = 2 then c.f.x16.toInt else c.e.opa.toInt
  doing (mapMask c fun _ e => decide ((e : Int) < lim))

/-- KBEFORE (R264). -/
def effKbefore (c : VCtx) : Op Unit := maskFirst c fun e first => e < first

/-- KINCL (R264). -/
def effKincl (c : VCtx) : Op Unit := maskFirst c fun e first => e ≤ first

/-- KFIRST (R264). -/
def effKfirst (c : VCtx) : Op Unit := maskFirst c fun e first => e == first

/-- KPOPC (R265). -/
def effKpopc (c : VCtx) : Op Unit :=  do
  let s ← get
  scalarResult c (BitVec.ofNat 64 (activeSet s c).length)

/-- KLAST (R265). -/
def effKlast (c : VCtx) : Op Unit :=  do
  let s ← get
  scalarResult c (match (activeSet s c).getLast? with
    | some e => BitVec.ofNat 64 e
    | none => -1)

end Sys2Proof.Machine
end

