-- ==== Sys2Proof/Machine/Numerics.lean ====
section
/-! DEFINITION. The number formats of chapter 1 and the conversion matrix (R11-R29, R269-R271): exact values,
floating point, the logarithmic formats and their tables, block scales. -/
namespace Sys2Proof.Machine

/-! ### The fixed tables (R29, R30) -/

/-- LOG2[j] = round(256 · log2(1 + (j + 0.5)/256)), ties away from zero (Table 1-7). Row r holds entries 16·r to 16·r + 15, 16 bits each. -/
def log2Rows : List Nat :=
  [
   0x00160014001300120010000F000D000C000B0009000800060005000400020001,
   0x002B002A0028002700260024002300220020001F001E001C001B001A00180017,
   0x003F003E003C003B003A00390037003600350034003200310030002F002D002C,
   0x005200510050004E004D004C004B004A00480047004600450044004200410040,
   0x0064006300620061005F005E005D005C005B005A005900580056005500540053,
   0x007500740073007200710070006F006E006D006C006A00690068006700660065,
   0x008600850084008300810080007F007E007D007C007B007A0079007800770076,
   0x009500940093009200910090008F008E008D008C008C008B008A008900880087,
   0x00A400A300A300A200A100A0009F009E009D009C009B009A0099009800970096,
   0x00B300B200B100B000AF00AE00AD00AD00AC00AB00AA00A900A800A700A600A5,
   0x00C100C000BF00BE00BD00BD00BC00BB00BA00B900B800B700B600B600B500B4,
   0x00CE00CD00CD00CC00CB00CA00C900C800C800C700C600C500C400C300C300C2,
   0x00DB00DA00DA00D900D800D700D600D600D500D400D300D200D200D100D000CF,
   0x00E800E700E600E500E500E400E300E200E200E100E000DF00DE00DE00DD00DC,
   0x00F400F300F200F200F100F000EF00EF00EE00ED00EC00EC00EB00EA00E900E9,
   0x010000FF00FE00FD00FD00FC00FB00FB00FA00F900F800F800F700F600F500F5]

/-- EXP2[j] = round(32,768 · 2^(j/256)), ties away from zero (Table 1-7). Row r holds entries 16·r to 16·r + 15, 16 bits each. -/
def exp2Rows : List Nat :=
  [
   0x854E84F28496843A83DF8383832882CE8273821981BF8165810B80B280598000,
   0x8B358AD58A758A1589B5895688F78898883A87DB877D871F86C28665860885AB,
   0x915F90FA909690328FCE8F6B8F078EA48E418DDF8D7D8D1B8CB98C588BF78B96,
   0x97CF976596FD9694962C95C4955C94F5948E942793C0935A92F4928E922991C4,
   0x9E879E199DAC9D3F9CD29C659BF99B8D9B229AB69A4B99E09976990C98A29838,
   0xA58CA519A4A7A435A3C3A352A2E1A270A200A190A120A0B0A0419FD29F649EF5,
   0xACE0AC69ABF1AB7AAB04AA8DAA17A9A1A92CA8B7A842A7CEA759A6E6A672A5FF,
   0xB488B40BB38EB312B296B21AB19FB124B0A9B02FAFB5AF3BAEC2AE49ADD1AD58,
   0xBC86BC03BB81BAFFBA7EB9FDB97CB8FCB87CB7FCB77DB6FEB67FB601B583B505,
   0xC4DFC456C3CEC347C2C0C239C1B2C12CC0A7C021BF9CBF18BE93BE0FBD8CBD09,
   0xCD96CD08CC7ACBECCB5FCAD2CA46C9BAC92EC8A3C818C78DC703C67AC5F0C567,
   0xD6B0D61BD587D4F3D460D3CDD33AD2A8D216D185D0F4D063CFD3CF43CEB4CE25,
   0xE031DF96DEFBDE61DDC7DD2EDC94DBFCDB63DACCDA34D99DD906D870D7DAD745,
   0xEA1EE97CE8DBE839E799E6F8E658E5B9E51AE47BE3DDE340E2A2E205E169E0CD,
   0xF47CF3D3F32AF281F1DAF132F08BEFE5EF3FEE99EDF4ED4FECABEC07EB64EAC1,
   0xFF4FFE9EFDEEFD3EFC8FFBE0FB32FA84F9D6F929F87DF7D1F725F67AF5D0F525]

/-- PHI[j] = round(256 · log2(1 + 2^(-(j + 0.5)/16))), ties away from zero (R29). Row r holds entries 16·r to 16·r + 15, 16 bits each. -/
def phiRows : List Nat :=
  [
   0x0098009E00A400A900AF00B500BC00C200C900D000D700DE00E500ED00F400FC,
   0x00540057005B005E00620066006A006E00720076007B007F00840089008E0093,
   0x002C002E00300032003400360039003B003D0040004200450048004B004E0051,
   0x001700180019001A001B001C001D001F0020002100230024002600270029002B,
   0x000C000C000D000D000E000E000F001000100011001200130013001400150016,
   0x000600060006000700070007000800080008000900090009000A000A000B000B,
   0x0003000300030003000300040004000400040004000500050005000500050006,
   0x0001000200020002000200020002000200020002000200020002000300030003,
   0x0001000100010001000100010001000100010001000100010001000100010001,
   0x0000000000000000000000000000000000010001000100010001000100010001,
   0x0000000000000000000000000000000000000000000000000000000000000000,
   0x0000000000000000000000000000000000000000000000000000000000000000,
   0x0000000000000000000000000000000000000000000000000000000000000000,
   0x0000000000000000000000000000000000000000000000000000000000000000,
   0x0000000000000000000000000000000000000000000000000000000000000000,
   0x0000000000000000000000000000000000000000000000000000000000000000]

/-- PSI[j] = round(256 · log2(1 - 2^(-(j + 0.5)/16))), two's complement (R29). Row r holds entries 16·r to 16·r + 15, 16 bits each. -/
def psiRows : List Nat :=
  [
   0xFEF8FEE6FED3FEBEFEA6FE8CFE6FFE4DFE26FDF9FDC3FD81FD2CFCB7FC02FA75,
   0xFF93FF8DFF87FF81FF7AFF73FF6BFF63FF5AFF51FF47FF3CFF31FF24FF17FF08,
   0xFFCEFFCBFFC9FFC6FFC3FFC0FFBDFFBAFFB6FFB3FFAFFFABFFA7FFA2FF9DFF98,
   0xFFE8FFE7FFE5FFE4FFE3FFE1FFE0FFDFFFDDFFDBFFDAFFD8FFD6FFD4FFD2FFD0,
   0xFFF4FFF3FFF3FFF2FFF2FFF1FFF0FFF0FFEFFFEEFFEDFFECFFECFFEBFFEAFFE9,
   0xFFFAFFFAFFFAFFF9FFF9FFF9FFF8FFF8FFF8FFF7FFF7FFF6FFF6FFF5FFF5FFF5,
   0xFFFDFFFDFFFDFFFDFFFCFFFCFFFCFFFCFFFCFFFCFFFBFFFBFFFBFFFBFFFBFFFA,
   0xFFFFFFFEFFFEFFFEFFFEFFFEFFFEFFFEFFFEFFFEFFFEFFFEFFFEFFFDFFFDFFFD,
   0xFFFFFFFFFFFFFFFFFFFFFFFFFFFFFFFFFFFFFFFFFFFFFFFFFFFFFFFFFFFFFFFF,
   0x00000000000000000000000000000000FFFFFFFFFFFFFFFFFFFFFFFFFFFFFFFF,
   0x0000000000000000000000000000000000000000000000000000000000000000,
   0x0000000000000000000000000000000000000000000000000000000000000000,
   0x0000000000000000000000000000000000000000000000000000000000000000,
   0x0000000000000000000000000000000000000000000000000000000000000000,
   0x0000000000000000000000000000000000000000000000000000000000000000,
   0x0000000000000000000000000000000000000000000000000000000000000000]

/-- Entry `j` of a table held in rows of 16. -/
def rowEntry (rows : List Nat) (j : Nat) : Nat := bitsOf (rows.getD (j / 16) 0) (16 * (j % 16)) 16

/-- LOG2 of Table 1-7. -/
def log2Table (j : Nat) : Nat := rowEntry log2Rows j
/-- EXP2 of Table 1-7. -/
def exp2Table (j : Nat) : Nat := rowEntry exp2Rows j
/-- PHI of R29. -/
def phiTable (j : Nat) : Int := (rowEntry phiRows j : Nat)
/-- PSI of R29. -/
def psiTable (j : Nat) : Int := sextNat (rowEntry psiRows j) 16

/-- What lane table `n` holds after SETVL and at task entry (R30, R287). -/
def defaultTable (n j : Nat) : Nat :=
  match n with
  | 4 => rowEntry log2Rows j
  | 5 => rowEntry exp2Rows j
  | 6 => rowEntry phiRows j
  | 7 => rowEntry psiRows j
  | _ => 0

/-- Entry `j` of lane table `n` in lane group `h`; the state keeps the difference from Table 1-7. -/
def laneTable (l : Lanes) (n h j : Nat) : Nat :=
  Nat.xor (smGet l.lt (4096 * n + 256 * h + j)).toNat (defaultTable n j)

/-- A lane table with one entry written. -/
def setLaneTable (l : Lanes) (n h j x : Nat) : Lanes :=
  { l with lt := smSet l.lt (4096 * n + 256 * h + j) (BitVec.ofNat 16 (Nat.xor (x % 2 ^ 16) (defaultTable n j))) }

/-! ### Exact values -/

/-- A decoded value: a finite non-zero one is m · 2^e. -/
inductive Val where
  | nan
  | inf (neg : Bool)
  | zero (neg : Bool)
  | fin (m : Int) (e : Int)
  deriving DecidableEq, Repr

/-- m · 2^e as a value; +0 for m = 0. -/
def Val.ofInt (m e : Int) : Val := if m = 0 then .zero false else .fin m e

/-- A value times 2^k. -/
def Val.scale (v : Val) (k : Int) : Val :=
  match v with
  | .fin m e => .fin m (e + k)
  | v => v

/-- floor(log2 |m · 2^e|). -/
def log2Floor (m e : Int) : Int := (bitLen m.natAbs : Int) - 1 + e

/-- |a| < |b| for a = m · 2^e and b = n · 2^f. -/
def magLess (m e n f : Int) : Bool :=
  let k := min e f
  decide (m.natAbs * 2 ^ (e - k).toNat < n.natAbs * 2 ^ (f - k).toNat)

/-- The larger magnitude of two values; NaN is passed over. -/
def Val.larger (a b : Val) : Val :=
  match a, b with
  | .nan, b => b
  | a, .nan => a
  | .inf _, _ => .inf false
  | _, .inf _ => .inf false
  | .zero _, b => b
  | a, .zero _ => a
  | .fin m e, .fin n f => if magLess m e n f then .fin n f else .fin m e

/-! ### Floating point (R22-R26) -/

/-- Exponent bits, fraction bits, bias and canonical NaN of a format; E4M3 has no infinity (Table 1-3). -/
structure FloatFmt where
  eb : Nat
  fb : Nat
  bias : Int
  nan : Nat
  e4m3 : Bool := false
  deriving DecidableEq, Repr

/-- The float formats of codes 5 to 9 (Table 9-1). -/
def floatFmt (code : Nat) : Option FloatFmt :=
  match code with
  | 5 => some ⟨8, 23, 127, 0x7FC00000, false⟩
  | 6 => some ⟨5, 10, 15, 0x7E00, false⟩
  | 7 => some ⟨8, 7, 127, 0x7FC0, false⟩
  | 8 => some ⟨4, 3, 7, 0x7F, true⟩
  | 9 => some ⟨5, 2, 15, 0x7E, false⟩
  | _ => none

/-- The code of the greatest finite magnitude. -/
def FloatFmt.maxCode (t : FloatFmt) : Nat := if t.e4m3 then 0x7E else (2 ^ t.eb - 1) * 2 ^ t.fb - 1

/-- A code with its sign bit. -/
def FloatFmt.signed (t : FloatFmt) (neg : Bool) (code : Nat) : Nat := neg.toNat * 2 ^ (t.eb + t.fb) + code

/-- A float's value (R22). -/
def FloatFmt.decode (t : FloatFmt) (a : Nat) : Val :=
  let f := bitsOf a 0 t.fb
  let eb := bitsOf a t.fb t.eb
  let neg := bitAt a (t.eb + t.fb) == 1
  let sign : Int := if neg then -1 else 1
  if t.e4m3 && eb == 15 && f == 7 then .nan
  else if !t.e4m3 && eb == 2 ^ t.eb - 1 then (if f = 0 then .inf neg else .nan)
  else if eb = 0 then (if f = 0 then .zero neg else .fin (sign * f) (1 - t.bias - t.fb))
  else .fin (sign * (2 ^ t.fb + f : Nat)) (eb - t.bias - t.fb)

/-- An overflow or an infinite input (R26): `isInf` for an infinity carried over. -/
def FloatFmt.tooLarge (t : FloatFmt) (neg sat isInf : Bool) : Nat × Nat :=
  if sat then (t.signed neg t.maxCode, flagSat)
  else if t.e4m3 then (0x7F, flagOvf)
  else (t.signed neg ((2 ^ t.eb - 1) * 2 ^ t.fb), flagIf (!isInf) flagOvf)

/-- A value rounded into a float format, with its events (R24-R26). -/
def FloatFmt.encode (t : FloatFmt) (v : Val) (rm : Rounding) (sat : Bool) (x : Nat) : Nat × Nat :=
  match v with
  | .nan => (t.nan, 0)
  | .inf neg => t.tooLarge neg sat true
  | .zero neg => (t.signed neg 0, 0)
  | .fin m e =>
    let neg := decide (m < 0)
    let q := max (log2Floor m e) (1 - t.bias) - t.fb
    let r := (roundShift rm m (q - e) x).natAbs
    if r = 0 then (t.signed neg 0, flagUflow)
    else
      let code := if r < 2 ^ t.fb then r else ((q + t.fb + t.bias).toNat - 1) * 2 ^ t.fb + r
      if code > t.maxCode then t.tooLarge neg sat false else (t.signed neg code, 0)

/-! ### The logarithmic formats (R27-R29, R270) -/

/-- The LNS16 zero code. -/
def lnsZero (a : Nat) : Bool := bitsOf a 0 15 == 0x4000

/-- code(a) of R29. -/
def lnsCode (a : Nat) : Int := sextNat (bitsOf a 0 15) 15

/-- The sign bit of an LNS16 value. -/
def lnsSign (a : Nat) : Bool := bitAt a 15 == 1

/-- lns_pack of R29, with its events. -/
def lnsPack (neg : Bool) (l : Int) : Nat × Nat :=
  if l > 16383 then (neg.toNat * 2 ^ 15 + 0x3FFF, flagSat)
  else if l < -16383 then (0x4000, flagUflow)
  else (neg.toNat * 2 ^ 15 + lowBits l 15, 0)

/-- lns_mul of R29. -/
def lnsMul (a b : Nat) : Nat × Nat :=
  if lnsZero a || lnsZero b then (0x4000, 0) else lnsPack (lnsSign a != lnsSign b) (lnsCode a + lnsCode b)

/-- The quotient of Table 9-7. -/
def lnsDiv (a b : Nat) : Nat × Nat :=
  if lnsZero b then
    if lnsZero a then (0x4000, flagInval) else ((lnsSign a != lnsSign b).toNat * 2 ^ 15 + 0x3FFF, flagSat)
  else if lnsZero a then (0x4000, 0)
  else lnsPack (lnsSign a != lnsSign b) (lnsCode a - lnsCode b)

/-- lns_add of R29. DESIGN CHOICE (log 25): the block hands the other operand on unchanged when one is zero, so that a zero
written 0xC000 stays so, where R27 says that every zero an instruction produces is 0x4000; the block is followed. -/
def lnsAdd (a b : Nat) : Nat × Nat :=
  if lnsZero a then (b, 0)
  else if lnsZero b then (a, 0)
  else
    let (hi, lo) := if lnsCode a ≥ lnsCode b then (a, b) else (b, a)
    let d := (lnsCode hi - lnsCode lo).toNat
    let i := min (d / 16) 255
    if lnsSign hi == lnsSign lo then lnsPack (lnsSign hi) (lnsCode hi + phiTable i)
    else if d = 0 then (0x4000, 0)
    else lnsPack (lnsSign hi) (lnsCode hi + psiTable i)

/-- a - b: lns_add with the second sign inverted (R281). -/
def lnsSub (a b : Nat) : Nat × Nat := lnsAdd a (Nat.xor b 0x8000)

/-- The order of the values two LNS16 codes denote, as integers (R282). -/
def lnsRank (a : Nat) : Int :=
  if lnsZero a then 0 else if lnsSign a then -(lnsCode a + 16384) else lnsCode a + 16384

/-- LNS8 widened to LNS16, exactly (R28). -/
def lnsWiden (a : Nat) : Nat :=
  if bitsOf a 0 7 = 0x40 then 0x4000 else bitAt a 7 * 2 ^ 15 + lowBits (32 * sextNat (bitsOf a 0 7) 7) 15

/-- LNS16 narrowed to LNS8 (R28). -/
def lnsNarrow (rm : Rounding) (a x : Nat) : Nat × Nat :=
  if lnsZero a then (0x40, 0)
  else
    let c := roundShift rm (lnsCode a) 5 x
    let s := (lnsSign a).toNat * 2 ^ 7
    if c > 63 then (s + 63, flagSat) else if c < -63 then (0x40, flagUflow) else (s + lowBits c 7, 0)

/-- An LNS16 code's value (Table 9-3). -/
def lnsValue (a : Nat) : Val :=
  if lnsZero a then .zero false
  else
    let l := lnsCode a
    let fr := l % 256
    .fin ((if lnsSign a then -1 else 1) * (exp2Table fr.toNat : Int)) ((l - fr) / 256 - 15)

/-- to_lns16 of R270 with the special values of R26. -/
def toLns16 (v : Val) : Nat × Nat :=
  match v with
  | .nan => (0x4000, flagInval)
  | .inf neg => (neg.toNat * 2 ^ 15 + 0x3FFF, flagSat)
  | .zero _ => (0x4000, 0)
  | .fin m e =>
    let k := bitLen m.natAbs - 1
    let j := if k ≥ 8 then m.natAbs / 2 ^ (k - 8) % 256 else m.natAbs * 2 ^ (8 - k) % 256
    lnsPack (decide (m < 0)) (256 * log2Floor m e + log2Table j)

/-- The LNS8 encoding of a value that is not LNS16 (Table 9-3, R26). -/
def toLns8 (v : Val) (rm : Rounding) (x : Nat) : Nat × Nat :=
  match v with
  | .nan => (0x40, flagInval)
  | .inf neg => (neg.toNat * 2 ^ 7 + 63, flagSat)
  | v =>
    let (a, f) := toLns16 v
    let (b, g) := lnsNarrow rm a x
    (b, Nat.lor f g)

/-! ### Fixed point, and the matrix (R269, R271) -/

/-- A value rounded to a multiple of 2^xd and clamped to an n-bit range (R11, R15, R26). -/
def toFixed (v : Val) (n : Nat) (signed : Bool) (xd : Int) (rm : Rounding) (x : Nat) : Nat × Nat :=
  match v with
  | .nan => (0, flagInval)
  | .zero _ => (0, 0)
  | .inf neg =>
    let lim := satInt (if neg then -(2 : Int) ^ n else (2 : Int) ^ n) n signed
    (lowBits lim n, flagSat)
  | .fin m e =>
    let (z, f) := satFlag (roundShift rm m (xd - e) x) n signed
    (lowBits z n, f)

/-- The width of an element of a format code (Table 9-1). -/
def fmtWidth (code sew : Nat) : Nat :=
  match code with
  | 0 | 1 => sew
  | 5 => 32
  | 2 | 6 | 7 | 10 => 16
  | 4 => 4
  | _ => 8

/-- The value of an element in a format code, with a fixed exponent (Table 9-3). -/
def decodeFmt (code sew a : Nat) (xs : Int) : Val :=
  match code with
  | 0 => Val.ofInt (sextNat a sew) xs
  | 1 => Val.ofInt (a % 2 ^ sew : Nat) xs
  | 2 => Val.ofInt (sextNat a 16) xs
  | 10 => lnsValue a
  | 11 => lnsValue (lnsWiden a)
  | n => match floatFmt n with
    | some t => t.decode a
    | none => .nan

/-- A value encoded in a format code, with its events (Table 9-3, Table 1-4). -/
def encodeFmt (code sew : Nat) (v : Val) (rm : Rounding) (sat : Bool) (xd : Int) (x : Nat) : Nat × Nat :=
  match code with
  | 0 => toFixed v sew true xd rm x
  | 1 => toFixed v sew false xd rm x
  | 2 => toFixed v 16 true xd rm x
  | 10 => toLns16 v
  | 11 => toLns8 v rm x
  | n => match floatFmt n with
    | some t => t.encode v rm sat x
    | none => (0, 0)

/-- VCVT of one element: LNS8 to LNS16 stops at the widening, LNS16 to LNS8 is R28's narrowing (Table 9-3). -/
def convert (src dst sew a : Nat) (xs xd : Int) (rm : Rounding) (sat : Bool) (x : Nat) : Nat × Nat :=
  if src = 11 ∧ dst = 10 then (lnsWiden a, 0)
  else if src = 10 ∧ dst = 11 then lnsNarrow rm a x
  else encodeFmt dst sew (decodeFmt src sew a xs) rm sat xd x

/-! ### Block scales (R18-R21) -/

/-- A block's scale for `n`-bit elements from its amax (R20). -/
def bsiScale (amax : Val) (n : Nat) : Nat :=
  match amax with
  | .nan => 255
  | .inf _ => 254
  | .zero _ => 0
  | .fin m e => (max 0 (min 254 (log2Floor m e - ((n : Int) - 2) + 127))).toNat

/-- One element quantised under scale `e` (R20, log 42); under 255 every element is a NaN input (R18). -/
def bsiElem (v : Val) (e n : Nat) (rm : Rounding) (x : Nat) : Nat × Nat :=
  if e = 255 then (0, flagInval) else toFixed v n true ((e : Int) - 127) rm x

/-- The value of a block-scaled element (R18, R19). -/
def bsiValue (q e n : Nat) : Val := if e = 255 then .nan else Val.ofInt (sextNat q n) ((e : Int) - 127)

/-- A signed 8-bit field of a scalar operand (Table 9-4). -/
def signedByte (w : Word) (lo : Nat) : Int := sextNat (bitsOf w.toNat lo 8) 8

end Sys2Proof.Machine
end

