-- ==== Sys2Proof/Machine/Conv.lean ====
section
/-! DEFINITION. The effects of the CONV instructions (R271-R289) when the vector side performs them. -/
namespace Sys2Proof.Machine

/-! ### Shared operations -/

/-- The scalar operand of form 01; 0 where it is absent (R266). -/
def operand (c : VCtx) : Word := if c.f.form = 1 then c.e.opa else 0

/-- STREAM of a CONV word (Table 2-6). -/
def convStream (c : VCtx) : Nat := ext c 0 8

/-- The pairs of a CONV instruction's operands (R59, R266). DESIGN CHOICE (log 21): the pair of an operand whose format has
32 bits of itself is checked with the others at the instruction's place in the VIQ, as R266 cites R240, though VTYPE has no
part in it and R66 could have a convoy's header refused for it; a member is therefore posted. -/
def convChecks (c : VCtx) (w1 wd : Nat) : Op Unit := requires c (pairOk c.f.vs1 w1 && pairOk c.f.vd wd)

/-- An operand outside its limits: cause 0x05, reason 0x04 (R268, Table 14-19). -/
def limit (c : VCtx) (b : Bool) : Op Unit := if b then pure () else fault 0x05 (c.e.addr.setWidth 64) 0x04

/-- The active elements of block `b` of `n` positions. -/
def activesIn (l : Lanes) (mask : BitVec 3) (n b : Nat) : List Nat :=
  ((List.range n).map (n * b + ·)).filter (activeAt l mask)

/-- The blocks of `n` positions that hold an active element. -/
def activeBlocks (l : Lanes) (mask : BitVec 3) (n : Nat) : List Nat :=
  (List.range (ceilDiv l.vl.toNat n)).filter fun b => !(activesIn l mask n b).isEmpty

/-- Scale bytes written to zd, then those of the blocks wholly at or beyond VL by the tail bit (R272). -/
def putScales (c : VCtx) (xs : List (Nat × Nat)) (s : State) : State :=
  let l := s.th.lanes
  let t := if c.f.tail then
    (((List.range (vlmaxOf l / 16)).drop (ceilDiv l.vl.toNat 16)).map fun b => (b, 0)) else []
  updLanes s fun l => writeScales l c.f.vd.toNat (xs ++ t)

/-- Results of blocks: each block's scale bytes, and its elements with their events. -/
def putBlocks (c : VCtx) (w : Nat) (scales : List (Nat × Nat)) (xs : List (Nat × Nat × Nat)) (s : State) : State :=
  putScales c scales (putResults c w (xs.map fun x => (x.1, x.2.1)) (joinFlags (xs.map fun x => x.2.2)) s)

/-- The second LNS16 operand (R281). -/
def lnsOperand (s : State) (c : VCtx) (e : Nat) : Nat := src2 s c 16 e

/-- A log-domain instruction on two operands (Table 9-7). -/
def lnsOp (c : VCtx) (g : Nat → Nat → Nat × Nat) : Op Unit :=
  doing (mapActive c 16 fun s e => g (src1 c 16 e) (lnsOperand s c e))

/-! ### Conversion and quantisation -/

/-- VCVT (R271). -/
def effVcvt (src : BitVec 4) (c : VCtx) : Op Unit := do
  let sew := sewOf (← get)
  let d := c.f.fn4.toNat
  let ws := fmtWidth src.toNat sew
  convChecks c ws (fmtWidth d sew)
  let xs := signedByte (operand c) 0
  let xd := signedByte (operand c) 8
  doing (mapActive c (fmtWidth d sew) fun _ e =>
    convert src.toNat d sew (src1 c ws e) xs xd (extRm c) (extSat c) (draw c (convStream c) e))

/-- Width of the elements of a block-scaled vector by N (R267). -/
def blockWidth (c : VCtx) : Nat := if ext c 8 1 = 1 then 4 else 8

/-- A quantisation; `scale` gives a block's E from its decoded active elements (R20, R272). -/
def quantise (c : VCtx) (xs : Int) (scale : List Val → Nat) : Op Unit := do
  let sew := sewOf (← get)
  let ws := fmtWidth c.f.fn4.toNat sew
  let n := blockWidth c
  convChecks c ws n
  doing fun s =>
    let l := s.th.lanes
    let val := fun e => decodeFmt c.f.fn4.toNat sew (src1 c ws e) xs
    let blocks := (activeBlocks l c.f.mask 16).map fun b =>
      (b, activesIn l c.f.mask 16 b, scale ((activesIn l c.f.mask 16 b).map val))
    putBlocks c n (blocks.map fun b => (b.1, b.2.2))
      (blocks.flatMap fun b => b.2.1.map fun e =>
        (e, bsiElem (val e) b.2.2 n (extRm c) (draw c (convStream c) e))) s

/-- The largest magnitude of some values, NaN passed over (R20). -/
def amaxOf (vs : List Val) : Val := vs.foldl Val.larger (.zero false)

/-- VQNT: each block's own amax (R272). -/
def effVqnt (c : VCtx) : Op Unit :=
  quantise c (signedByte (operand c) 0) fun vs => bsiScale (amaxOf vs) (blockWidth c)

/-- VQNT.amax: the amax word of the scalar operand (R273). -/
def effVqntAmax (c : VCtx) : Op Unit :=
  quantise c (signedByte (operand c) 32) fun _ =>
    bsiScale (decodeFmt 5 32 (bitsOf (operand c).toNat 0 31) 0) (blockWidth c)

/-- VDQNT (R274). -/
def effVdqnt (c : VCtx) : Op Unit := do
  let sew := sewOf (← get)
  let d := c.f.fn4.toNat
  let n := blockWidth c
  convChecks c n (fmtWidth d sew)
  doing (mapActive c (fmtWidth d sew) fun _ e =>
    encodeFmt d sew (bsiValue (src1 c n e) (scaleOf (srcLanes c c.f.vs1) c.f.vs1.toNat (e / 16)) n) (extRm c) (extSat c)
      (signedByte (operand c) 8) (draw c (convStream c) e))

/-! ### Scale operations (R21, R278) -/

/-- An MX conversion: each MX block with an active element gives the byte of its two scales, of which one whose
block lies wholly at or beyond VL follows the tail bit (R278), and each of its active elements a result. -/
def mxBlocks (c : VCtx) (scale : Nat → Nat) (elem : Nat → Nat → Nat × Nat) : Op Unit := doing fun s =>
  let l := s.th.lanes
  let bs := activeBlocks l c.f.mask 32
  putBlocks c 8 ((bs.flatMap fun j => [(2 * j, scale j), (2 * j + 1, scale j)]).filter fun z => 16 * z.1 < l.vl.toNat)
    (bs.flatMap fun j => (activesIn l c.f.mask 32 j).map fun e => (e, elem j e)) s

/-- VSCL.mxin: MXINT8 to BSI8 (R21). -/
def effVsclMxin (c : VCtx) : Op Unit :=
  let x := fun j => scaleOf (srcLanes c c.f.vs1) c.f.vs1.toNat (2 * j)
  mxBlocks c (fun j => if x j = 255 then 255 else x j - 6) fun j e =>
    if x j = 255 then (0, flagInval)
    else
      (lowBits (roundShift (extRm c) (sextNat (src1 c 8 e) 8) (if x j ≥ 6 then 0 else (6 - x j : Nat))
        (draw c (convStream c) e)) 8, 0)

/-- VSCL.mxout: BSI8 to MXINT8 (R21); an element that a scale of 255 governs is a NaN input (R18, Table 1-4). -/
def effVsclMxout (c : VCtx) : Op Unit :=
  let z := fun b => scaleOf (srcLanes c c.f.vs1) c.f.vs1.toNat b
  let bad := fun j => z (2 * j) = 255 || z (2 * j + 1) = 255
  let x := fun j => if bad j then 255 else min (max (z (2 * j)) (z (2 * j + 1)) + 6) 254
  mxBlocks c x fun j e =>
    if bad j then (0, if z (e / 16) = 255 then flagInval else 0)
    else
      let (q, fl) := satFlag (roundShift (extRm c) (sextNat (src1 c 8 e) 8) ((x j : Int) - z (e / 16) - 6)
        (draw c (convStream c) e)) 8 true
      (lowBits q 8, fl)

/-- VSCL.adde: elements copied, scales moved by DE (R278). -/
def effVsclAdde (c : VCtx) : Op Unit := do
  let sew := sewOf (← get)
  convChecks c sew sew
  let de := sextNat (operand c).toNat 9
  doing fun s =>
    let l := s.th.lanes
    let bs := (activeBlocks l c.f.mask 16).map fun b =>
      let z := scaleOf (srcLanes c c.f.vs1) c.f.vs1.toNat b
      let y : Int := z + de
      let w := max 0 (min 254 y)
      if z = 255 then (b, 255, 0) else (b, w.toNat, flagIf (w != y) flagSat)
    let s := putResults c sew ((actives l c.f.mask).map fun e => (e, src1 c sew e)) (joinFlags (bs.map fun b => b.2.2)) s
    putScales c (bs.map fun b => (b.1, b.2.1)) s

/-- MXFP8 to FP32, for the elements' format code (R21, R278). -/
def mxFloat (c : VCtx) (code : Nat) : Op Unit := do
  convChecks c 8 32
  doing (mapActive c 32 fun _ e =>
    let x := scaleOf (srcLanes c c.f.vs1) c.f.vs1.toNat (2 * (e / 32))
    let v := if x = 255 then .nan else (decodeFmt code 8 (src1 c 8 e) 0).scale ((x : Int) - 127)
    encodeFmt 5 32 v (extRm c) (extSat c) 0 (draw c (convStream c) e))

/-- VSCL.mxe4m3. -/
def effVsclMxe4m3 (c : VCtx) : Op Unit := mxFloat c 8

/-- VSCL.mxe5m2. -/
def effVsclMxe5m2 (c : VCtx) : Op Unit := mxFloat c 9

/-! ### The Hadamard butterfly (R279) -/

/-- VHAD. -/
def effVhad (c : VCtx) : Op Unit := do
  let sew := sewOf (← get)
  convChecks c sew sew
  let st := bitsOf (operand c).toNat 0 4
  limit c (st ≤ 13)
  let d := 2 ^ st
  let h := bitAt (operand c).toNat 4
  doing (mapActive c sew fun s e =>
    let lo := decide (e / d % 2 = 0)
    let p := if lo then e + d else e - d
    let a := sextNat (src1 c sew e) sew
    let b := sextNat (src1 c sew p) sew
    let y := if p ≥ s.th.lanes.vl.toNat then a else if lo then a + b else b - a
    satOrWrap c (roundShift (extRm c) y h (draw c (convStream c) e)) sew true)

/-! ### The log domain (R281-R284) -/

/-- VLMUL. -/
def effVlmul (c : VCtx) : Op Unit := lnsOp c lnsMul
/-- VLDIV. -/
def effVldiv (c : VCtx) : Op Unit := lnsOp c lnsDiv
/-- VLADD. -/
def effVladd (c : VCtx) : Op Unit := lnsOp c lnsAdd
/-- VLSUB. -/
def effVlsub (c : VCtx) : Op Unit := lnsOp c lnsSub

/-- VLCMP (R282). -/
def effVlcmp (c : VCtx) : Op Unit :=
  doing (mapMask c fun s e => compares c.f.fn4.toNat (lnsRank (src1 c 16 e)) (lnsRank (lnsOperand s c e)))

/-- VLEXP (R283). -/
def effVlexp (c : VCtx) : Op Unit := do
  let sew := sewOf (← get)
  convChecks c sew 16
  let xs := signedByte (operand c) 0
  doing (mapActive c 16 fun _ e =>
    lnsPack false (roundShift (extRm c) (sextNat (src1 c sew e) sew) (-(xs + 8)) (draw c (convStream c) e)))

/-- VLLOG (R284). -/
def effVllog (c : VCtx) : Op Unit := do
  let sew := sewOf (← get)
  convChecks c 16 sew
  let xd := signedByte (operand c) 8
  doing (mapActive c sew fun _ e =>
    let a := src1 c 16 e
    if lnsZero a then (lowBits (-(2 : Int) ^ (sew - 1)) sew, flagSat)
    else
      let (z, fl) := satFlag (roundShift (extRm c) (lnsCode a) (8 + xd) (draw c (convStream c) e)) sew true
      (lowBits z sew, fl))

/-! ### Lane tables (R285, R286) -/

/-- The physical lane group of an element's group. -/
def groupOf (l : Lanes) (e : Nat) : Nat := posOf l.gmap e / 1024

/-- VTLU. -/
def effVtlu (c : VCtx) : Op Unit := do
  let sew := sewOf (← get)
  convChecks c sew sew
  let o := (operand c).toNat
  doing (mapActive c sew fun s e =>
    let i := src1 c sew e >>> bitsOf o 0 5
    let i := if bitAt o 5 = 1 ∧ i > 255 then 255 else i
    let t := laneTable s.th.lanes (ext c 8 3) (groupOf s.th.lanes e) (i % 256)
    (lowBits (if bitAt o 6 = 1 then sextNat t 16 else (t : Int)) sew, 0))

/-- VTLD: the table is loaded in every lane group held. -/
def effVtld (c : VCtx) : Op Unit := do
  let sew := sewOf (← get)
  convChecks c sew 0
  doing fun s => updLanes s fun l =>
    (onesBelow 16 l.gmap.toNat).foldl (fun l h => (List.range 256).foldl (fun l j =>
      setLaneTable l (ext c 8 3) h j (if j < l.vl.toNat then src1 c sew j else 0)) l) l

/-! ### Random bits (R288, R289) -/

/-- VRAND. -/
def effVrand (c : VCtx) : Op Unit := do
  let sew := sewOf (← get)
  convChecks c 0 sew
  doing (mapActive c sew fun _ e => (draw c (convStream c) e % 2 ^ sew, 0))

/-- SEED: its effect was made at posting (R289). -/
def effSeed (_ : VCtx) : Op Unit := pure ()

/-! ### The amax word (R275, R276) -/

/-- word := max(word, pattern) at some places, as memory holds it; a convoy in progress remembers it (R276). -/
def amaxUpdate (ps : List Nat) (x : Nat) (s : State) : State :=
  let bs := bytesOfNat 4 (max (natOfBytes (ps.map (memByte s))) x)
  let s := seeOwn true ps (continueMarks s (writePlaces s .device (placed ps bs)))
  { s with group := { s.group with amax := if s.group.active then s.group.amax ++ [(ps, x)] else s.group.amax } }

/-- An amax update of a convoy that stopped, made again: the thread's own earlier stores to the word come first (R276). -/
def amaxAgain (s : State) (u : List Nat × Nat) : State :=
  amaxUpdate u.1 u.2 (match (s.pending.filter fun x => x.thread == s.th.id && x.meets u.1).getLast? with
    | some y => performThrough s s.th.id y.serial
    | none => s)

/-- VAMAX (R275). -/
def effVamax (c : VCtx) : Op Unit := do
  let s ← get
  let sew := sewOf s
  let code := c.f.fn4.toNat
  let ws := fmtWidth code sew
  convChecks c ws 0
  let as := actives s.th.lanes c.f.mask
  if as.isEmpty then pure ()
  else
    let m := amaxOf (as.map fun e => decodeFmt code sew (src1 c ws e) 0)
    let p := match m with
      | .inf _ => 0x7F800000
      | .fin a e => (encodeFmt 5 32 (.fin a.natAbs e) .rup false 0 0).1
      | _ => 0
    let ps ← resolve (vecCtx s) c.e.opa 4 4 .atomic
    awaitPlaces ps
    awaitFillsOf ps
    forceStores fun x => x.meets ps && !heldStore s x
    checkWords ps c.e.opa 0
    doing fun s => l2Touch (amaxUpdate ps p s) ps .normal .write

end Sys2Proof.Machine
end

