-- ==== Sys2Proof/Machine/Vmem.lean ====
section
/-! DEFINITION. The effects of the VMEM instructions (R203-R226): element addresses, probes, loads, stores,
atomics, lane-private memory, append queues; and the queue loads of the access side (R196-R201). -/
namespace Sys2Proof.Machine

/-! ### Element addresses (R203-R206) -/

/-- The memory element width w (R203). -/
def memWidth (f : W64) (sew : Nat) : Nat :=
  match f.fn4.toNat with
  | 0 => sew
  | 1 => 1
  | 2 => 4
  | 3 => 8
  | 4 => 16
  | _ => 32

/-- Widths of whole bytes. -/
def byteWidth (w : Nat) : Bool := w == 8 || w == 16 || w == 32

/-- Address, bytes, low bit and misalignment of an element in one of the forms of Table 7-4. -/
structure ElemAddr where
  va : Word
  n : Nat
  sh : Nat
  bad : Bool
  deriving DecidableEq, Repr

/-- The effective base A = sb + sext(off16) (R204). -/
def baseAddr (c : VCtx) : Word := c.e.opc + c.f.x16.signExtend 64

/-- Unit stride (R206). -/
def unitAddr (a : Word) (w e : Nat) : ElemAddr :=
  let va := a + BitVec.ofNat 64 (w * e / 8)
  { va := va, n := (w * e % 8 + w + 7) / 8, sh := w * e % 8
    bad := if byteWidth w then va.toNat % (w / 8) != 0 else a.toNat % 4 != 0 }

/-- An address of its own for the element (R206). -/
def ownAddr (va : Word) (w : Nat) : ElemAddr := { va := va, n := w / 8, sh := 0, bad := va.toNat % (w / 8) != 0 }

/-- Strided: A + e · ss. -/
def strideAddr (c : VCtx) (w e : Nat) : ElemAddr := ownAddr (baseAddr c + BitVec.ofNat 64 e * c.e.opb) w

/-- idx(vi[e]) shifted by IXC.SHIFT (R204, R205). -/
def indexOf (c : VCtx) (sew e : Nat) : Word :=
  let x := elemOf (srcLanes c c.f.vs2) c.f.vs2.toNat sew e
  let v : Int := if bitAt c.e.opa.toNat 3 = 1 then sextNat x sew else x
  BitVec.ofInt 64 (v * (2 : Int) ^ bitsOf c.e.opa.toNat 0 3)

/-- Indexed: A + (idx(vi[e]) << SHIFT). -/
def indexAddr (c : VCtx) (sew w e : Nat) : ElemAddr := ownAddr (baseAddr c + indexOf c sew e) w

/-- The checks of R203 and R59 on a VMEM instruction: `own` for the strided and indexed forms, `wide` for
vector atomics; registers at SEW. -/
def vmemWidthsOk (f : W64) (sew : Nat) (own wide : Bool) (regs : List Reg) : Bool :=
  let w := memWidth f sew
  w ≤ sew && (!own || byteWidth w) && (!wide || w == 16 || w == 32) && regs.all fun r => pairOk r sew

/-! ### Probes and accesses (R208, R209) -/

/-- The FINFO field of an element index. -/
def elemInfo (e : Nat) : Nat := e * 2 ^ 16

/-- Every element is probed, the lowest first (R208). -/
def probe (x : Ctx) (acc : Access) (addr : Nat → ElemAddr) : List Nat → Op (List Elem)
  | [] => pure []
  | e :: es => do
    let a := addr e
    let ps ← resolveWith x a.va a.n a.bad acc (elemInfo e)
    let rest ← probe x acc addr es
    pure ({ e := e, va := a.va, ps := ps, sh := a.sh } :: rest)

/-- The elements of a store or atomic: those that it translated before it waited at one of them, or else all of them probed
(R208, R210). -/
def elemsOf (c : VCtx) (x : Ctx) (acc : Access) (addr : Nat → ElemAddr) (es : List Nat) : Op (List Elem) :=
  if c.e.els.isEmpty then probe x acc addr es else pure c.e.els

/-- One element read by its lane group, or as a scalar load reads when `lane` is false (R218); a line last written from
outside is logged (R462). DESIGN CHOICE (log 43): a corrected word that several elements read counts once for each of them
(R100). -/
def readElem (lane : Bool) (w : Nat) (pc : Word) (el : Elem) : Op (Nat × Nat) := do
  let s ← get
  let units := accessUnits el.va el.ps
  let bs ← if lane then readLane (groupOf s.th.lanes el.e) units el.va (elemInfo el.e)
    else do
      let (bs, _) ← readScalar false units el.va (elemInfo el.e)
      pure bs
  let v := (natOfBytes bs >>> el.sh) % 2 ^ w
  let s ← get
  let v ← if fromOutside s el.ps then do
      if lane then awaitLogged
      logElem 0x03 pc el.e v
    else pure v
  pure (el.e, v)

/-- Elements read, the lowest first: an uncorrectable word is 0x14 (R101). -/
def readElems (w : Nat) (pc : Word) : List Elem → Op (List (Nat × Nat))
  | [] => pure []
  | el :: es => do
    let x ← readElem true w pc el
    let rest ← readElems w pc es
    pure (x :: rest)

/-- Elements whose words can all be read: an uncorrectable one is 0x14, and what the elements up to it read is counted (R100,
R101). -/
def checkElems (els : List Elem) : Op Unit := fun s =>
  match els.find? fun el => (firstUncorr s el.ps).isSome with
  | some el => (fault 0x14 el.va (elemInfo el.e) : Op Unit)
      ((els.filter fun x => x.e ≤ el.e).foldl (fun t x => countRead t x.ps) s)
  | none => .ok () s

/-- The bits an element's store writes: each byte it touches keeps its other bits (R206). -/
def elemWrites (w : Nat) (el : Elem) (v : Nat) : List ByteWrite :=
  let n := el.ps.length
  (el.ps.zip ((bytesOfNat n ((v % 2 ^ w) * 2 ^ el.sh)).zip (bytesOfNat n ((2 ^ w - 1) * 2 ^ el.sh)))).map fun x =>
    { p := x.1, b := x.2.1, m := x.2.2 }

/-- One element to its lane group's store queue, once no line of it is owned and no queue load has yet to read it (R197,
R213, R344). -/
def storeElem (w : Nat) (x : Elem × Nat) : Op Unit := do
  awaitLines x.1.ps
  awaitFillsOf x.1.ps
  let s ← get
  commitUnits (some (groupOf s.th.lanes x.1.e)) none ((accessUnits x.1.va x.1.ps).map List.length) (elemWrites w x.1 x.2)

/-- Elements performed one by one, the lowest first, up to one that must wait: what they give, and that one with those after
it. -/
def eachElem {α : Type} (one : Elem × Nat → Op α) : List (Elem × Nat) → Op (List α × List Elem)
  | [] => pure ([], [])
  | x :: xs => fun s =>
    match one x s with
    | .ok y s' =>
      match eachElem one xs s' with
      | .ok (ys, e) s'' => .ok (y :: ys, e) s''
      | .error z s'' => .error z s''
    | .error (.wait _) s' => .ok ([], (x :: xs).map Prod.fst) (backOut s s')
    | .error z s' => .error z s'

/-- The wait of an instruction at its lowest element not yet performed: RESTART names it, the elements below stay
performed and the others translated (R208, R210, R211); a convoy waits as it began. -/
def waitAt (part : Bool) : List Elem → Op Unit
  | [] => pure ()
  | el :: els => fun s =>
    if s.group.active then .error (.wait false) s
    else .error (.wait true) (updTh s (updHead fun h =>
      { h with restart := BitVec.ofNat 20 el.e, part := h.part || part, els := el :: els }))

/-- What several elements of a store write in one uncorrectable word, as one write: an error that they cover ends, and
otherwise what they write is discarded and counted once (R102, log 28). -/
def storeWord (ws : List (Nat × ByteWrite)) (word : Nat) : Op Unit :=
  let mine := ws.filter fun x => (eccWord x.2.p).1 == word
  let lane := match (mine.map Prod.fst).eraseDups with
    | [h] => h
    | _ => severalLanes
  commitStore (some lane) none (mine.map Prod.snd)

/-- A store some of whose elements meet the uncorrectable words `bad`: it waits for all of its places, and each element's
bytes in other words are stored as ever, one by one where it spans chunks (R165). -/
def storeAround (w : Nat) (bad : List Nat) (els : List (Elem × Nat)) : Op Unit := do
  let ps := els.flatMap fun x => x.1.ps
  awaitLines ps
  awaitFillsOf ps
  let s ← get
  let inBad := fun p => bad.contains (eccWord p).1
  els.forM fun x =>
    if x.1.ps.any inBad then
      (accessUnits x.1.va x.1.ps).forM fun u =>
        let ws := (elemWrites w x.1 x.2).filter fun y => u.contains y.p && !inBad y.p
        if ws.isEmpty then pure () else commitStore (some (groupOf s.th.lanes x.1.e)) none ws
    else storeElem w x
  bad.forM (storeWord (els.flatMap fun x => (elemWrites w x.1 x.2).map fun y => (groupOf s.th.lanes x.1.e, y)))

/-- Elements stored in ascending order, so that the highest of two at one byte stays (R207). -/
def writeElemsMem (w : Nat) (els : List (Elem × Nat)) : Op Unit := do
  let s ← get
  let bad := badWords s (els.flatMap fun x => x.1.ps)
  if bad.isEmpty then
    let (done, left) ← eachElem (storeElem w) els
    waitAt (!done.isEmpty) left
  else storeAround w bad els

/-- The active elements from VSTART on (R215, R356). -/
def activesFrom (s : State) (c : VCtx) : List Nat :=
  (actives s.th.lanes c.f.mask).filter fun e => c.e.restart.toNat ≤ e

/-- A vector load of the given form (R215). -/
def loadElems (c : VCtx) (own : Bool) (regs : List Reg) (addr : Nat → Nat → ElemAddr) : Op Unit := do
  let s ← get
  let sew := sewOf s
  let w := memWidth c.f sew
  requires c (vmemWidthsOk c.f sew own false (c.f.vd :: regs))
  let els ← probe (vecCtx s) .read (addr w) (activesFrom s c)
  awaitLines (els.flatMap Elem.ps)
  awaitFillsOf (els.flatMap Elem.ps)
  modify nextVector
  let xs ← readElems w (c.e.addr.setWidth 64) els
  doing (putResults c sew xs 0)

/-- A vector store of the given form (R215). -/
def storeElems (c : VCtx) (own : Bool) (regs : List Reg) (addr : Nat → Nat → ElemAddr) : Op Unit := do
  let s ← get
  let sew := sewOf s
  let w := memWidth c.f sew
  requires c (vmemWidthsOk c.f sew own false (c.f.vd :: regs))
  let els ← elemsOf c (vecCtx s) .write (addr w) (activesFrom s c)
  writeElemsMem w (els.map fun el => (el, elemOf (srcLanes c c.f.vd) c.f.vd.toNat sew el.e % 2 ^ w))

/-- VLD. -/
def effVld (c : VCtx) : Op Unit := loadElems c false [] (unitAddr (baseAddr c))
/-- VLDS. -/
def effVlds (c : VCtx) : Op Unit := loadElems c true [] (strideAddr c)
/-- VLDX. -/
def effVldx (c : VCtx) : Op Unit := do
  let sew := sewOf (← get)
  loadElems c true [c.f.vs2] (indexAddr c sew)
/-- VST. -/
def effVst (c : VCtx) : Op Unit := storeElems c false [] (unitAddr (baseAddr c))
/-- VSTS. -/
def effVsts (c : VCtx) : Op Unit := storeElems c true [] (strideAddr c)
/-- VSTX. -/
def effVstx (c : VCtx) : Op Unit := do
  let sew := sewOf (← get)
  storeElems c true [c.f.vs2] (indexAddr c sew)

/-! ### First-fault loads (R216) -/

/-- The elements of a trimmed load with their values, and the element and cause that trimmed it. Later
elements are checked without fault service (log 18). -/
def firstFault (x : Ctx) (w : Nat) (pc : Word) (addr : Nat → ElemAddr) :
    Bool → List Nat → Op (List (Nat × Nat) × Option (Nat × BitVec 8))
  | _, [] => pure ([], none)
  | first, e :: es => fun s =>
    let one : Op (List (Nat × Nat)) := do
      let els ← probe (if first then x else { x with served := false }) .read addr [e]
      awaitLines (els.flatMap Elem.ps)
      awaitFillsOf (els.flatMap Elem.ps)
      readElems w pc els
    match one s with
    | .ok xs s' =>
      match firstFault x w pc addr false es s' with
      | .ok (ys, t) s'' => .ok (xs ++ ys, t) s''
      | .error e s'' => .error e s''
    | .error (.trap t k) s' => if first then .error (.trap t k) s' else .ok ([], some (e, t.cause)) (rollback s s')
    | .error z s' => .error z s'

/-- VLDFF. -/
def effVldff (c : VCtx) : Op Unit := do
  let s ← get
  let sew := sewOf s
  let w := memWidth c.f sew
  requires c (vmemWidthsOk c.f sew false false [c.f.vd])
  modify nextVector
  let (xs, t) ← firstFault (vecCtx s) w (c.e.addr.setWidth 64) (unitAddr (baseAddr c) w) true (activesFrom s c)
  let ftr := match t with
    | some (e, cause) => 2 ^ 63 + cause.toNat * 2 ^ 48 + e
    | none => s.th.lanes.vl.toNat
  doing fun s => updTh (putResults c sew xs 0 s) fun th => { th with csr := { th.csr with ftr := BitVec.ofNat 64 ftr } }

/-! ### Lane-private memory (R217) -/

/-- Bits in the lane-private memory of a lane group (R161). -/
def lanePrivateBits : Nat := 262144

/-- The bit offset of an element, checked (R217). -/
def laneOffset (c : VCtx) (sew w e : Nat) : Op Nat := do
  let o := c.e.opc.toNat + elemOf (srcLanes c c.f.vs2) c.f.vs2.toNat sew e
  if o + w > lanePrivateBits then fault 0x0A (BitVec.ofNat 64 o) (elemInfo e + 0x05) else pure o

/-- Offsets of the active elements, the lowest first. -/
def laneOffsets (c : VCtx) (sew w : Nat) : List Nat → Op (List (Nat × Nat))
  | [] => pure []
  | e :: es => do
    let o ← laneOffset c sew w e
    let rest ← laneOffsets c sew w es
    pure ((e, o) :: rest)

/-- The bytes of lane-private memory that `w` bits at offset `o` touch. -/
def laneBytes (o w : Nat) : List Nat := (List.range ((o % 8 + w + 7) / 8)).map fun i => o / 8 + i

/-- `w` bits at a bit offset of a lane group's memory. -/
def laneBits (l : Lanes) (h o w : Nat) : Nat :=
  (natOfBytes ((laneBytes o w).map fun b => smGet l.lp (32768 * h + b)) >>> (o % 8)) % 2 ^ w

/-- The places, for their ECC words, of an element's bytes in lane-private memory. -/
def lanePlaces (s : State) (e o w : Nat) : List Nat :=
  (laneBytes o w).map fun b => placeLp (coreOf s.th) (groupOf s.th.lanes e) b

/-- VLDL. -/
def effVldl (c : VCtx) : Op Unit := do
  let s ← get
  let sew := sewOf s
  let w := memWidth c.f sew
  requires c (vmemWidthsOk c.f sew false false [c.f.vd, c.f.vs2])
  let os ← laneOffsets c sew w (activesFrom s c)
  let count := fun (xs : List (Nat × Nat)) (s : State) => xs.foldl (fun t x => countRead t (lanePlaces s x.1 x.2 w)) s
  match os.find? fun x => (firstUncorr s (lanePlaces s x.1 x.2 w)).isSome with
  | some x => do
    modify (count (os.filter fun y => y.1 ≤ x.1))
    fault 0x14 (BitVec.ofNat 64 x.2) (elemInfo x.1)
  | none => doing fun s =>
    let s := count os s
    putResults c sew (os.map fun x => (x.1, laneBits s.th.lanes (groupOf s.th.lanes x.1) x.2 w)) 0 s

/-- The bits that an element stored at a bit offset writes, at the places of its bytes. -/
def laneWrites (s : State) (w e o v : Nat) : List ByteWrite :=
  elemWrites w { e := e, va := 0, ps := lanePlaces s e o w, sh := o % 8 } v

/-- Lane-private memory written by one instruction: a word that it covers ends its error, and what it writes of another
uncorrectable word is discarded (R102, R162). -/
def writeLanes (s : State) (ws : List ByteWrite) : State :=
  let base := placeLp (coreOf s.th) 0 0
  let put := fun (m : List (Nat × Byte)) (b : ByteWrite) => smSet m (b.p - base) (mergeByte (smGet m (b.p - base)) b)
  { updLanes ((brokenWords s ws).foldl countUncorr s) fun l => { l with lp := (keptWrites s ws).foldl put l.lp } with
    uncorr := s.uncorr.filter fun u => !coversWord ws u, corr := s.corr.filter fun u => !coversWord ws u }

/-- VSTL: ascending, so that the highest of two elements at the same bits stays (R207). -/
def effVstl (c : VCtx) : Op Unit := do
  let s ← get
  let sew := sewOf s
  let w := memWidth c.f sew
  requires c (vmemWidthsOk c.f sew false false [c.f.vd, c.f.vs2])
  let os ← laneOffsets c sew w (activesFrom s c)
  doing fun s => writeLanes s (os.flatMap fun x =>
    laneWrites s w x.1 x.2 (elemOf (srcLanes c c.f.vd) c.f.vd.toNat sew x.1))

/-! ### Vector atomics and conflicts (R220, R221) -/

/-- One element's read-modify-write at its home, logged (R462); gives the old value. Its lane group finds what it reads
(R345). -/
def atomicElem (w : Nat) (pc : Word) (g : Nat → Nat → Nat) (x : Elem × Nat) : Op (Nat × Nat) := do
  let el := x.1
  awaitFillsOf el.ps
  awaitLogged
  let s ← get
  let bs ← readAt (fun ps t => noteLane (groupOf s.th.lanes el.e) ps t.now t) el.ps el.va (elemInfo el.e)
  let old ← logElem 0x02 pc el.e (natOfBytes bs)
  doing fun s => seeOwn true el.ps (l2Touch (continueMarks s
    (writePlaces s .device (placed el.ps (bytesOfNat (w / 8) (g old x.2 % 2 ^ w))))) el.ps .normal .write)
  pure (el.e, old)

/-- A vector atomic: vd gives the operands and receives the old values, in ascending element order (R220). -/
def vectorAtomic (c : VCtx) (g : Nat → Nat → Nat → Nat) : Op Unit := do
  let s ← get
  let sew := sewOf s
  let w := memWidth c.f sew
  requires c (vmemWidthsOk c.f sew true true [c.f.vd, c.f.vs2])
  let els ← elemsOf c (vecCtx s) .atomic (indexAddr c sew w) (activesFrom s c)
  checkElems (if s.uncorr.isEmpty then [] else els)
  if c.e.els.isEmpty then modify nextVector
  let (xs, left) ← eachElem (atomicElem w (c.e.addr.setWidth 64) (g w))
    (els.map fun el => (el, elemOf s.th.lanes c.f.vd.toNat sew el.e % 2 ^ w))
  doing (putResults c sew xs 0)
  waitAt (!xs.isEmpty) left

/-- The larger or smaller of two w-bit values, unsigned when IXC.UC = 1 (R205, R220). -/
def atomicPick (c : VCtx) (greater : Bool) (w old d : Nat) : Nat :=
  let t := typed (bitAt c.e.opa.toNat 4 == 1) w
  if (if greater then t old < t d else t d < t old) then d else old

/-- VAMOADD. -/
def effVamoadd (c : VCtx) : Op Unit := vectorAtomic c fun _ old d => old + d
/-- VAMOMAX. -/
def effVamomax (c : VCtx) : Op Unit := vectorAtomic c (atomicPick c true)
/-- VAMOMIN. -/
def effVamomin (c : VCtx) : Op Unit := vectorAtomic c (atomicPick c false)
/-- VAMOXCHG. -/
def effVamoxchg (c : VCtx) : Op Unit := vectorAtomic c fun _ _ d => d

/-- VCONFL: lower active elements at the same address, counted, for the elements from VSTART on (R221, R356). -/
def effVconfl (c : VCtx) : Op Unit := do
  let s ← get
  let sew := sewOf s
  requires c (pairOk c.f.vd sew && pairOk c.f.vs2 sew)
  let as := (actives s.th.lanes c.f.mask).map fun e => (e, baseAddr c + indexOf c sew e)
  doing (putResults c sew ((as.filter fun x => c.e.restart.toNat ≤ x.1).map fun x =>
    (x.1, min ((as.filter fun y => y.1 < x.1 && y.2 == x.2).length) (2 ^ sew - 1))) 0)

/-! ### Append queues (R222-R224) -/

/-- An append event reaches the event latch (R224, Table 7-9). -/
def postEvent (desc : Word) (th : Thread) : Thread :=
  { th with latch := some (match th.latch with
    | some w => w ||| BitVec.ofNat 64 (2 ^ 59)
    | none => BitVec.ofNat 64 (2 ^ 60 + bitsOf desc.toNat 6 50 * 2 ^ 6)) }

/-- Every append entry is performed before the event of an append that crosses a strip, and waits for that (R223): RESTART
then says that no entry is left to write. -/
def appendEvent (c : VCtx) (t n : Nat) : Op Unit := do
  let s ← get
  let vlmax := vlmaxOf s.th.lanes
  if (t + n) / vlmax > t / vlmax then
    modify fun s => updTh s (updHead fun e => { e with restart := BitVec.allOnes 20, els := [] })
    forceStores laneStore
    doing fun s => updTh s (postEvent c.e.opc)

/-- An operation whose waits keep what has been done. -/
def keepWaits {α : Type} (m : Op α) : Op α := fun s =>
  match m s with
  | .error (.wait _) s' => .error (.wait true) s'
  | r => r

/-- The VIQ's head with its reservation recorded, and the ring entries that it has translated (R208, R211). -/
def noteReserved (t n : Nat) (els : List Elem) (s : State) : State :=
  updTh s (updHead fun e => { e with reserved := some (t, n), els := els })

/-- The elements of an append: the active ones from VSTART on, or those of its reservation (R211, R223, R356). -/
def appendElems (s : State) (c : VCtx) : List Nat :=
  match c.e.reserved with
  | some r =>
    let as := actives s.th.lanes c.f.mask
    as.drop (as.length - r.2)
  | none => activesFrom s c

/-- The descriptor's rules (Table 7-8). -/
def appendOk (bs : List Byte) (n : Nat) : Bool :=
  let sz := bitsOf (dwordOf bs 1) 0 5
  decide (4 ≤ sz) && decide (sz ≤ 24) && dwordOf bs 0 % 4 == 0 && decide (dwordOf bs 1 < 32) &&
  (bs.drop 32).all (· == 0) && decide (n ≤ 2 ^ sz)

/-- The reservation: HEAD acquired, then TAIL moved on by a compare-and-swap, when the ring has room (R223). -/
def reserveEntries (ps : List Nat) (bs : List Byte) (n : Nat) : Op Nat := do
  let t := dwordOf bs 2
  if (t + n - dwordOf bs 3) % 2 ^ 64 > 2 ^ bitsOf (dwordOf bs 1) 0 5 then waits
  let s ← get
  acquire 4 (ps.drop 24 |>.take 8) s.now
  fun s => match writeBytes ((ps.drop 16).take 8) (bytesOfNat 8 (t + n)) s with
    | .ok _ s' => .ok t (continueMarks s s')
    | .error x s' => .error x s'

/-- The entries of an append that has reserved them, and its event. -/
def writeEntries (c : VCtx) (t n : Nat) (els : List Elem) : Op Unit := keepWaits do
  writeElemsMem 32 (els.map fun el => (el, 2 ^ 31 + (c.e.opa.toNat + el.e) % 2 ^ 31))
  appendEvent c t n

/-- VCAPP. Its one atomic is the compare-and-swap on TAIL, which must keep to a chunk of a window (R165). DESIGN CHOICE (log
43): the 64 bytes of the descriptor are one access of the kind of an atomic, whose fault is 0x08 or 0x09 with element index 0
in FINFO (R209 names neither). -/
def effVcapp (c : VCtx) : Op Unit := do
  let s ← get
  let as := appendElems s c
  let n := as.length
  if n = 0 then pure ()
  else if c.e.reserved.isSome && (!c.e.els.isEmpty || c.e.restart == BitVec.allOnes 20) then
    writeEntries c (c.e.reserved.getD (0, 0)).1 n c.e.els
  else
    let x := vecCtx s
    let d := c.e.opc
    let ps ← resolveWith x d 64 (d.toNat % 64 != 0) .atomic 0 false
    if isWindow d.toNat && spansChunk (d.toNat + 16) 8 then fault 0x06 (d + 16) 0
    awaitFillsOf ps
    let bs ← readBytes ps d 0
    if !appendOk bs n then fault 0x05 (c.e.addr.setWidth 64) 0x04
    else
      let sz := bitsOf (dwordOf bs 1) 0 5
      let t := match c.e.reserved with
        | some r => r.1
        | none => dwordOf bs 2
      let ring := BitVec.ofNat 64 (dwordOf bs 0)
      let rank := fun e => (as.filter (· < e)).length
      let els ← probe x .write (fun e => ownAddr (ring + BitVec.ofNat 64 (4 * ((t + rank e) % 2 ^ sz))) 32)
        (as.filter fun e => c.e.reserved.isNone || decide (c.e.restart.toNat ≤ e))
      if c.e.reserved.isNone then
        let _ ← reserveEntries ps bs n
        doing (noteReserved t n els)
      writeEntries c t n els

/-! ### Order and prefetch (R225, R226) -/

/-- LSYNC: the stores of every lane group of the thread are performed at their homes, every agent finds them in this
place, and the thread's later vector accesses follow (R225, R345). -/
def effLsync (_ : VCtx) : Op Unit := do
  forceStores laneStore
  doing fun s => vectorFrom s.now (publish true s)

/-- One element's lines are prefetched where its access would succeed (R226); the errors of its words are counted (R100,
R101). -/
def prefetchElem (x : Ctx) (cls : L2Class) (a : ElemAddr) (s : State) : State :=
  if a.bad || isWindow a.va.toNat then s
  else match resolveWith { x with served := false } a.va a.n false .read 0 true s with
    | .ok ps s' =>
      let s' := countRead s' ps
      if (firstUncorr s' ps).isSome then s' else l2Touch s' ps cls .peek
    | .error _ s' => rollback s s'

/-- VPREF. -/
def effVpref (c : VCtx) : Op Unit := do
  let s ← get
  let sew := sewOf s
  let w := memWidth c.f sew
  requires c (vmemWidthsOk c.f sew false false [])
  let cls : L2Class := match c.f.vd.toNat with
    | 1 => .keep
    | 2 => .once
    | _ => .normal
  doing fun s => (activesFrom s c).foldl
    (fun s e => prefetchElem (vecCtx s) cls (unitAddr (baseAddr c) w e) s) s

/-! ### Queue loads: the access side (R196-R201, R218, R219) -/

/-- SEW at the scalar side's place in program order: SETVTs still in the VIQ come first (R196, R239). -/
def programSew (th : Thread) : Nat :=
  th.viq.foldl (fun w e => match e.insn with
    | .setvt f => (fieldOf f.x16 0 6).toNat
    | _ => w) th.lanes.sew.toNat

/-- 128-byte units of the stream-buffer share that an entry occupies (R197). -/
def entryUnits (vl sew : Nat) : Nat := max 1 (ceilDiv (vl * sew) 1024)

/-- The units an entry occupies. -/
def unitsOf (e : QEntry) : Nat := entryUnits e.vl.toNat e.sew.toNat

/-- Every entry of a thread's queues. -/
def queueEntries (th : Thread) : List QEntry := th.q.toList.flatten

/-- Units of the share that are taken (R197). -/
def unitsUsed (th : Thread) : Nat := (queueEntries th).foldl (fun n e => n + unitsOf e) 0

/-- Units in a thread's share. -/
def shareUnits : Nat := 1024

/-- Offset `o` with `n` units overlaps no entry and stays in the share. -/
def unitsFree (es : List QEntry) (o n : Nat) : Bool :=
  decide (o + n ≤ shareUnits) && es.all fun e => decide (o + n ≤ e.doff.toNat) || decide (e.doff.toNat + unitsOf e ≤ o)

/-- The entries of a queue moved to consecutive offsets from `o` on, and the next offset. -/
def packQueue (es : List QEntry) (o : Nat) : List QEntry × Nat :=
  es.foldl (fun r e => (r.1 ++ [{ e with doff := BitVec.ofNat 10 r.2 }], r.2 + unitsOf e)) ([], o)

/-- The queues with every entry moved down, and the first free offset. -/
def packQueues (th : Thread) : Thread × Nat :=
  (List.range 8).foldl (fun r q =>
    let (es, o) := packQueue (r.1.q.toList.getD q []) r.2
    ({ r.1 with q := r.1.q.setIfInBounds q es }, o)) (th, 0)

/-- A thread with room for an entry of `n` units, and its offset. -/
def placeEntry (th : Thread) (n : Nat) : Thread × Nat :=
  let es := queueEntries th
  match (0 :: es.map fun e => e.doff.toNat + unitsOf e).find? fun o => unitsFree es o n with
  | some o => (th, o)
  | none => packQueues th

/-- Cause 0x0F (Table 7-1, Table 14-19). -/
def queueMisuse {α : Type} (pc : Word) (q case : Nat) : Op α := fault 0x0F pc (q + case * 2 ^ 8)

/-- Room for one more entry of a queue, or the wait or trap of R200. -/
def awaitRoom (q : BitVec 3) (units : Nat) : Op Unit := do
  let s ← get
  let th := s.th
  let claims := th.viq.any fun e => e.claimed && e.queue == q
  if (th.q[q.toNat]).length ≥ th.csr.rad.toNat then
    if claims then waits else queueMisuse th.pc q.toNat 3
  else if unitsUsed th + units > shareUnits then
    if th.viq.any fun e => e.claimed then waits else queueMisuse th.pc q.toNat 3
  else pure ()

/-- An entry with a failed element recorded, the lowest of those that failed (R201). -/
def recordFailure (ent : QEntry) (el : Elem) (t : Trap) : QEntry :=
  if ent.failed && decide (ent.felem < el.e) then ent
  else { ent with failed := true, cause := t.cause, faddr := t.faddr, felem := el.e }

/-- Elements of an entry read as relaxed scalar loads read (R218); one whose line is owned is left for later, and an
uncorrectable word is recorded (R201). -/
def fillElems : List Elem → QEntry → State → QEntry × State
  | [], ent, s => (ent, s)
  | el :: es, ent, s =>
    match readElem false ent.width ent.pc el s with
    | .ok x s' => fillElems es { ent with data := ent.data.set el.e x.2 } s'
    | .error (.trap t _) s' => fillElems es (recordFailure ent el t) (rollback s s')
    | .error _ s' => fillElems es { ent with src := ent.src ++ [el] } (backOut s s')

/-- The elements an entry has yet to read, read now as far as they can be. -/
def fillEntry (ent : QEntry) (s : State) : QEntry × State := fillElems ent.src { ent with src := [] } s

/-- The legality of a queue load, which SEW decides at its place in program order (R71, R196). -/
def queueLegal (i : Instr) (f : W64) (own : Bool) (regs : List Reg) : Op Unit := fun s =>
  if vmemWidthsOk f (programSew s.th) own false regs then .ok () s
  else (illegalEntry { conv := false, member := 0, cnt := 0, addr := s.th.pc.setWidth 56, insn := i } : Op Unit) s

/-- A queue load of the given form (R218). It follows the queue loads that have yet to read a byte of its own (R335). -/
def queueLoad (i : Instr) (f : W64) (addr : VCtx → Nat → Nat → ElemAddr) : Op Unit := do
  let s ← get
  let sew := programSew s.th
  let e : VEntry := { conv := false, member := 0, cnt := 0, addr := s.th.pc.setWidth 56, insn := i
                      opa := getR s f.rs, opb := getR s f.vs2, opc := getR s f.vs1 }
  let c : VCtx := { e := e, f := f, src := s.th.lanes }
  let q := fieldOf f.vd 0 3
  let vl := s.th.lanes.vl.toNat
  let w := memWidth f sew
  awaitLog
  awaitRoom q (entryUnits vl sew)
  let els ← probe (curCtx s) .read (addr c w) (List.range vl)
  awaitFillsOf (els.flatMap Elem.ps)
  let (th, o) := placeEntry s.th (entryUnits vl sew)
  doing fun s =>
    let s := updTh s fun t => { t with q := th.q, csr := { t.csr with vstart := 0 } }
    let (ent, s) := fillEntry
      { vl := s.th.lanes.vl, sew := BitVec.ofNat 6 sew, arrived := false, doff := BitVec.ofNat 10 o
        width := w, pc := s.th.pc, src := els, data := List.replicate vl 0 } s
    advance (updTh s fun t => { t with q := t.q.set q.toNat (t.q[q.toNat] ++ [ent]) }) 8

/-- A queue with its oldest entry that has not arrived filled, when it can be (R201). -/
def arriveOldest : List QEntry → State → List QEntry × State
  | [], s => ([], s)
  | e :: rest, s =>
    if e.arrived then
      let (r, s) := arriveOldest rest s
      (e :: r, s)
    else
      let (e', s) := fillEntry e s
      ({ e' with arrived := e'.src.isEmpty } :: rest, s)

/-- An element of a queue load translated again; its fault is recorded in the entry (R201, R210, log 18). -/
def retranslate (c : Ctx) : List Elem → QEntry → State → QEntry × State
  | [], ent, s => (ent, s)
  | el :: es, ent, s =>
    match resolveWith { c with served := false } el.va el.ps.length false .read (elemInfo el.e) true s with
    | .ok ps s' => retranslate c es { ent with src := ent.src ++ [{ el with ps := ps }] } s'
    | .error (.trap t _) s' => retranslate c es (recordFailure ent el t) (rollback s s')
    | .error _ s' => retranslate c es { ent with src := ent.src ++ [el] } s'

/-- The entries of a queue with the elements they have yet to read translated again. -/
def retranslateQueue (c : Ctx) : List QEntry → State → List QEntry × State
  | [], s => ([], s)
  | e :: es, s =>
    let (e, s) := retranslate c e.src { e with src := [] } s
    let (r, s) := retranslateQueue c es s
    (e :: r, s)

/-- Every queue of the thread whose turn it is, so. -/
def retranslateQueues (s : State) : State :=
  (List.range 8).foldl (fun s q =>
    let (es, s) := retranslateQueue (curCtx s) (s.th.q.toList.getD q []) s
    updTh s fun t => { t with q := t.q.setIfInBounds q es }) s

end Sys2Proof.Machine
end

