-- ==== Sys2Proof/Machine/Context.lean ====
section
/-! DEFINITION. Contexts: the kept-entry words (R430), the save area and its sequencer (R437-R443), and the
state of a thread at task entry and at resumption (R388, R442). -/
namespace Sys2Proof.Machine

/-! ### Kept entries as words (Table 14-8) -/

/-- A 64-bit instruction as a number; 0 for what has no such word. -/
def insnWord (i : Instr) : Nat :=
  match encode i with
  | some [a, b] => a.toNat + b.toNat * 2 ^ 32
  | _ => 0

/-- The ten words of an entry. -/
def entryWords (e : VEntry) : List Nat :=
  [e.conv.toNat * 2 ^ 63 + e.member.toNat * 2 ^ 60 + e.cnt.toNat * 2 ^ 57 + e.addr.toNat, insnWord e.insn,
   e.skip.toNat * 2 ^ 31 + e.queue.toNat * 2 ^ 21 + e.claimed.toNat * 2 ^ 20 + e.restart.toNat,
   e.opa.toNat, e.opb.toNat, e.opc.toNat, e.opd.toNat,
   e.devthr.toNat * 2 ^ 48 + e.rmode.toNat * 2 ^ 32 + e.bmask.toNat, e.gkey.toNat, e.gcnt.toNat]

/-- The instruction of a 64-bit word; NOP stands for a word that is none. -/
def wordInsn (w : Nat) : Instr :=
  match decode [BitVec.ofNat 32 w, BitVec.ofNat 32 (w / 2 ^ 32)] with
  | .ok i => i
  | .error _ => .nop

/-- The entry of ten words; `bad` when its record held an uncorrectable word (R443). -/
def wordsEntry (ws : List Nat) (bad : Bool) : VEntry :=
  let w := fun i => ws.getD i 0
  { begun := false
    part := (match wordInsn (w 1) with
      | .vst _ | .vsts _ | .vstx _ | .vstl _ | .vamoadd _ | .vamomax _ | .vamomin _ | .vamoxchg _ =>
        decide (w 2 % 2 ^ 20 ≠ 0)
      | _ => false)
    conv := bitAt (w 0) 63 == 1, member := BitVec.ofNat 3 (w 0 / 2 ^ 60), cnt := BitVec.ofNat 3 (w 0 / 2 ^ 57)
    addr := BitVec.ofNat 56 (w 0), insn := wordInsn (w 1), skip := bad || bitAt (w 2) 31 == 1
    queue := BitVec.ofNat 3 (w 2 / 2 ^ 21), claimed := bitAt (w 2) 20 == 1, restart := BitVec.ofNat 20 (w 2)
    opa := BitVec.ofNat 64 (w 3), opb := BitVec.ofNat 64 (w 4), opc := BitVec.ofNat 64 (w 5)
    opd := BitVec.ofNat 64 (w 6), devthr := BitVec.ofNat 16 (w 7 / 2 ^ 48), rmode := BitVec.ofNat 3 (w 7 / 2 ^ 32)
    bmask := BitVec.ofNat 32 (w 7), gkey := BitVec.ofNat 64 (w 8), gcnt := BitVec.ofNat 32 (w 9) }

/-! ### The image of a context (Tables 14-11 to 14-15) -/

/-- GANG (Table 12-2). -/
def gangCsr (t : Task) : Word :=
  BitVec.ofNat 64 (if recInGang t.launch then recGid t.launch * 2 ^ 32 + recGsize t.launch * 2 ^ 16 + t.rank % 256
    else 2 ^ 16)

/-- Bytes of an area (R438). -/
def saveSize (vec : Bool) (grant : Nat) : Nat := 0x22000 + (if vec then grant * 0x1A000 else 0)

/-- The header of a save of a thread (Table 14-12). -/
def saveHeader (th : Thread) (t : Task) (forced : Bool) (pc vcp : BitVec 56) : List Nat :=
  let l := th.lanes
  let g := laneCount l.gmap
  let vstart := match th.viq with
    | e :: _ => e.restart
    | [] => th.csr.vstart
  [2 ^ 56 + (recAspace t.launch).toNat * 2 ^ 32 + t.id.toNat, pc.toNat, vcp.toNat,
   l.gmap.toNat * 2 ^ 48 + g * 2 ^ 24 + l.sew.toNat * 2 ^ 16 + l.vl.toNat, th.viq.length * 2 ^ 20 + vstart.toNat,
   (gangCsr t).toNat, forced.toNat * 4 + forced.toNat * 2 + 1, saveSize forced g] ++ List.replicate 8 0

/-- The CSR block (Table 14-13). -/
def saveCsrs (th : Thread) (t : Task) : List Nat :=
  let c := th.csr
  [c.rmode.toNat, c.rad.toNat, c.gkey.toNat, c.gcnt.toNat, c.ftr.toNat, c.bmask.toNat, c.devthr.toNat,
   c.wdogElapsed.toNat * 2 ^ 32 + c.wdog.toNat, c.sflags.toNat, th.trap.tvec.toNat, th.trap.tstack.toNat,
   t.arrived.toNat * 2 ^ 32 + t.barK.toNat, (th.latch.getD 0).toNat, th.latch.isSome.toNat, 0, 0]

/-- A list of numbers cut or filled with zeros to a length. -/
def fitTo (n : Nat) (xs : List Nat) : List Nat := (xs ++ List.replicate n 0).take n

/-- The record of a load-queue entry (Table 14-14). -/
def queueRecord (e : QEntry) : List Nat :=
  [2 ^ 63 + e.claimed.toNat * 2 ^ 62 + e.failed.toNat * 2 ^ 61 + e.cause.toNat * 2 ^ 48 + e.doff.toNat * 2 ^ 32 +
    e.sew.toNat * 2 ^ 16 + e.vl.toNat, e.faddr.toNat]

/-- The thread's stream-buffer share: each entry's packed image at its offset (R12). -/
def shareImage (th : Thread) : List Byte :=
  bytesOfNat 131072 ((queueEntries th).foldl (fun x e => x + 2 ^ (1024 * e.doff.toNat) * packBits e.sew.toNat e.data) 0)

/-- A byte whose bits are the given truth values. -/
def bitsByte (f : Nat → Bool) : Byte := BitVec.ofNat 8 ((List.range 8).foldl (fun x i => x + (f i).toNat * 2 ^ i) 0)

/-- `n` bytes from their bits. -/
def packBools : Nat → List Bool → List Byte
  | 0, _ => []
  | n + 1, bs => bitsByte (fun k => bs.getD k false) :: packBools n (bs.drop 8)

/-- The vector part of physical lane group `h` (Table 14-15). -/
def laneImage (l : Lanes) (h : Nat) : List Byte :=
  ((List.range 32).flatMap fun r =>
    let row := smRange 1024 (16384 * r + 1024 * h) l.v
    (List.range 16).flatMap fun i => packBools 128 (row.map fun x => x.getLsbD i)) ++
  ((List.range 8).flatMap fun r => packBools 128 (smRange 1024 (16384 * r + 1024 * h) l.k)) ++
  ((List.range 32).flatMap fun r => smRange 64 (1024 * r + 64 * h) l.z) ++
  ((List.range 8).flatMap fun n => (List.range 256).flatMap fun e => bytesOfNat 2 (laneTable l n h e)) ++
  List.replicate 1024 0 ++ smRange 32768 (32768 * h) l.lp

/-- The whole image of a save, COMPLETE = 1. -/
def saveImage (th : Thread) (t : Task) (forced : Bool) (pc vcp : BitVec 56) : List Byte :=
  dwords (saveHeader th t forced pc vcp ++ ((0 :: (List.range 63).map fun i => (th.sr.toList.getD (i + 1) 0).toNat) ++
    saveCsrs th t ++ fitTo 640 (th.viq.flatMap entryWords) ++
    (th.q.toList.flatMap fun q => fitTo 32 (q.flatMap queueRecord)) ++ List.replicate 32 0)) ++
  shareImage th ++ (if forced then (onesBelow 16 th.lanes.gmap.toNat).flatMap (laneImage th.lanes) else [])

/-! ### Saving (R437-R441) -/

/-- What comes of a save. -/
inductive Saved where
  /-- a fill or an owned line is waited for (R175, R202) -/
  | waits
  /-- refused or aborted: the member goes on (R407, R441) -/
  | failed (s : State)
  | done (s : State)
  deriving DecidableEq, Repr

/-- A save was refused or failed: the request ends, the gang is not pre-emptible, and its stopped members
come back first (R407, R408). -/
def failedSave (s : State) (base : BitVec 32) : State :=
  { s with tasks := s.tasks.map fun t =>
      if t.base == base then
        { t with
          pend := false, graceOut := false, noPreempt := true
          urgent := match t.status with
            | .saved _ _ => true
            | _ => t.urgent }
      else t }

/-- The fills of a queue completed, as far as owned lines let them. -/
def arriveQueue : Nat → List QEntry → State → List QEntry × State
  | 0, es, s => (es, s)
  | n + 1, es, s =>
    let (es, s) := arriveOldest es s
    arriveQueue n es s

/-- The package with every fill of the thread at its turn completed, when that is possible (R202). -/
def arriveAll (s : State) : Option State :=
  let s := (List.range 8).foldl (fun s q =>
    let (es, s) := arriveQueue 16 (s.th.q.toList.getD q []) s
    updTh s fun th => { th with q := th.q.setIfInBounds q es }) s
  if (queueEntries s.th).all fun e => e.arrived then some s else none

/-- The whole lines of an aborted save's area that were written before the fault: any of them, but for the doubleword
at 0x30, which has been written (R440, R441). -/
def partLines (k : Nat) (rs : List (Reached × Byte)) : List (Nat × Byte) :=
  ((List.range rs.length).zip rs).filterMap fun (i, r, b) =>
    match r with
    | .ok p => if Config.freeBit (k + i / 128) && !(decide (0x30 ≤ i) && decide (i < 0x38)) then some (p, b) else none
    | .error _ => none

/-- Bytes written past every cache, no copy remaining (R440). -/
def writePast (s : State) (ws : List (Nat × Byte)) : State :=
  let lines := linesOf (ws.map Prod.fst)
  let s := l2Invalidate (writePlaces s .device ws) lines
  let s := { s with l1i := s.l1i.filter fun l => !lines.contains l.pa }
  lines.foldl hostTransfer s

/-- The dispatcher's rounds of a module. -/
def roundsOf (s : State) (m : Nat) : Nat := (smGet s.disp m).rounds

/-- The image written, or the abort of R441. -/
def writeSave (s : State) (t : Task) (sv : Word) (image : List Byte) : Saved :=
  let c := taskCtx t (coreOf s.th)
  let (rs, s) := reachBytes c .write sv image.length s
  if mustWait s (somePlaces rs) then .waits
  else
    let first := (rs.drop 0x30).take 8
    let mode := (image.drop 0x30).take 8
    match allPlaces rs with
    | some ps => .done (writePast s (placed ps image))
    | none => match allPlaces first with
      | none => .failed (failedSave s t.base)
      | some ps =>
        let s := writePast s (placed ps (bytesOfNat 8 (natOfBytes mode - 1)))
        let lines := partLines s.free (rs.zip image)
        .failed (failedSave { writePast s lines with free := s.free + image.length } t.base)

/-- The words with errors in the lane-private memory of some lane groups of a core. -/
def laneWords (s : State) (core : Nat) (gmap : BitVec 16) : List Nat :=
  (s.corr ++ s.uncorr).filter fun u => (onesBelow 16 gmap.toNat).any fun h =>
    decide (placeLp core h 0 ≤ u) && decide (u < placeLp core h 32768)

/-- Those words written whole: their errors end (R102, R162). -/
def healLanes (s : State) (core : Nat) (gmap : BitVec 16) : State :=
  let ws := laneWords s core gmap
  { s with uncorr := s.uncorr.filter fun u => !ws.contains u, corr := s.corr.filter fun u => !ws.contains u }

/-- The save of the thread whose turn it is, with the given PC (R437-R440). A forced one reads its lane-private memory
(R162). -/
def saveMember (forced : Bool) (pc : BitVec 56) (s : State) : Saved :=
  match curTask s, arriveAll s with
  | some t, some s =>
    let sv := recSave t.launch
    let g := laneCount s.th.lanes.gmap
    if sv = 0 ∨ sv.toNat % 128 ≠ 0 ∨ isWindow sv.toNat ∨ recSavesz t.launch < saveSize forced g then .failed (failedSave s t.base)
    else
      let vcp := if forced then vcpOf { s.th with pc := pc.setWidth 64 } else pc
      let s := if forced then countRead s (laneWords s (coreOf s.th) s.th.lanes.gmap) else s
      match writeSave s t sv (saveImage s.th t forced pc vcp) with
      | .done s =>
        let s := freeThread s t.id
        .done (updTask s t.id fun t => { t with
          status := .saved forced g, graceOut := false, since := roundsOf s t.home })
      | r => r
  | _, _ => .waits

/-- Forced pre-emption of the thread whose turn it is, at its next instruction: none while the stop has to
wait, and while the watchdog's trap is due, which is taken at the same boundary (R358, R406, R424, R437). -/
def forcePreempt (s : State) : Option State :=
  if s.th.trap.mode || s.th.trap.frozen || s.th.csr.wdogDue || holdsStop s.th then none
  else
      let stopped := updTh s fun th => { stopViq th with wait := none, fsw := none, vfsw := none, stall := false }
      let stopped := { stopped with sleepers := s.sleepers.filter fun n => n != s.th.id }
      match saveMember true (s.th.pc.setWidth 56) stopped with
      | .waits => none
      | .failed s' => some (updTh s' fun th => { th with viq := (replayEntries th.viq false th.q).1 })
      | .done s' => some s'

/-! ### Task entry (R388, R398) -/

/-- A thread that holds a task joins the others; the dispatch acquires, for its reads of banks too (R328, R347, Table 11-4).
The task's stores that were left, and its commands, are this thread's from now on, its scalar side following them (log 14). -/
def placeThread (s : State) (th : Thread) : State :=
  let th := { th with order := { scalar := s.now, vector := s.now, last := s.now, bank := s.now, joined := s.nextStore } }
  let s := match th.task with
    | some id => rehome id th.id (renameStores (savedKey id) th.id s)
    | none => s
  if s.th.task.isNone then { s with th := th } else { s with parked := s.parked ++ [th] }

/-- A core takes up a code image: its L1 instruction cache is invalidated when the image differs (R154). -/
def enterImage (s : State) (core : Nat) (img : BitVec 32) : State :=
  if s.image.any fun x => x.1 == core && x.2 == img then s
  else
    { s with
      image := (core, img) :: s.image.filter fun x => x.1 != core
      l1i := s.l1i.filter fun l => l.core != core }

/-- The thread of a task at entry (R388). -/
def entryThread (t : Task) (n : Nat) : Thread :=
  let r := t.launch
  let sr := ((((Vector.replicate 64 (0 : Word)).set 1 (recArgs r)).set 2 (BitVec.ofNat 64 (recInst r))).set 3
    (BitVec.ofNat 64 (recGsize r * 2 ^ 16 + t.rank))).set 4 (recSlot r)
  { id := n, task := some t.id, pc := recEntry r, sr := sr
    trap := { tvec := (recTvec r).setWidth 56, tstack := recTstack r } }

/-- The storage a member's entry zeroes: place and bytes of each range (R398). -/
def zeroedRanges (t : Task) (core : Nat) : List (Nat × Nat) :=
  let r := t.launch
  let u := 2 ^ 16
  (if recZcs r then [(placeCs core ((recCsbase r + t.rank * recCssize r) * u), recCssize r * u)] else []) ++
  (if recZcm r then [(placeCm (clusterOf core) (recCmbase r * u), recCmsize r * u)] else []) ++
  (if recZds r then [(placeDs (moduleOf core) (recDsbase r * u), recDssize r * u)] else [])

/-- A task enters on hardware thread `n`; its storage has been zeroed. -/
def enterTask (s : State) (t : Task) (n : Nat) : State :=
  let s := enterImage s (n / 4) (recImgid t.launch)
  shareLanes (sharers s (n / 4)) (placeThread s (entryThread t n)) (n / 4)

/-! ### Restoring (R442, R443) -/

/-- The header fields and what R442 checks of them. -/
def headerOk (t : Task) (grant : Nat) (h : Nat → Nat) : Bool :=
  let mode := h 6
  h 0 == 2 ^ 56 + (recAspace t.launch).toNat * 2 ^ 32 + t.id.toNat && bitsOf (h 1) 56 8 == 0 && bitsOf (h 2) 56 8 == 0 &&
  bitsOf (h 3) 29 19 == 0 && bitsOf (h 3) 22 2 == 0 && bitAt (h 3) 15 == 0 && bitsOf (h 3) 24 5 == grant &&
  bitsOf (h 4) 27 37 == 0 && bitsOf (h 4) 20 7 ≤ 64 && bitsOf mode 3 61 == 0 && bitAt mode 0 == 1 &&
  h 7 == saveSize (bitAt mode 1 == 1) grant && (List.range 8).all fun i => h (8 + i) == 0

/-- A context that cannot be restored: the record of KIND 0x15 and the task's end (R435, R442). -/
def retireContext (s : State) (t : Task) (n : Nat) (faddr : Word) (tpc : Nat) : State :=
  let s := hostRecord s [0x15 * 2 ^ 56 + (n % 256) * 2 ^ 48 + (recAspace t.launch).toNat * 2 ^ 32 + t.id.toNat, 0x15,
    faddr.toNat, 0, 0, tpc % 2 ^ 56, 0, 0]
  retireTask s t.id 0x20

/-- The part of an area that holds an offset (Table 14-19). -/
def savePart (o : Nat) : Nat :=
  if o < 0x280 then 1 else if o < 0x300 then 2 else if o < 0x1700 then 3 else if o < 0x22000 then 4 else 5

/-- A saved queue entry (Table 14-14), with its data from the share. -/
def recordEntry (w0 w1 : Nat) (share : Nat → Nat) : QEntry :=
  let vl := bitsOf w0 0 15
  let sew := bitsOf w0 16 6
  let d := bitsOf w0 32 10
  let bit := fun i => bitAt (share (128 * d + i / 8)) (i % 8)
  { vl := BitVec.ofNat 15 vl, sew := BitVec.ofNat 6 sew, arrived := true, failed := bitAt w0 61 == 1
    cause := BitVec.ofNat 8 (bitsOf w0 48 8), faddr := BitVec.ofNat 64 w1, claimed := bitAt w0 62 == 1
    doff := BitVec.ofNat 10 d
    data := (List.range vl).map fun e => (List.range sew).foldl (fun x i => x + bit (e * sew + i) * 2 ^ i) 0 }

/-- The lanes of saved vector parts on some physical lane groups, in element-group order (R230). -/
def restoreLanes (gmap : BitVec 16) (b : Nat → Nat) (l : Lanes) : Lanes :=
  let gs := (List.range 16).zip (onesBelow 16 gmap.toNat)
  let base := fun j => 0x22000 + 0x1A000 * j
  let listed := fun (k x : Nat) => if x = 0 then none else some (k, x)
  let l := { l with
    v := ((List.range 32).flatMap fun r => gs.flatMap fun (j, h) => (List.range 1024).filterMap fun p =>
      listed (16384 * r + 1024 * h + p) ((List.range 16).foldl (fun x i =>
        x + bitAt (b (base j + 2048 * r + 128 * i + p / 8)) (p % 8) * 2 ^ i) 0)).map fun x => (x.1, BitVec.ofNat 16 x.2)
    k := ((List.range 8).flatMap fun r => gs.flatMap fun (j, h) => (List.range 1024).filterMap fun p =>
      listed (16384 * r + 1024 * h + p) (bitAt (b (base j + 0x10000 + 128 * r + p / 8)) (p % 8))).map fun x => (x.1, true)
    z := ((List.range 32).flatMap fun r => gs.flatMap fun (j, h) => (List.range 64).filterMap fun n =>
      listed (1024 * r + 64 * h + n) (b (base j + 0x10400 + 64 * r + n))).map fun x => (x.1, BitVec.ofNat 8 x.2)
    lp := (gs.flatMap fun (j, h) => (List.range 32768).filterMap fun o =>
      listed (32768 * h + o) (b (base j + 0x12000 + o))).map fun x => (x.1, BitVec.ofNat 8 x.2) }
  gs.foldl (fun l (j, h) => (List.range 8).foldl (fun l n => (List.range 256).foldl (fun l e =>
    let a := base j + 0x10C00 + 512 * n + 2 * e
    setLaneTable l n h e (b a + 256 * b (a + 1))) l) l) l

/-- RMODE.MODE from a written value: 6 and 7 store 0 (Table 1-10). -/
def rmodeValue (w : Nat) : BitVec 3 := if bitsOf w 0 3 > 5 then 0 else BitVec.ofNat 3 w

/-- RAD.DIST from a written value (Table 7-2). -/
def radValue (w : Nat) : BitVec 5 := BitVec.ofNat 5 (if bitsOf w 0 5 = 0 then 1 else min (bitsOf w 0 5) 16)

/-- FTR from a written value: reserved bits are 0 (Table 7-7). -/
def ftrValue (w : Nat) : Word := BitVec.ofNat 64 (w &&& (2 ^ 63 + 0xFF * 2 ^ 48 + 0x7FFF))

/-- The thread of a saved area's bytes; `bad` tells the bytes of uncorrectable words, which read as 0. DESIGN CHOICE
(log 17): the CSR block is taken as writes of the CSRs would be, so that RMODE 6 or 7 in an area gives 0 and reserved bits
give 0. -/
def restoredThread (t : Task) (n : Nat) (gmap : BitVec 16) (b : Nat → Nat) (bad : Nat → Bool) : Thread :=
  let dw := fun o => (List.range 8).foldl (fun x i => x + b (o + i) * 2 ^ (8 * i)) 0
  let h := fun i => dw (8 * i)
  let c := fun i => dw (0x280 + 8 * i)
  let lanes : Lanes :=
    { sew := BitVec.ofNat 6 (bitsOf (h 3) 16 6), vl := BitVec.ofNat 15 (bitsOf (h 3) 0 15), gmap := gmap }
  let viqn := bitsOf (h 4) 20 7
  let entry := fun i =>
    let a := 0x300 + 80 * i
    wordsEntry ((List.range 10).map fun k => dw (a + 8 * k)) ((List.range 80).any fun k => bad (a + k))
  let queue := fun q => ((List.range 16).map fun i => 0x1700 + 256 * q + 16 * i).takeWhile (fun a => bitAt (dw a) 63 == 1)
    |>.map fun a => recordEntry (dw a) (dw (a + 8)) fun o => b (0x2000 + o)
  { id := n, task := some t.id, pc := BitVec.ofNat 64 (bitsOf (h 1) 0 56)
    sr := Vector.ofFn fun (r : Fin 64) => if r.val = 0 then 0 else BitVec.ofNat 64 (dw (0x80 + 8 * r.val))
    csr :=
      { vstart := if viqn = 0 then BitVec.ofNat 20 (h 4) else 0
        rmode := rmodeValue (c 0), rad := if bad 0x288 then 0 else radValue (c 1), gkey := BitVec.ofNat 64 (c 2)
        gcnt := BitVec.ofNat 32 (c 3), ftr := ftrValue (c 4), bmask := BitVec.ofNat 32 (c 5)
        devthr := BitVec.ofNat 16 (c 6), wdog := BitVec.ofNat 32 (c 7), wdogElapsed := BitVec.ofNat 10 (c 7 / 2 ^ 32)
        sflags := BitVec.ofNat 64 (bitsOf (c 8) 0 4) }
    lanes := if bitAt (h 6) 1 = 1 then restoreLanes gmap b lanes else lanes
    viq := (List.range viqn).map entry
    q := Vector.ofFn fun (q : Fin 8) => queue q.val
    latch := if bitAt (c 13) 0 = 1 then some (BitVec.ofNat 64 (c 12)) else none
    trap := { vcp := BitVec.ofNat 56 (h 2), tvec := BitVec.ofNat 56 (c 9), tstack := BitVec.ofNat 64 (c 10) } }

/-- The lowest `g` bits of a lane-group map. -/
def lowestGroups (m : BitVec 16) (g : Nat) : BitVec 16 :=
  ((onesBelow 16 m.toNat).take g).foldl (fun x h => x ||| BitVec.twoPow 16 h) 0

/-- A pre-empted task resumed on hardware thread `n`; none while its area must be waited for. -/
def restoreTask (s : State) (t : Task) (grant n : Nat) : Option State :=
  let c := taskCtx t (n / 4)
  let sv := recSave t.launch
  let (hs, s) := reachBytes c .read sv 128 s
  if mustWait s (somePlaces hs) then none
  else
    let s := quietTouch (somePlaces hs) s
    match allPlaces hs with
    | none => some (retireContext s t n sv 0)
    | some hp =>
      let hb := (hp.map (memByte s)).toArray
      let dw := fun i => natOfBytes ((List.range 8).map fun k => hb.getD (8 * i + k) 0)
      match (hp.zip (List.range 128)).find? fun x => isUncorr s x.1 with
      | some (_, o) =>
        some (retireContext s t n (sv + BitVec.ofNat 64 (o / 32 * 32))
          (if (List.range 8).any fun k => isUncorr s (hp.getD (8 + k) 0) then 0 else dw 1))
      | none =>
        if !headerOk t grant dw then some (retireContext s t n sv (dw 1))
        else
          let (rs, s) := reachBytes c .read sv (dw 7) s
          if mustWait s (somePlaces rs) then none
          else match allPlaces rs with
            | none => some (retireContext s t n sv (dw 1))
            | some ps =>
              let bs := (ps.map fun p => if isUncorr s p then 0 else (memByte s p).toNat).toArray
              let bads := (ps.map (isUncorr s)).toArray
              let low := (List.range ps.length).find? fun o => bads.getD o false
              let gmap := lowestGroups (freeLanes s (n / 4)) grant
              let th := restoredThread t n gmap (fun o => bs.getD o 0) (fun o => bads.getD o false)
              let s := quietTouch (ps.drop 128) s
              let s := if bitAt (dw 6) 1 = 1 then healLanes s (n / 4) gmap else s
              let mode := (ps.drop 0x30).take 8
              let s := l2Touch (writePlaces s .device (placed mode (bytesOfNat 8 (dw 6 - 1)))) mode .normal .write
              let c10 := natOfBytes ((List.range 8).map fun k => BitVec.ofNat 8 (bs.getD (0x2D8 + k) 0))
              let s := updTask s t.id fun t => { t with
                status := .running, core := n / 4, pend := false, urgent := false, graceOut := false
                barK := BitVec.ofNat 32 c10, arrived := bitAt c10 32 == 1 }
              let s := enterImage s (n / 4) (recImgid t.launch)
              match low with
              | some o =>
                let s := shareLanes (sharers s (n / 4)) (placeThread s th) (n / 4)
                some (onThread s n fun s => updTh (takeTrap s
                  { cause := 0x15, faddr := sv + BitVec.ofNat 64 (o / 32 * 32), finfo := BitVec.ofNat 64 (savePart o) } false true)
                  fun t => { t with trap := { t.trap with vcp := th.trap.vcp } })
              | none =>
                let th := tretThread { th with trap := { th.trap with tpc := th.pc.setWidth 56 } }
                some (shareLanes (sharers s (n / 4)) (placeThread s th) (n / 4))

end Sys2Proof.Machine
end

