-- ==== Sys2Proof/Machine/Queue.lean ====
section
/-! DEFINITION. Work queues (R390-R392): descriptors, submission by the device, and the retirement of a
record that never runs. -/
namespace Sys2Proof.Machine

/-- Physical address of the descriptor of queue `q` (R390). -/
def queueAddr (s : State) (q : Nat) : Nat := bitsOf (ctlGet s regQbase).toNat 6 58 * 64 + 64 * q

/-- Some bytes of physical memory as the dispatcher reads them: none where they are absent or uncorrectable. -/
def physRead (s : State) (p n : Nat) : Option (List Byte) :=
  let ps := (List.range n).map (p + ·)
  if ps.all (physPresent s) then (quietRead ps s).1 else none

/-- A dispatcher's read of physical memory counted: it is no thread and no engine (R100, R101, R148, R421). -/
def notePhys (s : State) (p n : Nat) : State :=
  let ps := (List.range n).map (p + ·)
  if ps.all (physPresent s) then quietTouch ps s else s

/-- A queue's descriptor (Table 13-2). -/
structure QueueDesc where
  ring : Nat
  dev : Bool
  md : Nat
  weight : Nat
  cls : Nat
  sz : Nat
  tail : Nat
  head : Nat
  deriving DecidableEq, Repr

/-- The descriptor of queue `q`; none when it is disabled or cannot be read (R390). -/
def queueDesc (s : State) (q : Nat) : Option QueueDesc :=
  match physRead s (queueAddr s q) 64 with
  | none => none
  | some bs =>
    let w := dwordOf bs 1
    let sz := bitsOf w 0 5
    if q < 2 ^ 18 && bitAt w 24 == 1 && bitsOf w 26 38 == 0 && bitsOf w 18 6 == 0 && bitAt w 11 == 0 && bitsOf w 5 3 == 0 &&
        (List.range 4).all (fun i => dwordOf bs (4 + i) == 0) && decide (1 ≤ sz) && decide (sz ≤ 16) then
      some { ring := dwordOf bs 0, dev := bitAt w 25 == 1, md := bitsOf w 16 2, weight := bitsOf w 12 4 + 1
             cls := bitsOf w 8 3, sz := sz, tail := dwordOf bs 2, head := dwordOf bs 3 }
    else none

/-- The descriptor of a queue is read. -/
def noteDesc (s : State) (q : Nat) : State := notePhys s (queueAddr s q) 64

/-- Records waiting in a queue by its TAIL and HEAD. -/
def pendingRecords (tail head : Nat) : Nat := (tail + 2 ^ 64 - head) % 2 ^ 64

/-- Physical address of record `i` of a queue. -/
def recordAddr (d : QueueDesc) (i : Nat) : Nat := d.ring + 128 * (i % 2 ^ d.sz)

/-- A queue's dispatcher is rung: it reads TAIL (R392). -/
def ringQueue (s : State) (q : Nat) : State :=
  let s := noteDesc s q
  match queueDesc s q with
  | none => s
  | some d =>
    let s := if d.tail = d.head then s else ringRound s d.md
    let fresh : Queue :=
      { q := q, tail := BitVec.ofNat 64 d.tail, since := roundsOf s d.md, stamp := s.heads }
    match s.queues.find? fun x => x.q == q with
    | some x =>
      let x' := if x.tail.toNat = d.head then fresh else { x with tail := BitVec.ofNat 64 d.tail }
      { s with queues := s.queues.map fun y => if y.q == q then x' else y, heads := s.heads + 1 }
    | none => { s with queues := s.queues ++ [fresh], heads := s.heads + 1 }

/-- Physical memory written by a dispatcher or on its behalf. -/
def physWrite (s : State) (p : Nat) (bs : List Byte) : State :=
  let ps := (List.range bs.length).map (p + ·)
  l2Touch (writePlaces s .device (placed ps bs)) ps .normal .write

/-- What comes of a submission by the device. -/
inductive Submitted where
  | full
  /-- the queue is disabled, absent or not device-owned -/
  | refused
  /-- the ring entry lies in no memory that the submitter reaches -/
  | noEntry (p : Nat)
  /-- a line of the ring entry is owned by an engine's command (R175) -/
  | owned
  | placed (pos : Nat) (s : State)
  deriving DecidableEq, Repr

/-- A record appended to a queue in one atomic operation (R392); `needDev` for a thread's SPAWN, which reaches host memory
through the HDMA windows alone (R380, R447). -/
def submitTo (s : State) (q : Nat) (rec : BitVec 1024) (needDev : Bool) : Submitted :=
  match queueDesc s q with
  | none => .refused
  | some d =>
    let p := recordAddr d d.tail
    let ps := (List.range 128).map (p + ·)
    if needDev && !d.dev then .refused
    else if pendingRecords d.tail d.head = 2 ^ d.sz then .full
    else if !(ps.all fun q => physPresent s q && (!needDev || !isHost q || inHdma s q)) then .noEntry p
    else if mustWait s ps then .owned
    else
      let s := physWrite s p (bytesOfNat 128 rec.toNat)
      .placed d.tail (ringQueue (physWrite s (queueAddr s q + 0x10) (bytesOfNat 8 (d.tail + 1))) q)

/-- The lowest present core of a module. -/
def firstCore (s : State) (m : Nat) : Nat := ((List.range 16).find? fun i => corePresent s (16 * m + i)).elim (16 * m) (16 * m + ·)

/-- A record ends without running (R387, R394). DESIGN CHOICE (log 29): a record that never ran has no core of its own, and
`core` is the one against which a window in its SLOT and successor list is resolved (R159): the module's first core for
BADREC and LEASEREF, the core of the predecessor that ended for SKIPPED. -/
def retireRecord (s : State) (rec : BitVec 1024) (status : BitVec 7) (core q pos : Nat) : State :=
  let e : Ending := { key := s.nextKey, id := 0, launch := rec, status := status, core := core, queue := q, qpos := pos }
  { s with endings := s.endings ++ [e], nextKey := s.nextKey + 1 }

/-- A number no position of a ring has: the record was in no queue. -/
def noPosition : Nat := 2 ^ 64

end Sys2Proof.Machine
end

