-- ==== Sys2Proof/Machine/Alloc.lean ====
section
/-! DEFINITION. SETVL and SETVT (R235-R239): the lane allocation table, and the yield at SETVL. -/
namespace Sys2Proof.Machine

/-- A map with every value passed through a function of its key; defaults are not listed. -/
def mapValues {α : Type} [Inhabited α] [DecidableEq α] (f : Nat → α → α) (m : List (Nat × α)) : List (Nat × α) :=
  (m.map fun x => (x.1, f x.1 x.2)).filter fun x => decide (x.2 ≠ default)

/-- What dead lane state reads as: each bit is what the task last wrote there or 0, by free choices; slots
lt4 to lt7 hold Table 1-7 again (R237, R287, log 5). -/
def deadLanes (k : Nat) (l : Lanes) : Lanes :=
  { l with
    v := mapValues (fun a x => x &&& (Config.freeWord k a).setWidth 16) l.v
    z := mapValues (fun a x => x &&& (Config.freeWord (k + 1) a).setWidth 8) l.z
    k := mapValues (fun a x => x && (Config.freeWord (k + 2) a).getLsbD 0) l.k
    lp := mapValues (fun a x => x &&& (Config.freeWord (k + 3) a).setWidth 8) l.lp
    lt := l.lt.filter fun x => x.1 < 4 * 4096 }

/-- Dead values of slots lt0 to lt3. -/
def deadTables (k : Nat) (l : Lanes) : Lanes :=
  { l with lt := mapValues (fun a x => x &&& (Config.freeWord (k + 4) a).setWidth 16) l.lt }

/-- The lane groups of the thread return to the pool (R235). -/
def returnLanes (s : State) : State :=
  if s.th.lanes.gmap = 0 then s
  else ringRound (updLanes s fun l => { l with gmap := 0 }) (moduleOf (coreOf s.th))

/-- The thread leaves the sleepers of the lane allocation table. -/
def wakeLanes (s : State) : State :=
  { updTh s fun th => { th with wait := none } with sleepers := s.sleepers.filter fun n => n != s.th.id }

/-- The thread sleeps in SETVL (R235). -/
def sleepLanes (s : State) : State :=
  let s := updTh s fun th => { th with wait := some .setvl }
  shareLanes (sharers s (coreOf s.th)) (if s.sleepers.contains s.th.id then s else { s with sleepers := s.sleepers ++ [s.th.id] }) (coreOf s.th)

/-- How many lane groups a SETVL needs (R235). -/
def lanesNeeded (l : Lanes) (t : Task) (avl : Nat) : Nat :=
  let cap := if l.shrink then max l.share.toNat (recMin t.launch) else 16
  if avl = 0 then 0 else min (min (ceilDiv avl 1024) (recReq t.launch)) cap

/-- SETVL's last lines: the grant of `g` lane groups (R235). -/
def grantLanes (c : VCtx) (g avl : Nat) (s : State) : State :=
  let core := coreOf s.th
  let gmap := lowestGroups (freeLanes s core) g
  let vl := min avl (1024 * g)
  let k := s.free
  let s := wakeLanes s
  let s := updLanes s fun l =>
    { deadTables k (deadLanes k l) with
      gmap := gmap, vl := BitVec.ofNat 15 vl, sew := BitVec.ofNat 6 (fieldOf c.f.x16 0 6).toNat, shrink := false }
  let s := updTh s fun th => { th with csr := { th.csr with vstart := 0 } }
  let s := setR { s with free := k + 5 } c.f.vd (BitVec.ofNat 64 vl)
  shareLanes (sharers s core) s core

/-- SETVL from its second line on, for the task of the thread: the yield, the sleep or the grant. What it needs is found
once, before it sleeps. -/
def settleLanes (c : VCtx) (t : Task) (s : State) : Option State × State :=
  let avl := c.e.opa.toNat
  let need := c.e.need.getD (lanesNeeded s.th.lanes t avl)
  let floor := min (recMin t.launch) need
  let first := (s.sleepers.find? fun n => n / 4 == coreOf s.th).getD s.th.id
  let g := min need (laneCount (freeLanes s (coreOf s.th)))
  if need = 0 ∨ (first = s.th.id ∧ floor ≤ g) then (some (grantLanes c g avl s), s)
  else (none, sleepLanes (updTh s (updHead fun e => { e with need := some need })))

/-- SETVL (R235). It does not yield while the watchdog's trap is due, which is taken first (R358). DESIGN CHOICE (log 18): a
handler that a watchdog's trap of a SETVL asleep enters finds GMAP and GRANT 0, the groups having been returned, and the old
VL. -/
def effSetvl (c : VCtx) : Op Unit := fun s =>
  let s := returnLanes s
  match curTask s with
  | none => .ok () s
  | some t =>
    let go := fun s => match settleLanes c t s with
      | (some s', _) => EStateM.Result.ok () s'
      | (none, s') => .error (.wait true) s'
    if t.pend && s.th.csr.wdogDue && !s.th.trap.mode then .error (.wait true) s
    else if t.pend then
      match saveMember false c.e.addr (updTh s fun th => { th with viq := th.viq.drop 1, wait := none, vfsw := none }) with
      | .waits => .error (.wait true) s
      | .done s' => .ok () s'
      | .failed s' => go (updTh s' fun th => { th with viq := s.th.viq, wait := s.th.wait })
    else go s

/-- SETVT (R239): sD was written when it was posted. -/
def effSetvt (c : VCtx) : Op Unit := doing fun s => updLanes s fun l => { l with sew := fieldOf c.f.x16 0 6 }

end Sys2Proof.Machine
end

