-- ==== Sys2Proof/Machine/Bank.lean ====
section
/-! DEFINITION. The effects of the BANK instructions (R105-R142) when the vector side performs them; the
checks of LUACC.kv are in Kv.lean. -/
namespace Sys2Proof.Machine

/-! ### Leases and selected banks (R105-R112, R127) -/

/-- BANKS (Table 4-1). -/
def banksCsr (s : State) : Word :=
  match curTask s with
  | some t =>
    if t.lease.active then
      BitVec.ofNat 64 (t.lease.rev.toNat * 2 ^ 27 + t.lease.p0 / 128 % 4 * 2 ^ 24 + t.lease.npc % 256 * 2 ^ 16 + 16 * t.lease.npc)
    else 0
  | none => 0

/-- A cause 0x05 that names the instruction (Table 14-19). -/
def badHandle {α : Type} (c : VCtx) (reason : Nat) : Op α := fault 0x05 (c.e.addr.setWidth 64) reason

/-- The lease of the thread's task, or the causes of R127 items 1 and 2. DESIGN CHOICE (log 43): each attempt of an instruction
asks, so that one which waits when a revocation takes effect, a BLEASE or BSTAT too, takes 0x0D (R112). -/
def leaseOf (c : VCtx) : Op Lease := do
  let s ← get
  match curTask s with
  | some t =>
    if !t.lease.active then badHandle c 0x01
    else if t.lease.rev then fault 0x0D (c.e.addr.setWidth 64) c.e.restart.toNat
    else pure t.lease
  | none => badHandle c 0x01

/-- The selected banks by global bank number, ascending: position β holds the bank of selection index β
(R106, R108). -/
def selectedBanks (l : Lease) (bmask : BitVec 32) : List Nat :=
  let m := bmask.toNat
  ((List.range l.npc).filter fun i => bitsOf m 16 8 ≤ i && i ≤ bitsOf m 24 8).flatMap fun i =>
    (onesBelow 16 m).map fun b => 16 * (l.p0 + i) + b

/-- The contents of a bank. -/
def bankAt (s : State) (b : Nat) : Bank := smGet s.banks b

/-- The package with a bank changed. -/
def updBank (s : State) (b : Nat) (f : Bank → Bank) : State := { s with banks := smSet s.banks b (f (bankAt s b)) }

/-- Element `e` of upper register `r`, 32 to 63 (R14). -/
def upper (k : Bank) (r e : Nat) : Int := (smGet k.v (256 * (r - 32) + e)).toInt

/-- The storage with errors after a write of some entries of one of its parts, which has `size` (R102, log 19). -/
def healed (bad : List Nat) (n written size : Nat) : List Nat := if written < size then bad else bad.filter (· != n)

/-- A bank with elements of an upper register written, as 40 bits. -/
def setUpper (k : Bank) (r : Nat) (xs : List (Nat × Int)) : Bank :=
  { k with
    v := xs.foldl (fun m x => smSet m (256 * (r - 32) + x.1) (BitVec.ofInt 40 x.2)) k.v
    bad := healed k.bad r xs.length 256 }

/-- OV of an upper register. -/
def ovOf (k : Bank) (r : Nat) : Bool := k.ov.getLsbD (r - 32)

/-- A number with one bit set to a value. -/
def setBit32 (x : BitVec 32) (i : Nat) (b : Bool) : BitVec 32 := BitVec.ofNat 32 (putBits x.toNat i 1 b.toNat)

/-- A bank with OV of an upper register at a value. -/
def setOv (k : Bank) (r : Nat) (b : Bool) : Bank := { k with ov := setBit32 k.ov (r - 32) b }

/-- A value outside the 40-bit signed range (R121). -/
def out40 (y : Int) : Bool := decide (y < -(2 : Int) ^ 39) || decide (y ≥ (2 : Int) ^ 39)

/-- Entry `x` of slot `t`, as stored. -/
def slotEntry (k : Bank) (t x : Nat) : Nat := (smGet k.t (256 * t + x)).toNat

/-- A bank with entries of a slot written. -/
def setSlot (k : Bank) (t : Nat) (xs : List (Nat × Nat)) : Bank :=
  { k with
    t := xs.foldl (fun m x => smSet m (256 * t + x.1) (BitVec.ofNat 32 x.2)) k.t
    bad := healed k.bad t xs.length 256 }

/-- A bank with texp of a slot. -/
def setTexp (k : Bank) (t v : Nat) : Bank := { k with texp := smSet k.texp t (BitVec.ofNat 8 v) }

/-- A lease row at a bank: the pinned page that holds it and the physical address of the row (R131). -/
def leaseRow (l : Lease) (b row : Nat) : Option (Pin × Nat) :=
  ((l.pins.filter fun p => p.bank == b)[row / 512]?).map fun p => (p, p.pa + 4096 * (row % 512))

/-- FADDR of a bank row or of storage of the logic layer (R127). -/
def bankForm (b row : Nat) : Word := BitVec.ofNat 64 (2 ^ 63 + b * 2 ^ 32 + row)

/-- The VIQ's head with its restart point (R126). -/
def setRestart (n : Nat) (s : State) : State := updTh s (updHead fun e => { e with restart := BitVec.ofNat 20 n })

/-- The restart unit at VSTART of an instruction of `n` units, none where VSTART lies beyond the last: a stop inside it
discards its work, and at the boundary after it the machine may turn to something else (R126, log 20). -/
def runUnits (c : VCtx) (n : Nat) (f : Nat → Op Unit) : Op Unit := fun s =>
  let u := c.e.restart.toNat
  if n ≤ u then .ok () s
  else match f u s with
    | .ok _ s' => if u + 1 < n then .error .more (setRestart (u + 1) s') else .ok () s'
    | r => r

/-- The present pseudo-channels of a module, P_m (R97, R104). -/
def presentPcs (s : State) (m : Nat) : Nat := ((List.range 128).filter fun p => pcPresent s (128 * m + p)).length

/-- How many pseudo-channels of a module may be in runs at once (R97, R464). -/
def admitLimit (s : State) (m : Nat) : Nat :=
  let cap := bitsOf (ctlGet s regPadm).toNat 0 9
  max 1 ((if s.padmHalved then cap / 2 else cap) * presentPcs s m / 256)

/-! ### Runs (R91-R98) -/

/-- The runs of the restart unit at a thread's VIQ's head. -/
def headRuns (th : Thread) : List PcRun :=
  match th.viq with
  | e :: _ => e.runs
  | [] => []

/-- The runs of the unit at the VIQ's head changed. -/
def updRuns (f : List PcRun → List PcRun) (s : State) : State := updTh s (updHead fun e => { e with runs := f e.runs })

/-- A pseudo-channel's runs changed. -/
def updRun (p : Nat) (f : PcRun → PcRun) (s : State) : State := updRuns (fun rs => rs.map fun r => if r.pc = p then f r else r) s

/-- A run that is ready: nothing of its pseudo-channel's is in progress, and its refresh debt lets a run start (R95). -/
def runReady (s : State) (r : PcRun) : Bool := !r.running && decide (0 < r.left) && decide (smGet s.debt r.pc < 8)

/-- A run that is ready and admitted: those in progress in its module, and those there that became ready earlier, leave a
place under the power cap (R97). -/
def mayRun (s : State) (r : PcRun) : Bool :=
  let others := ((threads s).flatMap headRuns).filter fun x => x.pc / 128 == r.pc / 128
  let ahead := others.filter fun x => x.running || (runReady s x && decide (x.ready < r.ready))
  runReady s r && decide (ahead.length < admitLimit s (r.pc / 128))

/-- A run starts. -/
def startRun (p : Nat) (s : State) : State := updRun p (fun r => { r with running := true, started := true }) s

/-- A run ends, where one is in progress; the next of the unit's is ready from then on. -/
def endRun (p : Nat) (s : State) : State :=
  updRun p (fun r => if r.running then { r with running := false, left := r.left - 1, ready := s.free } else r) s

/-- The runs of a pseudo-channel have ended, or the last of them is in progress (log 20). -/
def underWay (r : PcRun) : Bool := r.left == 0 || (r.running && r.left == 1)

/-- The unit at the VIQ's head has `n` runs on each of some pseudo-channels, ready from now on. -/
def noteRuns (pcs : List Nat) (n : Nat) (s : State) : State :=
  updRuns (fun _ => pcs.map fun p => { pc := p, ready := s.free, left := n }) s

/-- Runs started on every pseudo-channel of the unit where one is ready and admitted. -/
def startRuns (s : State) : State :=
  (headRuns s.th).foldl (fun s r => if mayRun s r then startRun r.pc s else s) s

/-- The boundary between two runs of a unit: one ends, a refresh debt of 8 is repaid, and the next is ready (R93, R95). -/
def betweenRuns (p : Nat) (s : State) : State :=
  let s := endRun p s
  if 8 ≤ smGet s.debt p then { s with debt := smSet s.debt p 0 } else s

/-- `n` rounds of the runs of the unit at the VIQ's head: on each pseudo-channel the run in progress ends, when others of the
unit follow it, and the next starts where it is admitted (R91, R93, R97). -/
def passRuns : Nat → State → State
  | 0, s => s
  | n + 1, s => passRuns n (startRuns ((headRuns s.th).foldl
      (fun t r => if r.running && decide (1 < r.left) then betweenRuns r.pc t else t) s))

/-- The pseudo-channels of the thread's lease are at a boundary (R91, R111). -/
def leaseBoundary (s : State) : State :=
  match curTask s with
  | some t => if s.revoking.isEmpty then s else (List.range t.lease.npc).foldl (fun s i => reachBoundary s (t.lease.p0 + i)) s
  | none => s

/-- The lease of the thread's task has been revoked. -/
def leaseRevoked (s : State) : Bool := (curTask s).any fun t => t.lease.rev

/-- A restart unit of an instruction that holds pseudo-channels in runs, `n` on each of those of the selected banks. It
begins at a boundary of them, where a revocation takes effect; its runs follow one another, each admitted on its own, and it
stalls until on each of them the last is in progress, or all have ended; its end is a boundary again (R91, R93, R95, R97, R98,
R111, log 20). -/
def inRuns (bs : List Nat) (n : Nat) (unit : Op Unit) : Op Unit := do
  let s ← get
  if (headRuns s.th).isEmpty then
    modify leaseBoundary
    fun s => if leaseRevoked s then .error .more s else .ok () (noteRuns ((bs.map (· / 16)).eraseDups) (max 1 n) s)
  modify fun s => passRuns n (startRuns s)
  fun s => if (headRuns s.th).all underWay then .ok () s else .error (.wait true) s
  unit
  doing fun s => leaseBoundary (updRuns (fun _ => []) s)

/-- The parts of a row, each read in one activation: the row whole where the unit is one run, else the 64-byte columns, for
a row that is open at the end of a run may have to be opened again (R90, R91, R129). -/
def rowParts (n : Nat) (ps : List Nat) : List (List Nat) :=
  if n ≤ 1 then [ps] else (List.range (ps.length / 64)).map fun i => (ps.drop (64 * i)).take 64

/-- The parts of a row read one after another, each at a free moment no earlier than the one before it; with the last
moment (R129, R348, log 14). -/
def readParts (lo : Nat) : List (List Nat) → Op (List Byte × Nat)
  | [] => pure ([], lo)
  | ps :: rest => do
    let m ← pickMoment lo
    let s ← get
    let (bs, z) ← readParts m rest
    pure (ps.map (byteAt s m) ++ bs, z)

/-- `n` places of a row from a byte on. -/
def rowPlaces (pa off n : Nat) : List Nat := (List.range n).map (pa + off + ·)

/-- The places of an instruction's rows are free of owned lines before any of them is read (R98, R175). -/
def awaitLease (xs : List (Pin × Nat)) (off n : Nat) : Op Unit := xs.forM fun x => awaitRows x.1.bank (rowPlaces x.2 off n)

/-- `n` bytes of a row from a byte on, as its bank reads them in a unit of `runs` runs, from moment `lo` on (R89, R129,
R348); an uncorrectable word is 0x14 at the row's virtual address (R101, R127). -/
def readRow (runs lo : Nat) (p : Pin) (pa off n : Nat) : Op (List Byte) := do
  let ps := rowPlaces pa off n
  checkWords ps (BitVec.ofNat 64 (p.va.toNat + (pa - p.pa) / 4096 * 4096)) 0
  let (bs, m) ← readParts lo (rowParts runs ps)
  modify (rowFrom p.bank m)
  pure bs

/-- 0x14 for an uncorrectable error in parts of the logic-layer storage that an instruction reads, the first by
selection index and then in the order given (R127 item 6, log 19). -/
def checkLogic (bs parts : List Nat) : Op Unit := fun s =>
  match bs.findSome? fun b => (parts.find? fun n => (bankAt s b).bad.contains n).map fun n => (b, n) with
  | some (b, n) => (fault 0x14 (bankForm b n) 0 : Op Unit) (ctlCount s regMerr 32)
  | none => .ok () s

/-- The rows of an instruction are pinned in every selected bank (R127 item 5). -/
def pinnedRows (l : Lease) (rows : List (Nat × Nat)) : Op (List (Pin × Nat)) :=
  match rows with
  | [] => pure []
  | (b, r) :: rest => do
    match leaseRow l b r with
    | none => fault 0x09 (bankForm b r) 0
    | some x => do
      let xs ← pinnedRows l rest
      pure (x :: xs)

/-- Bound bits of the lease changed. -/
def bindLease (f : Lease → Lease) (s : State) : State :=
  match s.th.task with
  | some id => updTask s id fun t => { t with lease := f t.lease }
  | none => s

/-- Slots `a` to `b` become bound. -/
def bindSlots (a b : Nat) (l : Lease) : Lease :=
  { l with tbound := (List.range (b + 1)).foldl (fun m j => if a ≤ j then setBit32 m j true else m) l.tbound }

/-- Slots `a` to `b` are all bound. -/
def slotsBound (l : Lease) (a b : Nat) : Bool := (List.range (b + 1)).all fun j => decide (j < a) || l.tbound.getLsbD j

/-! ### Fields of a BANK word (Table 2-8) -/

/-- TS. -/
def bTs (f : W64) : Nat := bitsOf f.x16.toNat 0 5
/-- CB. -/
def bCb (f : W64) : Nat := bitsOf f.x16.toNat 5 3
/-- b. -/
def bB (f : W64) : Nat := bitsOf f.x16.toNat 8 2 + 1
/-- g. -/
def bG (f : W64) : Nat := 2 ^ bitsOf f.x16.toNat 10 2
/-- Outputs of a row. -/
def bO (f : W64) : Nat := if bitAt f.x16.toNat 12 = 1 then 128 else 256
/-- k. -/
def bK (f : W64) : Nat := shapeK (bitsOf f.x16.toNat 10 2) (bitsOf f.x16.toNat 8 2)
/-- Tokens, T. -/
def bT (f : W64) : Nat := 2 ^ bitsOf f.fn4.toNat 2 2

/-! ### Lease instructions (R131-R133) -/

/-- One page of BLEASE, checked against the lease and the pages before it. -/
def checkPage (x : Ctx) (l : Lease) (va : Nat) : Op Pin := do
  let w := BitVec.ofNat 64 va
  if va % 2 ^ 21 != 0 then fault 0x05 w 0x04
  else if va ≥ 2 ^ 56 || isWindow va then fault 0x09 w 0
  else do
    let (pa, pte) ← translateAt { x with pin := true } va .read w 0
    let s ← get
    let bank := (bankOf s pa).1
    if !isLinear s pa || bank / 16 < l.p0 || l.p0 + l.npc ≤ bank / 16 then fault 0x09 w 0
    else if l.pins.any fun p => p.pa == pa then fault 0x05 w 0x05
    else pure { bank := bank, va := w, pa := pa, w := bitAt pte 3 == 1 }

/-- The pages of BLEASE in descriptor order. -/
def checkPages (x : Ctx) (l : Lease) : List Nat → Op Lease
  | [] => pure l
  | va :: rest => do
    let p ← checkPage x l va
    checkPages x { l with pins := l.pins ++ [p] } rest

/-- No more pages than these can pass the checks: 48 of each bank of 128 pseudo-channels. -/
def maxPages : Nat := 48 * 16 * 128

/-- BLEASE (R131). DESIGN CHOICE (log 19): the descriptor is read whole before its first page is checked, so that its
own faults come before those of any page; `maxPages` + 1 pages are read at most, since one of so many must fail. -/
def effBlease (c : VCtx) : Op Unit := do
  let l ← leaseOf c
  runUnits c 1 fun _ => do
  let s ← get
  let d := c.e.opa
  let ps ← resolve (vecCtx s) d 8 8 .read
  let bs ← readBytes ps d 0
  let n := min (natOfBytes bs % 2 ^ 32) (maxPages + 1)
  let ps ← resolve (vecCtx s) d (8 + 8 * n) 8 .read
  let bs ← readBytes ps d 0
  let l' ← checkPages (vecCtx s) l ((List.range n).map fun i => dwordOf bs (i + 1))
  doing (bindLease fun _ => l')

/-- BRELS: also of a revoked lease (R110, R112, R132). -/
def effBrels (c : VCtx) : Op Unit := do
  let s ← get
  match curTask s with
  | some t => if t.lease.active then runUnits c 1 fun _ => doing fun s => endLease s t.id else badHandle c 0x01
  | none => badHandle c 0x01

/-- The OR of a field over some banks. -/
def orBanks (s : State) (bs : List Nat) (f : Bank → BitVec 32) : Nat := (bs.foldl (fun m b => m ||| f (bankAt s b)) 0#32).toNat

/-- BSTAT (R133). -/
def effBstat (c : VCtx) : Op Unit := do
  let l ← leaseOf c
  runUnits c 1 fun _ => do
  let s ← get
  let va := BitVec.ofNat 64 (c.e.opa.toNat / 64 * 64)
  let bs := selectedBanks l c.e.bmask
  let ps ← resolve (vecCtx s) va 64 64 .write
  writeBytes ps (dwords [orBanks s bs Bank.ov, orBanks s bs Bank.tsat * 2 ^ 32,
    l.cbound.toNat * 2 ^ 32 + l.tbound.toNat, (banksCsr s).toNat % 2 ^ 28, 0, 0, 0, 0])
  if bitAt c.e.opa.toNat 0 = 1 then
    doing fun s => bs.foldl (fun s b => updBank s b fun k => { k with ov := 0, tsat := 0 }) s

/-! ### Codebooks and table transfers (R134, R135) -/

/-- CBLD. -/
def effCbld (c : VCtx) : Op Unit := do
  let l ← leaseOf c
  let n := bCb c.f
  runUnits c 1 fun _ => do
  checkLogic (selectedBanks l c.e.bmask) [c.f.vs1.toNat]
  doing fun s =>
    let s := (selectedBanks l c.e.bmask).foldl (fun s b => updBank s b fun k =>
      { k with
        cb := (List.range 16).foldl (fun m j => smSet m (16 * n + j) (BitVec.ofInt 16 (upper k c.f.vs1.toNat j))) k.cb
        bad := healed k.bad (64 + n) 16 16 }) s
    bindLease (fun l => { l with cbound := BitVec.ofNat 8 (putBits l.cbound.toNat n 1 1) }) s

/-- TLOAD and TSTORE: the slot count and the row and byte of slot j's piece (Table 4-9). -/
def pieceOf (c : VCtx) (j : Nat) : Nat × Nat :=
  let o := c.e.opa.toNat
  let q := bitsOf o 16 2 + j
  (bitsOf o 0 15 + q / 4, 1024 * (q % 4))

/-- One slot loaded in every selected bank. -/
def tloadUnit (c : VCtx) (l : Lease) (j : Nat) : Op Unit := do
  let bs := selectedBanks l c.e.bmask
  let (row, off) := pieceOf c j
  let pins ← pinnedRows l (bs.map fun b => (b, row))
  let t := bTs c.f + j
  inRuns bs 1 do
    awaitLease pins off 1024
    let s ← get
    let pieces ← (bs.zip pins).mapM fun (b, p, pa) => do
      let bytes ← readRow 1 (bankBound s b) p pa off 1024
      pure (b, bytes)
    doing fun s => pieces.foldl (fun s (b, piece) => updBank s b fun k =>
    let k := setSlot k t ((List.range 256).map fun x => (x, natOfBytes ((piece.drop (4 * x)).take 4)))
    { setTexp k t (bitsOf c.e.opa.toNat 32 8) with tsat := setBit32 k.tsat t false }) s

/-- TLOAD. DESIGN CHOICE (log 19): where several conditions of R127 item 3 hold, the reason is that of the scalar operand
(0x04) before that of the table range (0x02). -/
def effTload (c : VCtx) : Op Unit := do
  let l ← leaseOf c
  let ns := bitsOf c.e.opa.toNat 24 6
  let ts := bTs c.f
  if ns = 0 then pure ()
  else if ns > 32 then badHandle c 0x04
  else if ts + ns - 1 > 31 then badHandle c 0x02
  else
    runUnits c ns (tloadUnit c l)
    doing (bindLease (bindSlots ts (ts + ns - 1)))

/-- One slot stored from every selected bank; the page must be pinned with W. Whether it takes part in runs, as Table 4-15
marks it, or is ordinary traffic alone, as R91 and R92 have it, is free (log 20). The thread's later reads of the banks follow
its writes (R129). DESIGN CHOICE (log 19): where one bank's page does not grant W and another bank's row is not pinned, the missing pin is
reported, whichever bank comes first by selection index. -/
def tstoreUnit (c : VCtx) (l : Lease) (j : Nat) : Op Unit := do
  let bs := selectedBanks l c.e.bmask
  let (row, off) := pieceOf c j
  let pins ← pinnedRows l (bs.map fun b => (b, row))
  match (bs.zip pins).find? fun x => !x.2.1.w with
  | some (b, _) => fault 0x09 (bankForm b row) 0
  | none =>
    let s ← get
    let n ← nextFree
    let write : Op Unit := do
      awaitLease pins off 1024
      checkLogic bs [bTs c.f + j]
      (bs.zip pins).forM fun (b, _, pa) => doing fun s =>
        let bytes := (List.range 256).flatMap fun x => bytesOfNat 4 (slotEntry (bankAt s b) (bTs c.f + j) x)
        let ps := (List.range 1024).map (pa + off + ·)
        let s := l2Invalidate (writePlaces s .device (placed ps bytes)) ps
        rowFrom b s.now s
    if Config.freeBit n || !(headRuns s.th).isEmpty then inRuns bs 1 write else write

/-- TSTORE; reasons as for TLOAD, with an unbound slot (0x03) last. DESIGN CHOICE (log 20): it stops between two of its units when the lease is revoked, as R112 has
an instruction in progress stop, where an instruction without runs could also be let complete. -/
def effTstore (c : VCtx) : Op Unit := do
  let l ← leaseOf c
  let ns := bitsOf c.e.opa.toNat 24 6
  let ts := bTs c.f
  if ns = 0 then pure ()
  else if ns > 32 then badHandle c 0x04
  else if ts + ns - 1 > 31 then badHandle c 0x02
  else if !slotsBound l ts (ts + ns - 1) then badHandle c 0x03
  else runUnits c ns (tstoreUnit c l)

/-! ### TBUILD and TQUERY (R118, R119, R136, R137) -/

/-- The value of an index field in linear mode (Table 1-1). -/
def linValue (b w : Nat) : Int := if b = 1 then (if w % 2 = 0 then -1 else 1) else sextNat w b

/-- Field i of an entry number (R114). -/
def indexField (b x i : Nat) : Nat := bitsOf x (b * i) b

/-- tofix of R119: the value and whether it saturated. -/
def toFix (p : Nat) (texp : Int) : Int × Bool :=
  if lnsZero p then (0, false)
  else
    let l := lnsCode p
    let fr := l % 256
    let mag := rneShift (exp2Table fr.toNat : Int) (15 + texp - (l - fr) / 256)
    let big := decide (mag > (2 : Int) ^ 31 - 1)
    let m := if big then (2 : Int) ^ 31 - 1 else mag
    (if lnsSign p then -m else m, big)

/-- Entry `x` of a table over activations `a`, with the saturation TSAT records (R118, R119). -/
def tableEntry (b g : Nat) (cb : Option (Nat → Nat)) (texp : Int) (a : Nat → Nat) (x : Nat) : Int × Bool :=
  match cb with
  | none => ((List.range g).foldl (fun s i => s + linValue b (indexField b x i) * sextNat (a i) 16) 0, false)
  | some w =>
    let r := (List.range g).foldl (fun r i =>
      let (p, fl) := lnsMul (w (indexField b x i)) (a i)
      let (y, big) := toFix p texp
      (r.1 + y, r.2 || big || Nat.testBit fl 0)) ((0 : Int), false)
    (satInt r.1 32 true, r.2 || decide (satInt r.1 32 true ≠ r.1))

/-- One table of one token built in every selected bank (R136). -/
def tbuildUnit (c : VCtx) (l : Lease) (u : Nat) : Op Unit := do
  let bs := selectedBanks l c.e.bmask
  checkLogic bs ((c.f.vs1.toNat + u % bT c.f) :: if c.f.fn4.getLsbD 0 then [64 + bCb c.f] else [])
  let o := c.e.opa.toNat
  let b := bB c.f
  let g := bG c.f
  let t := bT c.f
  let n := 2 ^ (g * b)
  let m := (bitsOf o 24 12 + u / t) * t + u % t
  let slot := bTs c.f + m / (256 / n)
  doing fun s => bs.foldl (fun s bank => updBank s bank fun k =>
    let a := fun i => lowBits (upper k (c.f.vs1.toNat + u % t) (bitsOf o 36 8 + u / t * g + i)) 16
    let cb := if c.f.fn4.getLsbD 0 then some fun w => (smGet k.cb (16 * bCb c.f + w)).toNat else none
    let es := (List.range n).map fun x => (x, tableEntry b g cb (sextNat (bitsOf o 16 8) 8) a x)
    let k' := setSlot k slot (es.map fun e => (m % (256 / n) * n + e.1, lowBits e.2.1 32))
    let sat := es.any fun e => e.2.2
    { setTexp k' slot (bitsOf o 16 8) with tsat := setBit32 k.tsat slot (k.tsat.getLsbD slot || sat) }) s

/-- TBUILD. -/
def effTbuild (c : VCtx) : Op Unit := do
  let l ← leaseOf c
  let o := c.e.opa.toNat
  let ng := bitsOf o 0 16
  let t := bT c.f
  let sub := 256 / 2 ^ (bG c.f * bB c.f)
  let q0 := bitsOf o 24 12
  let last := bTs c.f + ((q0 + ng) * t - 1) / sub
  if bitsOf o 36 8 + ng * bG c.f > 256 then badHandle c 0x04
  else if ng > 0 && last > 31 then badHandle c 0x02
  else if c.f.fn4.getLsbD 0 && !l.cbound.getLsbD (bCb c.f) then badHandle c 0x03
  else
    runUnits c (ng * t) fun u => inRuns (selectedBanks l c.e.bmask) 1 (tbuildUnit c l u)
    if ng > 0 then doing (bindLease (bindSlots (bTs c.f + q0 * t / sub) last))

/-- TQUERY. -/
def effTquery (c : VCtx) : Op Unit := do
  let l ← leaseOf c
  let ts := bTs c.f
  if !l.tbound.getLsbD ts then badHandle c 0x03
  else
    let bs := selectedBanks l c.e.bmask
    runUnits c 1 fun _ => inRuns bs 1 do
    checkLogic bs [c.f.vs1.toNat, ts]
    doing fun s => bs.foldl (fun s b => updBank s b fun k =>
      let xs := (List.range 256).map fun e =>
        (e, sextNat (slotEntry k ts (lowBits (upper k c.f.vs1.toNat e) 8)) 32)
      setOv (setUpper k c.f.vd.toNat xs) c.f.vd.toNat false) s

/-! ### LUACC (R116, R117, R121-R123, R138) -/

/-- What the rows of an accumulation are: first group, first row's x0, scaled and its layout and string base,
and where row `i` and scale row `j` of a bank lie (none: not pinned, with its lease row). -/
structure LuRows where
  q0 : Nat
  x0 : Nat
  scaled : Bool
  layoutB : Bool
  base : Nat
  /-- bank cycles of Table 4-15 beside those of a row: the activation, the commit and what LUACC.kv adds -/
  setup : Nat := 24
  deriving DecidableEq, Repr

/-- The offset of the scale byte of input x and output o in the scale string (R117). -/
def scaleOffset (r : LuRows) (outs x o : Nat) : Nat :=
  r.base + (if r.layoutB then x * (outs / 16) + o / 16 else x / 16 * outs + o)

/-- The scale rows that row `i` reads. -/
def scaleRowsOf (r : LuRows) (f : W64) (i : Nat) : List Nat :=
  let g := bG f
  let n := 32768 / (bO f * bK f)
  if r.scaled then
    ((List.range n).flatMap fun q =>
      (List.range (bO f / 16)).map fun o => scaleOffset r (bO f) (r.x0 + (i * n + q) * g) (16 * o) / 4096).eraseDups
  else []

/-- The sum of one row for one token and output, and whether a scale of 255 was met (R121, R122). -/
def rowSum (k : Bank) (f : W64) (r : LuRows) (row : Nat) (scale : Nat → Nat) (take : Nat → Nat → Bool) (i t o : Nat) :
    Int × Bool :=
  let g := bG f
  let b := bB f
  let w := bK f
  let n := 32768 / (bO f * w)
  let sub := 256 / 2 ^ (g * b)
  (List.range n).foldl (fun acc q =>
    if take q o then
      let key := bitsOf row ((q * bO f + o) * w) w
      let x := (List.range g).foldl (fun x j => x + bitsOf key (w / g * j) b * 2 ^ (b * j)) 0
      let m := (r.q0 + i * n + q) * bT f + t
      let ent := sextNat (slotEntry k (bTs f + m / sub) (m % sub * 2 ^ (g * b) + x)) 32
      if r.scaled then
        let e := scale (scaleOffset r (bO f) (r.x0 + (i * n + q) * g) o)
        if e = 255 then (acc.1, true) else (acc.1 + rneShift ent (127 - (e : Int)), acc.2)
      else (acc.1 + ent, acc.2)
    else acc) (0, false)

/-- A bank after a row's commit (R121). -/
def commitRow (k : Bank) (f : W64) (r : LuRows) (row : Nat) (scale : Nat → Nat) (take : Nat → Nat → Bool) (i : Nat) : Bank :=
  (List.range (bT f)).foldl (fun k' t =>
    let d := f.vd.toNat + t
    let ys := (List.range (bO f)).map fun o =>
      let (p, bad) := rowSum k f r row scale take i t o
      (o, upper k d o + p, bad)
    let ov := ovOf k d || ys.any fun y => y.2.2 || out40 y.2.1
    setOv (setUpper k' d (ys.map fun y => (y.1, y.2.1))) d ov) k

/-- The slots that row `i` looks up. -/
def slotsOfRow (f : W64) (q0 i : Nat) : List Nat :=
  let n := 32768 / (bO f * bK f)
  let sub := 256 / 2 ^ (bG f * bB f)
  let a := (q0 + i * n) * bT f / sub
  let z := ((q0 + (i + 1) * n) * bT f - 1) / sub
  (List.range (z + 1 - a)).map fun j => bTs f + a + j

/-- The runs that a row takes: 64 bank cycles each of its time in Table 4-15, the activation among them (R91, R143, Table
4-16). -/
def rowRuns (f : W64) (setup scaleRows : Nat) : Nat := (setup + bT f * 512 / bK f + 112 * scaleRows + 63) / 64

/-- One row of an accumulation in every selected bank: `place` finds key rows (false) and scale rows (true). DESIGN
CHOICE (log 19): where several rows fail, the report is that of the lowest selection index, a row that is not pinned before
an uncorrectable one, key rows before scale rows, and rows before logic-layer storage. -/
def luaccUnit (c : VCtx) (bs : List Nat) (r : LuRows) (place : Bool → Nat → Nat → Op (Pin × Nat))
    (take : Nat → Nat → Nat → Nat → Bool) (i : Nat) : Op Unit := do
  let ix := List.range bs.length
  let srows := scaleRowsOf r c.f i
  let runs := rowRuns c.f r.setup srows.length
  let keys ← ix.mapM fun β => place false β i
  let scales ← ix.mapM fun β => srows.mapM fun j => place true β j
  inRuns bs runs do
  awaitLease (keys ++ scales.flatten) 0 4096
  let s ← get
  let rows ← keys.mapM fun x => readRow runs (bankBound s x.1.bank) x.1 x.2 0 4096
  let strings ← scales.mapM fun xs => xs.mapM fun x => readRow runs (bankBound s x.1.bank) x.1 x.2 0 4096
  checkLogic bs (slotsOfRow c.f r.q0 i ++ (List.range (bT c.f)).map (c.f.vd.toNat + ·))
  let rowOf := fun β => rows.getD β []
  let stringsOf := fun β => strings.getD β []
  doing fun s => (ix.zip bs).foldl (fun s (β, b) => updBank s b fun k =>
    let str := srows.zip (stringsOf β)
    let scale := fun off => match str.find? fun x => x.1 == off / 4096 with
      | some x => (x.2.getD (off % 4096) 0).toNat
      | none => 0
    commitRow k c.f r (natOfBytes (rowOf β)) scale (take β i) i) s

/-- LUACC (R138). -/
def effLuacc (c : VCtx) : Op Unit := do
  let l ← leaseOf c
  let o := c.e.opa.toNat
  let nr := bitsOf o 16 15
  let n := 32768 / (bO c.f * bK c.f)
  let sub := 256 / 2 ^ (bG c.f * bB c.f)
  let q0 := bitsOf o 48 12
  let last := bTs c.f + ((q0 + nr * n) * bT c.f - 1) / sub
  let bs := selectedBanks l c.e.bmask
  let r : LuRows :=
    { q0 := q0, x0 := 0, scaled := c.f.fn4.getLsbD 0, layoutB := bitAt o 31 == 1, base := 0 }
  if nr > 24576 then badHandle c 0x04
  else if nr > 0 && last > 31 then badHandle c 0x02
  else if nr > 0 && !slotsBound l (bTs c.f + q0 * bT c.f / sub) last then badHandle c 0x03
  else
    let row := fun sc j => if sc then bitsOf o 32 15 + j else bitsOf o 0 15 + j
    runUnits c nr (luaccUnit c bs r (fun sc β j => do
      let xs ← pinnedRows l [(bs.getD β 0, row sc j)]
      match xs with
      | x :: _ => pure x
      | [] => fault 0x09 0 0) (fun _ _ _ _ => true))

/-! ### Operations on upper registers (R140, R141) -/

/-- An element operation: `y` of the element and the second operand, `flag` when a clamp changed it; OV as
Table 4-13 says, `wide` when y outside 40 bits counts, `both` when the second register's OV counts. -/
def upperOp (c : VCtx) (wide both : Bool) (g : Int → Int → Int × Bool) : Op Unit := do
  let l ← leaseOf c
  runUnits c 1 fun _ => do
  checkLogic (selectedBanks l c.e.bmask) (c.f.vs1.toNat :: if c.f.form = 0 ∧ 32 ≤ c.f.vs2.toNat then [c.f.vs2.toNat] else [])
  doing fun s => (selectedBanks l c.e.bmask).foldl (fun s b => updBank s b fun k =>
    let a := c.f.vs1.toNat
    let second := fun e => if c.f.form = 0 then upper k c.f.vs2.toNat e else sextNat c.e.opa.toNat 40
    let ys := (List.range 256).map fun e => (e, g (upper k a e) (second e))
    let ov := ovOf k a || (both && c.f.form = 0 && ovOf k c.f.vs2.toNat) ||
      ys.any fun y => y.2.2 || (wide && out40 y.2.1)
    setOv (setUpper k c.f.vd.toNat (ys.map fun y => (y.1, y.2.1))) c.f.vd.toNat ov) s

/-- UADD. -/
def effUadd (c : VCtx) : Op Unit := upperOp c true true fun a d => (a + d, false)
/-- USUB. -/
def effUsub (c : VCtx) : Op Unit := upperOp c true true fun a d => (a - d, false)
/-- UMAX. -/
def effUmax (c : VCtx) : Op Unit := upperOp c false true fun a d => (max a d, false)
/-- UMIN. -/
def effUmin (c : VCtx) : Op Unit := upperOp c false true fun a d => (min a d, false)
/-- USHL. -/
def effUshl (c : VCtx) : Op Unit := upperOp c true false fun a d => (a * (2 : Int) ^ lowBits d 6, false)
/-- USHR. -/
def effUshr (c : VCtx) : Op Unit :=
  upperOp c false false fun a d => (if lowBits d 6 ≥ 40 then 0 else rneShift a (lowBits d 6), false)
/-- UMOV. -/
def effUmov (c : VCtx) : Op Unit := upperOp c false false fun a _ => (a, false)
/-- UCLR. -/
def effUclr (c : VCtx) : Op Unit := do
  let l ← leaseOf c
  runUnits c 1 fun _ => doing fun s => (selectedBanks l c.e.bmask).foldl (fun s b => updBank s b fun k =>
    setOv (setUpper k c.f.vd.toNat ((List.range 256).map fun e => (e, 0))) c.f.vd.toNat false) s
/-- USAT. -/
def effUsat (c : VCtx) : Op Unit := upperOp c false false fun a _ => (satInt a 32 true, satInt a 32 true != a)
/-- UCVT. -/
def effUcvt (c : VCtx) : Op Unit := upperOp c false false fun a d =>
  let y := rneShift a (sextNat (lowBits d 40) 8)
  (satInt y 16 true, satInt y 16 true != y)

/-- The span of a bank (R141). -/
def spanKey (span b : Nat) : Nat :=
  match span with
  | 0 => b / 16
  | 1 => b / 32
  | 2 => b / 64
  | _ => 0

/-- BRED. -/
def effBred (c : VCtx) : Op Unit := do
  let l ← leaseOf c
  let bs := selectedBanks l c.e.bmask
  runUnits c 1 fun _ => do
  checkLogic bs [c.f.vs1.toNat]
  let key := spanKey (if c.f.form = 1 then bitsOf c.e.opa.toNat 0 2 else 0)
  doing fun s =>
    let spans := (bs.map key).eraseDups.map fun x => bs.filter fun b => key b == x
    spans.foldl (fun s' span => match span with
      | [] => s'
      | b :: _ =>
        let ys := (List.range 256).map fun e =>
          (e, span.foldl (fun y b => y + upper (bankAt s b) c.f.vs1.toNat e) 0)
        let ov := (span.any fun b => ovOf (bankAt s b) c.f.vs1.toNat) || ys.any fun y => out40 y.2
        updBank s' b fun k => setOv (setUpper k c.f.vd.toNat ys) c.f.vd.toNat ov) s

/-! ### Between lanes and banks (R142) -/

/-- Fields of rs of VTOU and UTOV: B0, D, U, SAT; 0 in form 00 (Table 4-14). -/
def moveFields (c : VCtx) : Nat × Bool × Bool × Bool :=
  let o := (operand c).toNat
  (bitsOf o 0 14, bitAt o 16 == 1, bitAt o 17 == 1, bitAt o 18 == 1)

/-- The checks of a move, and the selected banks. -/
def moveBanks (c : VCtx) (lower : Reg) : Op (List Nat) := do
  let s ← get
  requires c (pairOk lower (sewOf s))
  let l ← leaseOf c
  let bs := selectedBanks l c.e.bmask
  let (b0, d, _, _) := moveFields c
  if b0 + 256 * (if d then bs.length else 1) > 16384 then badHandle c 0x04 else pure bs

/-- VTOU. -/
def effVtou (c : VCtx) : Op Unit := do
  let bs ← moveBanks c c.f.vs1
  let (b0, d, u, _) := moveFields c
  runUnits c 1 fun _ => doing fun s =>
    let sew := sewOf s
    ((List.range bs.length).zip bs).foldl (fun s (β, b) => updBank s b fun k =>
      let xs := (List.range 256).map fun e =>
        let j := b0 + e + if d then 256 * β else 0
        (e, if j < s.th.lanes.vl.toNat then typed u sew (src1 c sew j) else 0)
      setOv (setUpper k c.f.vd.toNat xs) c.f.vd.toNat false) s

/-- UTOV. -/
def effUtov (c : VCtx) : Op Unit := do
  let bs ← moveBanks c c.f.vd
  let (b0, d, u, sat) := moveFields c
  runUnits c 1 fun _ => do
  checkLogic (if d then bs else bs.take 1) [c.f.vs1.toNat]
  doing fun s =>
    let sew := sewOf s
    let xs := ((List.range bs.length).zip bs).flatMap fun (β, b) =>
      if !d && β != 0 then [] else
      ((List.range 256).map fun e => (b0 + e + 256 * β, upper (bankAt s b) c.f.vs1.toNat e)).filter
        fun x => x.1 < s.th.lanes.vl.toNat
    updLanes s fun l => writeElems l c.f.vd.toNat sew (xs.map fun x =>
      (x.1, lowBits (if sat then satInt x.2 sew (!u) else x.2) sew))

end Sys2Proof.Machine
end

