-- ==== Sys2Proof/Machine/Engine.lean ====
section
/-! DEFINITION. The engines (R168-R193): acceptance of their commands, copies and fills, streams, storage,
collectives, cancellation, and the end of a command. -/
namespace Sys2Proof.Machine

/-! ### Commands -/

/-- The package with a command changed. -/
def updCmd (s : State) (id : Nat) (f : Cmd → Cmd) : State :=
  { s with cmds := s.cmds.map fun k => if k.id == id then f k else k }

/-- A command's outcome is known; lines it has not written stay its own until its end (R173, R175). -/
def settleCmd (s : State) (id : Nat) (status : BitVec 7) (count : Nat) : State :=
  updCmd s id fun k => { k with prog := .ended status count }

/-- An XCANCEL command. -/
def Cmd.isCancel (k : Cmd) : Bool :=
  match k.insn with
  | .xcancel _ => true
  | _ => false

/-- The word of an engine command. -/
def Cmd.word (k : Cmd) : BitVec 16 :=
  match vecKey k.insn with
  | some (_, _, f) => f.x16
  | none => 0

/-- The scope of a command's slot write (Table 2-9). -/
def Cmd.scope (k : Cmd) : BitVec 3 := k.word.setWidth 3

/-- The unit that carries a command out, by a command of it: XCANCEL belongs to the engine that holds its target (Table
6-1). -/
def Cmd.unit (k : Cmd) : Instr := k.target.getD k.insn

/-- That unit as a scope names it: the storage engine is in module 0 (R168, R337). -/
def Cmd.agent (k : Cmd) : Agent :=
  .unit (match k.unit with
    | .xstorRead _ | .xstorWrite _ | .xstorFlush _ => 0
    | _ => moduleOf k.core) k.hw

/-- A command of a stream unit. -/
def Cmd.isStream (k : Cmd) : Bool :=
  match k.unit with
  | .xstrm _ | .xsclose _ => true
  | _ => false

/-- How a unit's own reads use a line: those of the engines but the stream units set the used bit (R148). -/
def Cmd.use (k : Cmd) : L2Use := if k.isStream || (engineRow k.insn).isNone then .peek else .read

/-- A command ends: its slot is written as its scope's release, and its ownership ends (R173, R175). -/
def endCmd (s : State) (k : Cmd) (status count : Nat) : State :=
  let s := { s with cmds := s.cmds.filter fun x => x.id != k.id }
  writeSlot (cmdCtx k) k.slot status count s
    { cls := if k.isStream then .once else .normal, use := k.use, release := some (k.agent, unitKey k.id, k.scope) }

/-- Bytes that a command writes where nothing orders them but its release: they wait to be performed, each aligned 8-byte word
at an instant of its own, by 32-byte blocks (R334, R336, R339). -/
def commitUnit (s : State) (k : Cmd) (cls : L2Class) (outside : Bool) (ws : List (Nat × Byte)) : State :=
  let blocks := (ws.map fun w => w.1 / 32).eraseDups
  let ys := ((List.range blocks.length).zip blocks).map fun (i, b) =>
    ({ serial := s.nextStore + i, thread := unitKey k.id, core := k.core, ws := byteWrites (ws.filter fun w => w.1 / 32 == b)
       cmd := some { task := k.task, cls := cls, outside := outside, since := k.since } } : PendingStore)
  let t := { s with pending := s.pending ++ ys, nextStore := s.nextStore + blocks.length }
  if s.weak then t else performUnits (fun x => x.thread == unitKey k.id) t

/-- The L2 class a command's destination takes (Table 6-2). -/
def Cmd.cls (k : Cmd) : L2Class :=
  match bitsOf k.word.toNat 3 2 with
  | 1 => .keep
  | 2 => .once
  | _ => .normal

/-- A command as it is accepted. -/
def newCmd (s : State) (c : VCtx) (t : Task) : Cmd :=
  { id := s.nextCmd, insn := c.e.insn, task := t.id, launch := t.launch, rank := t.rank, core := coreOf s.th, hw := s.th.id
    gang := if recInGang t.launch then gangOf s t.base else []
    sd := c.e.opd, sa := c.e.opc, sn := c.e.opb, slot := c.e.opa, since := s.now }

/-- The context of an engine's checks at acceptance: never served (R419). -/
def engineCtx (s : State) : Ctx := { curCtx s with served := false, answer := none }

/-- Acceptance (R169-R171): the limits, the slot, the windows, the room for one more command, and the earlier accesses of
the thread, which are performed first (R338, R346). `noSlot` is what a slot address of 0 gives. Acceptance is a moment of its
own, which the thread's vector side has reached. DESIGN CHOICE (log 41): the 256 commands are those of the task, so that what
an earlier task of the hardware thread left does not count. -/
def accept (c : VCtx) (limits windows : Op Unit) (f : Cmd → State → Cmd × State) (noSlot : Op Unit := badHandle c 0x04) : Op Unit := do
  if c.e.opa = 0 then noSlot
  limits
  let s ← get
  let _ ← resolve (engineCtx s) c.e.opa 8 8 .write
  windows
  let s ← get
  match curTask s with
  | none => pure ()
  | some t =>
    let k := newCmd s c t
    if !k.isCancel && (s.cmds.filter fun x => x.task == t.id && !x.isCancel).length ≥ 256 then waits
    else
      awaitFills
      releaseStores
      let s ← get
      let since := s.now + 1
      let (k, s) := f { k with since := since } (noteVector since { s with now := since })
      set { s with cmds := s.cmds ++ [k], nextCmd := s.nextCmd + 1 }

/-- A command that does nothing until it completes. -/
def plain (k : Cmd) (s : State) : Cmd × State := (k, s)

/-- The reason of the first byte of a window range that fails R163. DESIGN CHOICE (log 41): a range that begins below the
windows is none, even where it reaches into them; what fails there is reported by status. -/
def windowFault (s : State) (c : Ctx) (va : Word) (n : Nat) : Option Nat :=
  if isWindow va.toNat then
    (List.range n).findSome? fun i => match windowByte s c va.toNat i with
      | .error r => some r
      | .ok _ => none
  else none

/-- A window range that fails R163 anywhere is 0x0A at the range's address (R163, R171). -/
def checkWindow (va : Word) (n : Nat) : Op Unit := do
  let s ← get
  match windowFault s (engineCtx s) va n with
  | some r => fault 0x0A va r
  | none => pure ()

/-- The lines a destination range takes into ownership (R175). -/
def ownedPieces (c : Ctx) : List (Nat × Nat) → State → List (Nat × Nat) × State
  | [], s => ([], s)
  | (a, m) :: rest, s =>
    let (x, s) :=
      if a < 2 ^ 56 && isWindow a then
        ((linesOf ((List.range m).filterMap fun i => match windowByte s c a i with
          | .ok p => some p
          | .error _ => none)).map fun p => (p, 128), s)
      else if a ≥ 2 ^ 56 then ([], s)
      else match translateVa s c.core (recAspace c.launch) a .write false s.free with
        | (.at pa _, s) => ([(pa, m)], { s with free := s.free + 1 })
        | (_, s) => ([], { s with free := s.free + 1 })
    let (y, s) := ownedPieces c rest s
    (x ++ y, s)

/-- A piece of owned storage holds a line. -/
def pieceHolds (r : Nat × Nat) (line : Nat) : Bool := decide (r.1 / 128 ≤ line / 128) && decide (line / 128 ≤ (r.1 + r.2 - 1) / 128)

/-- A command that owns a destination range; L1 copies of its lines go (R175). -/
def owning (va : Word) (n : Nat) (k : Cmd) (s : State) : Cmd × State :=
  let (r, s) := ownedPieces (cmdCtx k) (piecesOf va.toNat n) s
  ({ k with owned := k.owned ++ r }, { s with l1d := s.l1d.filter fun l => !r.any fun x => pieceHolds x l.pa })

/-- The lines of a piece. -/
def pieceLines (r : Nat × Nat) : List Nat :=
  if r.2 = 0 then [] else (List.range ((r.1 + r.2 - 1) / 128 + 1 - r.1 / 128)).map fun i => 128 * (r.1 / 128 + i)

/-- A command's ownership of some lines ends: they have been written (R175). -/
def disown (lines : List Nat) (k : Cmd) : Cmd :=
  { k with owned := k.owned.flatMap fun r =>
      if lines.any (pieceHolds r) then ((pieceLines r).filter fun l => !lines.contains l).map fun l => (l, 128) else [r] }

/-- An earlier command owns a line that this one has yet to write: lines are granted in the order of acceptance (R175). -/
def grantHeld (s : State) (k : Cmd) : Bool :=
  (s.cmds.takeWhile fun x => x.id != k.id).any fun x => x.owned.any fun a => k.owned.any fun b =>
    decide (a.1 / 128 ≤ (b.1 + b.2 - 1) / 128) && decide (b.1 / 128 ≤ (a.1 + a.2 - 1) / 128)

/-- Bytes of a transfer are limited to 2^40 - 1 (R178). -/
def transferLimit (c : VCtx) (n : Word) : Op Unit := if n.toNat < 2 ^ 40 then pure () else badHandle c 0x04

/-! ### Copies and fills (R178-R180) -/

/-- XCOPY. DESIGN CHOICE (log 41): where both window ranges fail R163, the destination is the one reported. -/
def effXcopy (c : VCtx) : Op Unit :=
  let n := c.e.opb.toNat
  accept c (transferLimit c c.e.opb) (do checkWindow c.e.opd n; checkWindow c.e.opc n) (owning c.e.opd n)

/-- XFILL. -/
def effXfill (c : VCtx) : Op Unit :=
  let n := c.e.opb.toNat
  accept c (transferLimit c c.e.opb) (checkWindow c.e.opd n) (owning c.e.opd n)

/-- The address of the own-core scratchpad address `sd` in the scratchpad of a global core (R180). -/
def scratchAddr (core : Nat) (sd : Word) : Word :=
  BitVec.ofNat 64 (0xFFFF * 2 ^ 40 + 4 * 2 ^ 36 + bitsOf sd.toNat 30 2 * 2 ^ 30 + core % 64 * 2 ^ 24 + bitsOf sd.toNat 0 21)

/-- The cores that an XCOPYM selects. -/
def maskedCores (core : Nat) (x16 : BitVec 16) : List Nat := (onesBelow 4 (bitsOf x16.toNat 5 4)).map (core / 4 * 4 + ·)

/-- The window checks of XCOPYM's destinations, those of selector 4 for each selected core (R180). DESIGN CHOICE (log 41):
FADDR of reasons 0x03, 0x04 and 0x06 is the selector-4 address in the lowest core that fails, and the destinations are checked
before the source. -/
def checkCores (n : Nat) (sd : Word) : List Nat → Op Unit
  | [] => pure ()
  | k :: ks => do
    let s ← get
    if !corePresent s k then fault 0x0A (scratchAddr k sd) 0x03
    checkWindow (scratchAddr k sd) n
    checkCores n sd ks

/-- The window checks of XCOPYM (R171 item 3, R180). -/
def checkScratch (c : VCtx) (n : Nat) : Op Unit := do
  let s ← get
  let sd := c.e.opd
  if n ≠ 0 ∧ Nat.land (bitsOf sd.toNat 0 36) 0xC01FFFFF ≠ bitsOf sd.toNat 0 36 then fault 0x0A sd 0x02
  checkCores n sd (maskedCores (coreOf s.th) c.f.x16)
  checkWindow c.e.opc n

/-- XCOPYM. -/
def effXcopym (c : VCtx) : Op Unit :=
  let n := c.e.opb.toNat
  let limits := do
    transferLimit c c.e.opb
    if bitsOf c.f.x16.toNat 5 4 = 0 ∨ ¬isWindow c.e.opd.toNat ∨ bitsOf c.e.opd.toNat 36 4 ≠ 0 then badHandle c 0x04
  accept c limits (checkScratch c n) fun k s =>
    (maskedCores k.core c.f.x16).foldl (fun r core => owning (scratchAddr core k.sd) n r.1 r.2) (k, s)

/-- The status of Table 6-4 for a cause. -/
def causeStatus (e : Nat) : Nat := if e = 0x07 ∨ e = 0x08 ∨ e = 0x14 then e else 0x09

/-- What a command accepted after `since` writes reads at offset `i`: the byte, or the COUNT and status of the failure
(Table 6-4). -/
def sourceByte (s : State) (since i : Nat) (r : Reached) : Except (Nat × Nat) Byte :=
  match r with
  | .error e => .error (i, causeStatus e)
  | .ok p => if !s.uncorr.isEmpty && isUncorr s p then .error (i, 0x14) else .ok (engineByte s since p)

/-- What a command reads of some bytes, the words counted and the L2 touched (R100, R101, R148). -/
def sourceBytes (k : Cmd) (rs : List Reached) (cls : L2Class) (use : L2Use) (s : State) :
    List (Except (Nat × Nat) Byte) × State :=
  let xs := ((List.range rs.length).zip rs).map fun x => sourceByte s k.since x.1 x.2
  let ps := somePlaces rs
  (xs, l2Touch (countRead { s with free := s.free + 1 } ps) ps cls use)

/-- The failures among some bytes. -/
def readFails (xs : List (Except (Nat × Nat) Byte)) : List (Nat × Nat) :=
  xs.filterMap fun x => match x with
    | .error f => some f
    | .ok _ => none

/-- The bytes among some. -/
def readOks (xs : List (Except (Nat × Nat) Byte)) : List Byte :=
  xs.filterMap fun x => match x with
    | .ok b => some b
    | .error _ => none

/-- The failure with the lowest COUNT, the first of equals. -/
def lowestFail (fs : List (Nat × Nat)) : Option (Nat × Nat) :=
  fs.foldl (fun b f => match b with
    | none => some f
    | some g => if f.1 < g.1 then some f else some g) none

/-- A transfer of a command from `src` to one or more destinations, ending with COUNT and status: bytes below COUNT are
new, each byte above is new or old by a free choice of its own (R174). DESIGN CHOICE (log 43): where source and destination
fail at the same lowest offset, the source's status is the one reported. -/
def transfer (s : State) (k : Cmd) (src : List (Except (Nat × Nat) Byte)) (dsts : List (List Reached)) (outside : Bool) :
    Nat × Nat × State :=
  let n := src.length
  let fails := readFails src ++
    dsts.flatMap fun d => ((List.range n).zip d).filterMap fun (i, r) => match r with
      | .error e => some (i, causeStatus e)
      | .ok _ => none
  let (count, status) := (lowestFail fails).getD (n, 0)
  let (count, status) := if k.cancelled then (min count (Config.freeNat s.free % (n + 1)), 0x01) else (count, status)
  let ws := ((List.range dsts.length).zip dsts).flatMap fun (j, d) =>
    ((List.range n).zip (src.zip d)).filterMap fun (i, x, r) =>
      match x, r with
      | .ok b, .ok p => if i < count || Config.freeBit (s.free + 1 + n * j + i) then some (p, b) else none
      | _, _ => none
  let s := { s with free := s.free + 1 + n * dsts.length }
  (count, status, commitUnit s k k.cls outside ws)

/-- XCOPY or XCOPYM performed: every byte is read, then written (R176). DESIGN CHOICE (log 43): a destination byte that is a
source byte too receives the source's earlier value, never one that this command wrote (R178). -/
def performCopy (s : State) (k : Cmd) (dests : List Word) : State :=
  let n := k.sn.toNat
  let (rs, s) := reachBytes (cmdCtx k) .read k.sa n s
  let (ds, s) := dests.foldl (fun (r : List (List Reached) × State) d =>
    let (x, s) := reachBytes (cmdCtx k) .write d n r.2
    (r.1 ++ [x], s)) ([], s)
  let (src, s) := sourceBytes k rs .normal .read s
  let (count, status, s) := transfer s k src ds false
  endCmd s k status count

/-- XFILL performed. -/
def performFill (s : State) (k : Cmd) : State :=
  let n := k.sn.toNat
  let (ds, s) := reachBytes (cmdCtx k) .write k.sd n s
  let src := (List.range n).map fun i => Except.ok (BitVec.ofNat 8 (bitsOf k.sa.toNat (8 * (i % 8)) 8))
  let (count, status, s) := transfer s k src [ds] false
  endCmd s k status count

/-! ### Streams (R182-R185) -/

/-- A small range read by an engine as it now stands: its bytes, or the status. A stream unit requests ONCE and sets no
used bit (R148). -/
def engineRead (s : State) (k : Cmd) (va : Word) (n : Nat) : Except Nat (List Byte) × State :=
  let (rs, s) := reachBytes (cmdCtx k) .read va n s
  let (xs, s) := sourceBytes { k with since := s.now } rs (if k.isStream then .once else .normal) k.use s
  match lowestFail (readFails xs) with
  | some (_, status) => (.error status, s)
  | none => (.ok (readOks xs), s)

/-- Bytes that a unit writes at a virtual address, by an operation on their places; the status of the first that cannot be
reached. -/
def unitWrite (s : State) (k : Cmd) (va : Word) (bs : List Byte) (f : State → List Nat → State) : Option Nat × State :=
  let (rs, s) := reachBytes (cmdCtx k) .write va bs.length s
  match allPlaces rs with
  | some ps => (none, f s ps)
  | none =>
    (rs.findSome? fun r => match r with
      | .error e => some (causeStatus e)
      | .ok _ => none, s)

/-- Bytes written at their homes at one instant, after what commands have yet to write there. -/
def storeNow (cls : L2Class) (ps : List Nat) (bs : List Byte) (s : State) : State :=
  l2Touch (writePlaces (performUnits (fun x => x.meets ps) s) .device (placed ps bs)) ps cls .write

/-- A counter of a stream's descriptor written, as a release of what the unit has written (R184). -/
def writeCounter (s : State) (k : Cmd) (va : Word) (bs : List Byte) : Option Nat × State :=
  unitWrite s k va bs fun s ps => markCommand ps k.agent (unitKey k.id) k.scope (storeNow .once ps bs s)

/-- Decoded bytes written to the ring (R184). -/
def writeDecoded (s : State) (k : Cmd) (va : Word) (bs : List Byte) : Option Nat × State :=
  unitWrite s k va bs fun s ps => commitUnit s k .once false (placed ps bs)

/-- The open streams. -/
def openStreams (s : State) : List (Cmd × Stream) :=
  s.cmds.filterMap fun k => match k.prog with
    | .stream st => some (k, st)
    | _ => none

/-- XSTRM opens its stream, or ends with a status (R182, R184). -/
def openStream (k : Cmd) (s : State) : Cmd × State :=
  let stop := fun (st : Nat) s => ({ k with prog := .ended (BitVec.ofNat 7 st) 0 }, s)
  let d := k.sa
  let mine := (openStreams s).filter fun x => moduleOf x.1.core == moduleOf k.core
  if mine.length ≥ 16 || (openStreams s).any (fun x => x.2.desc == d && recAspace x.1.launch == recAspace k.launch) then
    stop 0x04 s
  else if d.toNat % 64 ≠ 0 then stop 0x16 s
  else match engineRead s k d 64 with
    | (.error st, s) => stop st s
    | (.ok bs, s) =>
      let rsz := dwordOf bs 3 % 64
      if rsz < 16 || 30 < rsz || dwordOf bs 2 % 128 != 0 then stop 0x16 s
      else match writeCounter s k (d + 0x20) (dwords [0, 0]) with
        | (some st, s) => stop st s
        | (none, s) =>
          let st : Stream :=
            { desc := d, src := BitVec.ofNat 64 (dwordOf bs 0), srclen := BitVec.ofNat 64 (dwordOf bs 1)
              ring := BitVec.ofNat 64 (dwordOf bs 2), rsz := rsz }
          ({ k with prog := .stream st }, s)

/-- Engine commands whose only operand is sa, with no limit of its own. -/
def effXstrm (c : VCtx) : Op Unit := accept c (pure ()) (pure ()) openStream
/-- XSCLOSE. -/
def effXsclose (c : VCtx) : Op Unit := accept c (pure ()) (pure ()) plain

/-- The tokens of an LZ payload decoded onto the output so far; none when malformed (R183). `fuel` is the
payload's length. -/
def lzDecode (limit : Nat) : Nat → List Byte → List Byte → Option (List Byte)
  | _, [], y => some y
  | 0, _, _ => none
  | fuel + 1, t :: rest, y =>
    let m := t.toNat % 128
    let y' := if t.toNat < 128 then (if rest.length < m + 1 then none else some (y ++ rest.take (m + 1)))
      else match rest with
        | a :: b :: _ =>
          let d := a.toNat + 256 * b.toNat
          if d = 0 || y.length < d then none
          else some ((List.range (m + 3)).foldl (fun y _ => y ++ [y.getD (y.length - d) 0]) y)
        | _ => none
    match y' with
    | none => none
    | some y' =>
      if limit < y'.length then none else lzDecode limit fuel (rest.drop (if t.toNat < 128 then m + 1 else 2)) y'

/-- The output of a block; none when malformed (R183). -/
def decodeBlock (kind outlen : Nat) (p : List Byte) : Option (List Byte) :=
  let y := match kind with
    | 0 => some p
    | 1 => if p.length = 1 then some (List.replicate outlen (p.headD 0)) else none
    | _ => lzDecode outlen p.length p []
  match y with
  | some y => if y.length = outlen then some y else none
  | none => none

/-- The ring bytes of a block, in pieces that do not pass the ring's end. -/
def writeRing (s : State) (k : Cmd) (st : Stream) (y : List Byte) : Option Nat × State :=
  let pos := st.prod % 2 ^ st.rsz
  let first := y.take (2 ^ st.rsz - pos)
  match writeDecoded s k (st.ring + BitVec.ofNat 64 pos) first with
  | (some e, s) => (some e, s)
  | (none, s) => writeDecoded s k st.ring (y.drop first.length)

/-- CONS of a stream, read as an acquire at the command's scope; none when it has to be read again (R184). -/
def readCons (s : State) (k : Cmd) (st : Stream) : Option (Except Nat (List Byte) × State) :=
  let (rs, s) := reachBytes (cmdCtx k) .read (st.desc + 0x28) 8 s
  (acquireFor k.agent k.scope (somePlaces rs) s).map fun s => engineRead s k (st.desc + 0x28) 8

/-- The next block of an open stream: decoded, written and published when the ring has room, or the
stream's end (R183, R184). DESIGN CHOICE (log 43): no byte of a block is written before the whole block has room, so that none
stands in the ring above PROD but while its block is being published. -/
def decodeNext (s : State) (k : Cmd) (st : Stream) : State :=
  let stop := fun (s : State) (e : Nat) => settleCmd s k.id (BitVec.ofNat 7 e) st.prod
  let left := st.srclen.toNat - st.taken
  let at' := st.src + BitVec.ofNat 64 st.taken
  if left < 8 then stop s 0x15
  else match engineRead s k at' 8 with
    | (.error e, s) => stop s e
    | (.ok hb, s) =>
      let h := natOfBytes hb
      let inlen := bitsOf h 24 24
      let outlen := bitsOf h 8 16 + 1
      let kind := h % 4
      let pad := ceilDiv inlen 8 * 8
      if kind = 3 then stop s (if h = 3 then 0x00 else 0x15)
      else if bitsOf h 2 6 ≠ 0 || bitsOf h 48 8 ≠ 0 || left < 8 + pad + 8 then stop s 0x15
      else match engineRead s k (at' + 8) inlen with
        | (.error e, s) => stop s e
        | (.ok p, s) =>
          if (p.foldl (· ^^^ ·) 0).toNat ≠ bitsOf h 56 8 then stop s 0x15
          else match decodeBlock kind outlen p with
            | none => stop s 0x15
            | some y => match readCons s k st with
              | none => s
              | some (.error e, s) => stop s e
              | some (.ok cb, s') =>
                if st.prod + outlen > natOfBytes cb + 2 ^ st.rsz then s
                else match writeRing s' k st y with
                  | (some e, s) => stop s e
                  | (none, s) =>
                    let prod := st.prod + outlen
                    match writeCounter s k (st.desc + 0x20) (bytesOfNat 8 prod) with
                    | (some e, s) => stop s e
                    | (none, s) => updCmd s k.id fun k =>
                        { k with prog := .stream { st with taken := st.taken + 8 + pad, prod := prod } }

/-- XSCLOSE performed: the stream's slot, then its own (R185). DESIGN CHOICE (log 22): one that an XCANCEL has reached
ends CANCELLED with COUNT 0 and closes nothing. -/
def performClose (s : State) (k : Cmd) : State :=
  if k.cancelled then endCmd s k 0x01 0
  else match (openStreams s).find? fun x => x.1.task == k.task && x.2.desc == k.sa with
  | some (x, st) => endCmd (endCmd s x 0x02 st.prod) k 0x00 st.prod
  | none => endCmd s k 0x03 0

/-- HALT closes every open stream of a task (R193). -/
def closeStreams (s : State) (task : BitVec 32) : State :=
  { s with cmds := s.cmds.map fun k =>
      if k.task == task then match k.prog with
        | .stream st => { k with prog := .stream { st with closing := true } }
        | _ => k
      else k }

/-! ### Storage (R186-R188, R452) -/

/-- The registers of drive slot `n` (Table 15-5). -/
def drvRegs (s : State) (n : Nat) : List Word := (List.range 4).map fun i => ctlGet s (regDrv + 32 * n + 8 * i)

/-- BOUND of a drive slot. -/
def drvBound (s : State) (n : Nat) : Bool := bitAt (ctlGet s (regDrv + 32 * n)).toNat 63 == 1

/-- The drive slot of an XSTOR. -/
def Cmd.drive (k : Cmd) : Nat := bitsOf k.word.toNat 5 2

/-- A field of the drive slot's registers as an XSTOR found them (R452). -/
def Cmd.drvField (k : Cmd) (reg lo w : Nat) : Nat := bitsOf (k.drv.getD reg 0).toNat lo w

/-- LBS of an XSTOR. -/
def Cmd.lbs (k : Cmd) : Nat := 2 ^ k.drvField 3 16 8

/-- The parts an XSTOR's request is split into (R187). -/
def storeParts (k : Cmd) (blocks : Nat) : List StorePart :=
  let mdts := k.drvField 3 0 16
  let per := max 1 (min (2 ^ 21) (if mdts = 0 then 2 ^ 21 else mdts * 4096) / k.lbs)
  (List.range (ceilDiv blocks per)).map fun i => { first := i * per, count := min per (blocks - i * per) }

/-- Whether an XSTOR moves data to memory, to the drive, or none. -/
inductive StoreKind where
  | read | write | flush
  deriving DecidableEq, Repr

/-- The variant of an XSTOR command. -/
def Cmd.storeKind (k : Cmd) : StoreKind :=
  match k.insn with
  | .xstorRead _ => .read
  | .xstorWrite _ => .write
  | _ => .flush

/-- NVMe commands with a drive. -/
def inFlight (s : State) (n : Nat) : Nat := (s.nvme.filter fun x => x.drive == n).length

/-- The buffer of a part as the engine reaches it: the places below the first failing byte, and that byte's offset within
the part with its status (R186, R187). DESIGN CHOICE (log 43): a buffer that begins below the windows and runs into them is
moved to or from window storage there. -/
def partBuffer (s : State) (k : Cmd) (p : StorePart) : List Nat × Option (Nat × Nat) × State :=
  let acc : Access := if k.storeKind = .read then .write else .read
  let (rs, s) := reachBytes (cmdCtx k) acc (k.sd + BitVec.ofNat 64 (p.first * k.lbs)) (p.count * k.lbs) s
  let bad := ((List.range rs.length).zip rs).filterMap fun (i, r) =>
    match r with
    | .error e => some (i, causeStatus e)
    | .ok q =>
      if isHost q then some (i, 0x09)
      else if k.storeKind = .write && isUncorr s q then some (i, 0x14) else none
  match lowestFail bad with
  | some f =>
    let s := if f.2 = 0x14 then (badWords s (somePlaces ((rs.drop f.1).take 1))).foldl countUncorr s else s
    (somePlaces (rs.take (f.1 / k.lbs * k.lbs)), some f, s)
  | none => (somePlaces rs, none, s)

/-- The lower of two failures of a request. -/
def lowerFail (a : Option (Nat × BitVec 7 × BitVec 15)) (b : Nat × BitVec 7 × BitVec 15) : Option (Nat × BitVec 7 × BitVec 15) :=
  match a with
  | some x => if b.1 < x.1 then some b else some x
  | none => some b

/-- The NVMe command of a part of an XSTOR through the slot's queue pair (R186, R187). -/
def nvmeOf (k : Cmd) (i : Nat) (p : StorePart) (data : List Byte) : NvmeCmd :=
  { drive := k.drive, cmd := k.id, part := i, sq := k.drvField 1 12 52 * 4096, cq := k.drvField 2 12 52 * 4096
    nsid := k.drvField 0 0 32
    op := (match k.storeKind with
      | .read => 2
      | .write => 1
      | .flush => 0)
    lba := if k.storeKind = .flush then 0 else k.sa + BitVec.ofNat 64 p.first, blocks := p.count, data := data }

/-- A part of a request sent to the drive. -/
def sendPart (s : State) (k : Cmd) (parts : List StorePart) (fail : Option (Nat × BitVec 7 × BitVec 15)) (i : Nat)
    (p : StorePart) (data : List Byte) : State :=
  { updCmd s k.id fun k => { k with prog := .store (parts.set i { p with submitted := true }) fail } with
    nvme := s.nvme ++ [nvmeOf k i p data] }

/-- A part of a request submitted, when nothing stands against it. One whose buffer fails is cut to the whole blocks
before the failure (R174). -/
def submitPart (id i : Nat) (s : State) : State :=
  match s.cmds.find? fun k => k.id == id with
  | none => s
  | some k => match k.prog with
    | .store parts fail =>
      let n := k.drive
      let room := decide (inFlight s n + 1 < 2 ^ k.drvField 1 0 4)
      match parts[i]? with
      | some p =>
        if p.submitted || p.done || fail.isSome || k.cancelled || (smGet s.drives n).suspended || !room then s
        else if k.storeKind = .flush then sendPart s k parts none i p []
        else
          let (ps, f, s) := partBuffer s k p
          let (src, s) := if k.storeKind = .write then sourceBytes k (ps.map Except.ok) .normal .read s else ([], s)
          match f with
          | none => sendPart s k parts none i p (readOks src)
          | some (o, st) =>
            let fail := some (p.first * k.lbs + o, BitVec.ofNat 7 st, 0)
            let p := { p with count := o / k.lbs }
            if p.count = 0 then
              updCmd s k.id fun k => { k with prog := .store (parts.set i { p with submitted := true, done := true }) fail }
            else sendPart s k parts fail i p (readOks src)
      | none => s
    | _ => s

/-- Every request of a drive slot submits what it can, oldest first; nothing while the package is stopped (R448). -/
def pumpDrive (s : State) (n : Nat) : State :=
  if s.stopped then s
  else (s.cmds.filter fun k => match k.prog with
    | .store _ _ => k.drive == n
    | _ => false).foldl (fun s k => match k.prog with
    | .store parts _ => (List.range parts.length).foldl (fun s i => submitPart k.id i s) s
    | _ => s) s

/-- An XSTOR accepted for a request, with the registers of its drive slot. -/
def acceptStore (c : VCtx) (limits windows : Op Unit) (f : Cmd → State → Cmd × State) : Op Unit := do
  let n := bitsOf c.f.x16.toNat 5 2
  let limits' := do
    let s ← get
    if !drvBound s n then badHandle c 0x04
    limits
  accept c limits' windows fun k s => f { k with drv := drvRegs s n } s
  doing fun s => pumpDrive s n

/-- The limits of READ and WRITE (R186). -/
def storeLimits (c : VCtx) : Op Unit :=
  let n := c.e.opb.toNat
  if n = 0 ∨ 2 ^ 20 < n ∨ isWindow c.e.opd.toNat then badHandle c 0x04 else pure ()

/-- The buffer of READ and WRITE is 4 KiB-aligned (R186). -/
def storeAligned (c : VCtx) : Op Unit := if c.e.opd.toNat % 4096 = 0 then pure () else fault 0x06 c.e.opd 0

/-- XSTOR.read. -/
def effXstorRead (c : VCtx) : Op Unit :=
  acceptStore c (storeLimits c) (storeAligned c) fun k s =>
    let n := c.e.opb.toNat
    let (k, s) := owning k.sd (n * k.lbs) k s
    ({ k with prog := .store (storeParts k n) none }, s)

/-- XSTOR.write. -/
def effXstorWrite (c : VCtx) : Op Unit :=
  acceptStore c (storeLimits c) (storeAligned c) fun k s =>
    ({ k with prog := .store (storeParts k c.e.opb.toNat) none }, s)

/-- XSTOR.flush. -/
def effXstorFlush (c : VCtx) : Op Unit :=
  acceptStore c (pure ()) (pure ()) fun k s => ({ k with prog := .store [{ first := 0, count := 0 }] none }, s)

/-- A part of a request ends, with a failure or none; lines it wrote are released and the drive's queue moves on. -/
def partDone (s : State) (k : Cmd) (i : Nat) (f : Option (Nat × BitVec 7 × BitVec 15)) (lines : List Nat) : State :=
  let s := { s with nvme := s.nvme.filter fun x => !(x.cmd == k.id && x.part == i) }
  let s := updCmd s k.id fun k => match k.prog with
    | .store parts fail =>
      let parts := parts.mapIdx fun j p => if j = i then { p with submitted := true, done := true, ok := f.isNone } else p
      let fail := match f with
        | some x => lowerFail fail x
        | none => fail
      disown lines { k with prog := .store parts fail }
    | _ => k
  pumpDrive s k.drive

/-- An NVMe completion with its status field, and the blocks read (R187). Blocks of a part that fails in its buffer are
moved up to the failure (R174); those of a cancelled READ whose lines another command has yet to write are not. DESIGN CHOICE
(log 43): a part that the drive fails moves none of its blocks, which are then old. -/
def driveComplete (s : State) (id i : Nat) (sf : BitVec 15) (data : List Byte) : State :=
  match s.cmds.find? fun k => k.id == id with
  | none => s
  | some k => match k.prog with
    | .store parts _ => match parts[i]? with
      | some p =>
        if !p.submitted || p.done then s
        else if grantHeld s k then (if k.cancelled then partDone s k i (some (p.first * k.lbs, 0x01, 0)) [] else s)
        else if sf.toNat % 2 ^ 11 ≠ 0 then partDone s k i (some (p.first * k.lbs, 0x17, sf)) []
        else if k.storeKind ≠ .read then partDone s k i none []
        else if data.length ≠ p.count * k.lbs then s
        else
          let (ps, f, s) := partBuffer s k p
          let s := commitUnit s k k.cls false (placed ps data)
          partDone s k i (f.map fun f => (p.first * k.lbs + f.1, BitVec.ofNat 7 f.2, 0)) (linesOf ps)
      | none => s
    | _ => s

/-- A drive slot's link is down or a command took too long: every part not yet completed fails and the slot is suspended
(R452). With no command in flight it is the link that is down. -/
def driveLost (s : State) (n : Nat) : State :=
  let late := decide (0 < inFlight s n) && Config.freeBit s.free
  let s := { s with
    drives := smSet s.drives n { linked := (smGet s.drives n).linked && late, suspended := true }
    nvme := s.nvme.filter fun x => x.drive != n
    free := s.free + 1 }
  s.cmds.foldl (fun s k => match k.prog with
    | .store parts fail =>
      if k.drive = n then
        let fail := (parts.filter fun p => !p.done).foldl (fun f p => lowerFail f (p.first * k.lbs, 0x17, 0x4006)) fail
        let parts := parts.map fun p => { p with submitted := true, done := true }
        updCmd s k.id fun k => { k with prog := .store parts fail }
      else s
    | _ => s) s

/-- The end of an XSTOR whose submitted parts are all done (R187, R188, R192). -/
def endStore (s : State) (k : Cmd) (parts : List StorePart) (fail : Option (Nat × BitVec 7 × BitVec 15)) : State :=
  let idle := parts.all fun p => p.done || !p.submitted
  if !idle || (fail.isNone && !k.cancelled && !parts.all fun p => p.done) then s
  else if k.cancelled then endCmd s k 0x01 (((parts.takeWhile fun p => p.ok).foldl (fun x p => x + p.count) 0) * k.lbs)
  else match fail with
    | some (o, st, sf) => endCmd s k st.toNat (if st = 0x17 then o / k.lbs * 2 ^ 16 + sf.toNat else o)
    | none => endCmd s k 0x00 (if k.storeKind = .flush then 0 else k.sn.toNat * k.lbs)

/-! ### Collectives (R181, R189-R191, R454) -/

/-- Bytes of a transfer descriptor's sequence; 0 when its contents are bad (R181). -/
def tdLength (td : List Word) : Nat :=
  let w := (td.getD 1 0).toNat
  bitsOf w 0 24 * bitsOf w 24 20 * bitsOf w 44 20

/-- The rows of a transfer descriptor: address and bytes of each (R181). -/
def tdRows (td : List Word) : List (Word × Nat) :=
  let w := (td.getD 1 0).toNat
  (List.range (bitsOf w 44 20)).flatMap fun p => (List.range (bitsOf w 24 20)).map fun r =>
    (td.getD 0 0 + BitVec.ofNat 64 p * td.getD 3 0 + BitVec.ofNat 64 r * td.getD 2 0, bitsOf w 0 24)

/-- Two bytes of a sequence fall on one address. -/
def tdOverlaps (td : List Word) : Bool :=
  let rows := (tdRows td).zip (List.range (tdRows td).length)
  rows.any fun a => rows.any fun b => a.2 < b.2 && (decide ((b.1.1 - a.1.1).toNat < a.1.2) || decide ((a.1.1 - b.1.1).toNat < b.1.2))

/-- The bytes of a sequence as they are reached. -/
def tdReach (c : Ctx) (acc : Access) (td : List Word) (s : State) : List Reached × State :=
  (tdRows td).foldl (fun (r : List Reached × State) row =>
    let (x, s) := reachBytes c acc row.1 row.2 r.2
    (r.1 ++ x, s)) ([], s)

/-- KIND of an endpoint handle. -/
def handleKind (h : Word) : Nat := bitsOf h.toNat 62 2

/-- An endpoint handle that this package can use (R454). -/
def handleOk (s : State) (h : Word) : Bool :=
  let x := h.toNat
  let port := bitsOf x 60 2
  let mode := bitsOf (ctlGet s (regLmode + 8 * port)).toNat 0 2
  bitsOf x 18 42 == 0 && (match handleKind h with
    | 0 => port == 0 && bitsOf x 0 16 == 0 && modulePresent s (bitsOf x 16 2)
    | 3 => false
    | k => s.fuse.ports.getLsbD port && mode == k)

/-- The port of an endpoint handle. -/
def handlePort (h : Word) : Nat := bitsOf h.toNat 60 2

/-- The peer that an endpoint handle names: KIND 2 through its entry of the connection table, which the engine reads (R454).
DESIGN CHOICE (log 22): one whose entry cannot be read names no peer, and the rank cannot reach it. -/
def resolvePeer (s : State) (h : Word) : PeerAddr × State :=
  let x := h.toNat
  let m := bitsOf x 16 2
  match handleKind h with
  | 1 => (.ualink (handlePort h) (bitsOf x 0 10) m, s)
  | 2 =>
    let p := bitsOf (ctlGet s regUetab).toNat 12 52 * 4096 + 32 * bitsOf x 0 16
    let ps := (List.range 32).map (p + ·)
    if !ps.all fun p => isDevice p && physPresent s p then (.unknown, s)
    else match quietRead ps (l2Touch s ps .normal .read) with
      | (some bs, s) => (.ultra (handlePort h) (bs.take 16) (natOfBytes (bs.drop 16) % 2 ^ 24) m, s)
      | (none, s) => (.unknown, s)
  | _ => (.here m, s)

/-- The peers that the endpoint handles of a rank name; its own entry is ignored (R189). -/
def resolvePeers (s : State) : List Word → List PeerAddr × State
  | [] => ([], s)
  | h :: hs =>
    let (x, s) := resolvePeer s h
    let (xs, s) := resolvePeers s hs
    (x :: xs, s)

/-- Bytes of an element of a reduction. -/
def reduceWidth (dtype : Nat) : Nat := if dtype < 2 then 4 else 2

/-- The chunk length L that the lengths of S and D give for an operation; none when they do not fit Table 6-10. -/
def chunkLength (op n dtype sl dl : Nat) : Option Nat :=
  match op with
  | 1 => if dl = n * sl then some sl else none
  | 2 => if sl = n * dl && dl % reduceWidth dtype = 0 then some dl else none
  | 3 => if sl = dl && sl % n = 0 then some (sl / n) else none
  | _ => none

/-- The collective of a descriptor's bytes and endpoint handles; none for DESC (R190). -/
def collOf (s : State) (bs : List Byte) (handles : List Word) (seq : Nat) : Option Coll :=
  let d := dwordOf bs
  let w := d 0
  let n := bitsOf w 16 16
  let r := bitsOf w 32 16
  let op := bitsOf w 0 8
  let dtype := bitsOf w 8 8
  let td := fun k => (List.range 4).map fun i => BitVec.ofNat 64 (d (k + i))
  if bitsOf w 48 16 ≠ 0 || bitsOf (d 1) 32 32 ≠ 0 || d 3 ≠ 0 || (List.range 4).any (fun i => d (12 + i) ≠ 0) || n = 0 ||
      1024 < n || n ≤ r || 3 < dtype || (op ≠ 2 && dtype ≠ 0) || tdLength (td 4) = 0 || tdLength (td 8) = 0 ||
      tdOverlaps (td 8) || !((List.range n).all fun i => i == r || handleOk s (handles.getD i 0)) then none
  else match chunkLength op n dtype (tdLength (td 4)) (tdLength (td 8)) with
    | none => none
    | some len => some
      { group := BitVec.ofNat 32 (d 1), op := op, nrank := n, rank := r, dtype := dtype, seq := seq, len := len
        send := td 4, recv := td 8, handles := handles }

/-- A task that had issued in a collective that ended lives on. -/
def endLives (s : State) (x : CollEnd) : Bool := x.tasks.any fun t => (findTask s t).isSome

/-- What the ranks of this package that had not issued find of a collective that has ended: its status, MISMATCH for a rank
that no NRANK covered (R190). -/
def findEnd (s : State) (co : Coll) : Option (BitVec 7) :=
  (s.collEnds.find? fun x => x.group == co.group && x.seq == co.seq &&
    (x.ranks.contains co.rank || (decide (x.nrank ≤ co.rank) && endLives s x))).map fun x =>
      if x.nrank ≤ co.rank then 0x18 else x.status

/-- A rank has learnt of the end of its collective. -/
def takeEnd (s : State) (co : Coll) : State :=
  let took := fun x : CollEnd =>
    if x.group == co.group && x.seq == co.seq then { x with ranks := x.ranks.filter (· != co.rank) } else x
  { s with collEnds := (s.collEnds.map took).filter fun x => !x.ranks.isEmpty || endLives s x }

/-- XCOLL's descriptor and group table, read at once after acceptance. A rank whose collective has ended without it ends
as its peers' end makes it (R190). DESIGN CHOICE (log 22): COUNT is 0 where the descriptor or the group table cannot be read,
and that comes before DESC for the descriptor's other contents. -/
def startColl (k : Cmd) (s : State) : Cmd × State :=
  let stop := fun (st : Nat) s => ({ k with prog := .ended (BitVec.ofNat 7 st) 0 }, s)
  if k.sa.toNat % 64 ≠ 0 then stop 0x16 s
  else match engineRead s k k.sa 128 with
    | (.error st, s) => stop st s
    | (.ok bs, s) =>
      let g := BitVec.ofNat 32 (dwordOf bs 1)
      let seq := (s.colls.find? fun x => x.1 == k.task && x.2.1 == g).elim 0 fun x => x.2.2
      let s := { s with colls := (k.task, g, seq + 1) :: s.colls.filter fun x => !(x.1 == k.task && x.2.1 == g) }
      match engineRead s k (BitVec.ofNat 64 (dwordOf bs 2)) (8 * min 1024 (bitsOf (dwordOf bs 0) 16 16)) with
      | (.error st, s) => stop st s
      | (.ok hb, s) =>
        let hs := (List.range (hb.length / 8)).map fun i => BitVec.ofNat 64 (dwordOf hb i)
        match collOf s bs hs seq with
        | none => stop 0x16 s
        | some co => match findEnd s co with
          | some st => stop st.toNat (takeEnd s co)
          | none =>
            let (k, s) := (tdRows co.recv).foldl (fun r row => owning row.1 row.2 r.1 r.2) (k, s)
            let (peers, s) := resolvePeers s ((hs.take co.nrank).set co.rank 0)
            ({ k with prog := .coll { co with peers := peers } }, s)

/-- XCOLL. -/
def effXcoll (c : VCtx) : Op Unit := accept c (pure ()) (pure ()) startColl

/-- The collectives in progress in this package. -/
def openColls (s : State) : List (Cmd × Coll) :=
  s.cmds.filterMap fun k => match k.prog with
    | .coll co => some (k, co)
    | _ => none

/-- Rank `r` is in this package for a member. -/
def isLocal (co : Coll) (r : Nat) : Bool := r == co.rank || handleKind (co.handles.getD r 0) == 0

/-- The members of a member's collective in this package. -/
def localMembers (s : State) (co : Coll) : List (Cmd × Coll) :=
  (openColls s).filter fun x => x.2.group == co.group && x.2.seq == co.seq

/-- The member of rank `r` that matches a member (R189). -/
def peerOf (s : State) (co : Coll) (r : Nat) : Option (Cmd × Coll) := (localMembers s co).find? fun x => x.2.rank == r

/-- A collective as its engine has read S. -/
def Coll.withSend (co : Coll) (r : Except (Nat × Nat) (List Byte)) : Coll :=
  match r with
  | .ok bs => { co with src := some bs }
  | .error f => { co with srcFail := some f }

/-- A command's collective changed. -/
def updColl (s : State) (id : Nat) (f : Coll → Coll) : State :=
  updCmd s id fun k => match k.prog with
    | .coll co => { k with prog := .coll (f co) }
    | _ => k

/-- The S of a member as its engine reads it, once (R176): the bytes, or the COUNT and status of the failure (R174). -/
def readSend (x : Cmd × Coll) (s : State) : Except (Nat × Nat) (List Byte) × State :=
  match x.2.src, x.2.srcFail with
  | some bs, _ => (.ok bs, s)
  | none, some f => (.error f, s)
  | none, none =>
    let (rs, s) := tdReach (cmdCtx x.1) .read x.2.send s
    let (xs, s) := sourceBytes x.1 rs .normal .read s
    let r : Except (Nat × Nat) (List Byte) := match lowestFail (readFails xs) with
      | some f => .error f
      | none => .ok (readOks xs)
    (r, updColl s x.1.id fun co => co.withSend r)

/-- The S of some members, by rank, read in order. -/
def readSends : List (Cmd × Coll) → State → List (Nat × Except (Nat × Nat) (List Byte)) × State
  | [], s => ([], s)
  | x :: xs, s =>
    let (b, s) := readSend x s
    let (bs, s) := readSends xs s
    ((x.2.rank, b) :: bs, s)

/-- The chunk for rank `r` of an S (Table 6-10). -/
def chunkFor (co : Coll) (r : Nat) (bs : List Byte) : List Byte := if co.op = 1 then bs else (bs.drop (r * co.len)).take co.len

/-- What rank `r` sends to a member: of the S that was read, or what arrived (Table 6-10). -/
def pieceFrom (sends : List (Nat × Except (Nat × Nat) (List Byte))) (co : Coll) (r : Nat) : Option (List Byte) :=
  if isLocal co r then match (sends.find? fun x => x.1 == r).map Prod.snd with
    | some (.ok bs) => some (chunkFor co co.rank bs)
    | _ => none
  else (co.arrived.find? fun x => x.1 == r).map fun x => x.2.2

/-- One step of a reduction on two elements. -/
def reduceElem (dtype a b : Nat) : Nat :=
  match dtype with
  | 0 => (a + b) % 2 ^ 32
  | 1 => lowBits (satInt (sextNat a 32 + sextNat b 32) 32 true) 32
  | 2 => lowBits (satInt (sextNat a 16 + sextNat b 16) 16 true) 16
  | _ => (lnsAdd a b).1

/-- Two pieces reduced element by element. -/
def reducePieces (dtype : Nat) (a b : List Byte) : List Byte :=
  let w := reduceWidth dtype
  (List.range (a.length / w)).flatMap fun i =>
    bytesOfNat w (reduceElem dtype (natOfBytes ((a.drop (w * i)).take w)) (natOfBytes ((b.drop (w * i)).take w)))

/-- D of a member, byte by byte, as far as the pieces are known (R190). -/
def collOutput (co : Coll) (pieces : List (Option (List Byte))) : List (Option Byte) :=
  if co.op = 2 then
    match pieces.mapM id with
    | some (p :: ps) => ((ps.foldl (reducePieces co.dtype) p)).map some
    | _ => List.replicate co.len none
  else pieces.flatMap fun p => match p with
    | some bs => bs.map some
    | none => List.replicate co.len none

/-- Every rank's piece for a member. -/
def collPieces (sends : List (Nat × Except (Nat × Nat) (List Byte))) (co : Coll) : List (Option (List Byte)) :=
  (List.range co.nrank).map (pieceFrom sends co)

/-- Data of other packages are written into D as peer writes (R191). -/
def fromPeers (co : Coll) : Bool := !(List.range co.nrank).all (isLocal co)

/-- A member ends without its collective: each receive byte is old or what the collective delivered (R190), old where an
earlier command has yet to write (R175). -/
def loseColl (s : State) (k : Cmd) (co : Coll) (status : BitVec 7) : State :=
  let (sends, s) := readSends (localMembers s co) s
  let out := collOutput co (collPieces sends co)
  let (rs, s) := tdReach (cmdCtx k) .write co.recv s
  let ws := if grantHeld s k then [] else ((List.range out.length).zip (out.zip rs)).filterMap fun (i, b, r) =>
    match b, r with
    | some b, .ok p => if Config.freeBit (s.free + i) then some (p, b) else none
    | _, _ => none
  let s := commitUnit { s with free := s.free + out.length } k k.cls (fromPeers co) ws
  settleCmd s k.id status 0

/-- The NRANKs that a collective's members here and far have given: the largest. -/
def mostRanks (s : State) (co : Coll) : Nat :=
  (localMembers s co).foldl (fun n x => x.2.arrived.foldl (fun n a => max n a.2.1.nrank) (max n x.2.nrank)) co.nrank

/-- The ranks of this package that have yet to issue will find their collective ended (R190). -/
def noteEnd (s : State) (co : Coll) (status : BitVec 7) : State :=
  let n := mostRanks s co
  let rs := (List.range n).filter fun r => isLocal co r && (peerOf s co r).isNone
  let x : CollEnd :=
    { group := co.group, seq := co.seq, status := status, ranks := rs, nrank := n
      tasks := (localMembers s co).map fun x => x.1.task }
  { s with collEnds := (s.collEnds.filter fun x => !x.ranks.isEmpty || endLives s x) ++ [x] }

/-- Two members agree on what R190 compares. -/
def collAgrees (a b : Coll) : Bool := a.op == b.op && a.nrank == b.nrank && a.dtype == b.dtype && a.len == b.len

/-- What a member gives of itself to the other packages. -/
def collHead (co : Coll) : PeerHead := { op := co.op, nrank := co.nrank, dtype := co.dtype }

/-- Members that have issued differ, or one in another package does (R190). -/
def collDiffers (s : State) (co : Coll) : Bool :=
  (localMembers s co).any fun x =>
    !collAgrees x.2 co || x.2.arrived.any fun a => a.2.1 != collHead x.2 || a.2.2.length != x.2.len

/-- The ranks of other packages. -/
def farRanks (co : Coll) : List Nat := (List.range co.nrank).filter fun r => !isLocal co r

/-- The port by which a member reaches rank `r` is trained, and the rank's package known (R453, R454). -/
def portReady (s : State) (co : Coll) (r : Nat) : Bool :=
  s.portUp.getLsbD (handlePort (co.handles.getD r 0)) && co.peers[r]? != some .unknown

/-- A member has yet to send its S to the other packages, and their ports are up. -/
def mustSend (s : State) (co : Coll) : Bool :=
  !(farRanks co).isEmpty && co.sent.isEmpty && (farRanks co).all (portReady s co)

/-- Every rank of a member's collective has issued, its data have arrived, and the other packages have read S (R191). -/
def collReady (s : State) (co : Coll) : Bool :=
  (localMembers s co).all fun (_, c) => (List.range c.nrank).all fun r =>
    if isLocal c r then (peerOf s c r).isSome else (c.arrived.any fun x => x.1 == r) && c.acked.contains r

/-- A member's D written, and its outcome (R191). -/
def deliver (s : State) (x : Cmd × Coll) (out : List (Option Byte)) : State :=
  let (rs, s) := tdReach (cmdCtx x.1) .write x.2.recv s
  let (count, status, s) := transfer s x.1 (out.map fun b => .ok (b.getD 0)) [rs] (fromPeers x.2)
  let s := updCmd s x.1.id (disown (if status = 0 then linesOf (somePlaces rs) else []))
  settleCmd s x.1.id (BitVec.ofNat 7 status) count

/-- Members whose S cannot be read end with their status, and the others of the collective with PEERLOST (log 22). -/
def failSends (ms : List (Cmd × Coll)) (sends : List (Nat × Except (Nat × Nat) (List Byte))) (s : State) : State :=
  ms.foldl (fun s x => match (sends.find? fun y => y.1 == x.2.rank).map Prod.snd with
    | some (.error (n, st)) => settleCmd s x.1.id (BitVec.ofNat 7 st) n
    | _ => loseColl s x.1 x.2 0x19) s

/-- Some S cannot be read. -/
def anyFails (sends : List (Nat × Except (Nat × Nat) (List Byte))) : Bool :=
  sends.any fun x => match x.2 with
    | .error _ => true
    | .ok _ => false

/-- A member sends its chunks to the ranks of other packages. -/
def sendFar (s : State) (x : Cmd × Coll) : State :=
  let (sends, s) := readSends [x] s
  match sends with
  | [(_, .ok bs)] =>
    let out := (farRanks x.2).map fun r => (r, chunkFor x.2 r bs)
    updColl s x.1.id fun co => { co with sent := out }
  | _ => failSends (localMembers s x.2) sends (noteEnd s x.2 0x19)

/-- A member's lines are owned by an earlier command that is no member of its collective (R175). -/
def heldOutside (s : State) (ms : List (Cmd × Coll)) (k : Cmd) : Bool :=
  grantHeld { s with cmds := s.cmds.filter fun x => x.id == k.id || !ms.any fun y => y.1.id == x.id } k

/-- The exchange of one collective whose ranks have all issued (R190, R191). Members whose lines meet write them in the order
of acceptance (R175); a rank that comes later finds that the collective was of fewer ranks. -/
def exchange (s : State) (co : Coll) : State :=
  let ms := localMembers s co
  if ms.any fun x => heldOutside s ms x.1 then s
  else
    let (sends, s) := readSends ms s
    if anyFails sends then failSends ms sends (noteEnd s co 0x19)
    else (ms.map fun x => (x, collOutput x.2 (collPieces sends x.2))).foldl (fun s x => deliver s x.1 x.2) (noteEnd s co 0x18)

/-- The next step of the collectives of a GROUPID: a mismatch, a sending, or the exchange of one whose ranks have all
issued. -/
def matchGroup (s : State) (g : BitVec 32) : State :=
  let mine := (openColls s).filter fun x => x.2.group == g
  match mine.find? fun x => collDiffers s x.2 with
  | some (_, co) => (localMembers s co).foldl (fun s x => settleCmd s x.1.id 0x18 0) (noteEnd s co 0x18)
  | none => match mine.find? fun x => mustSend s x.2 with
    | some x => sendFar s x
    | none => match mine.find? fun x => collReady s x.2 with
      | some (_, co) => exchange s co
      | none => s

/-- Rank `r` of another package can reach a member: through the port of its handle, or for a rank beyond the member's NRANK
through any (R189, R190, R453). -/
def canReach (s : State) (co : Coll) (r : Nat) (head : PeerHead) : Bool :=
  if r < co.nrank then !isLocal co r && portReady s co r else decide (r < head.nrank) && s.portUp != 0

/-- Data from a rank of another package, through its port; with no bytes, its word that it has read all of S (R191, R453,
log 22). -/
def peerArrival (s : State) (id r : Nat) (head : PeerHead) (data : List Byte) : State :=
  updColl s id fun co =>
    if !canReach s co r head then co
    else if data.isEmpty then
      if co.sent.isEmpty || co.acked.contains r then co else { co with acked := co.acked ++ [r] }
    else if co.arrived.any fun x => x.1 == r then co
    else { co with arrived := co.arrived ++ [(r, head, data)] }

/-- A rank cannot reach a peer (R190). -/
def peerLost (s : State) (id : Nat) : State :=
  match (openColls s).find? fun x => x.1.id == id with
  | some (k, co) => loseColl s k co 0x19
  | none => s

/-- The package with a settled command ended. -/
def endSettled (s : State) (id : Nat) : State :=
  match s.cmds.find? fun k => k.id == id with
  | some k => match k.prog with
    | .ended st n => endCmd s k st.toNat n
    | _ => s
  | none => s

/-- Port `n` goes down: every collective that uses it ends with PEERLOST, its slot written, before the port trains again
(R453). A stopped package's engines do nothing (R448). -/
def portDown (s : State) (n : Nat) : State :=
  if s.stopped then s
  else ((openColls s).filter fun x => (farRanks x.2).any fun r => handlePort (x.2.handles.getD r 0) == n).foldl
    (fun s x => endSettled (loseColl s x.1 x.2 0x19) x.1.id) s

/-! ### Cancellation (R192) -/

/-- A command that an XCANCEL can still reach. -/
def Cmd.live (k : Cmd) : Bool :=
  match k.prog with
  | .ended _ _ => false
  | _ => !k.isCancel

/-- One command cancelled. -/
def cancelCmd (s : State) (k : Cmd) : State :=
  match k.prog with
  | .coll co =>
    let peers := (localMembers s co).filter fun x => x.1.id != k.id
    let s := loseColl (noteEnd s co 0x19) k co 0x01
    peers.foldl (fun s x => loseColl s x.1 x.2 0x19) s
  | .stream st => updCmd s k.id fun k => { k with prog := .stream { st with closing := true } }
  | _ => updCmd s k.id fun k => { k with cancelled := true }

/-- XCANCEL. -/
def effXcancel (c : VCtx) : Op Unit :=
  accept c (if c.e.opc = c.e.opa then badHandle c 0x04 else pure ()) (pure ()) fun k s =>
    let ks := s.cmds.filter fun x => x.task == k.task && x.slot == k.sa && x.live
    ({ k with count := ks.length, target := ks.head?.map Cmd.insn }, ks.foldl cancelCmd s)

/-- A command that an XCANCEL reached and that has not yet ended. -/
def Cmd.ending (k : Cmd) : Bool :=
  match k.prog with
  | .stream st => st.closing
  | .ended st _ => st == 0x01
  | _ => k.cancelled

/-! ### The end of a command (R173) -/

/-- The slot write of the splice unit or a Fid waits for an engine's line; engines themselves do not wait (R175). -/
def slotHeld (s : State) (k : Cmd) : Bool :=
  (engineRow k.insn).isNone && (somePlaces (reachBytes (cmdCtx k) .atomic k.slot 8 s).1).any (isOwned s)

/-- COMMAND_COMPLETION: a command that can end does so; a cancelled one whose lines another has yet to write moves nothing. -/
def completeCmd (s : State) (k : Cmd) : State :=
  match k.prog with
  | .ended st n => if slotHeld s k then s else endCmd s k st.toNat n
  | .stream st => if st.closing then endCmd s k 0x02 st.prod else s
  | .store parts fail => endStore s k parts fail
  | .whole => if grantHeld s k then (if k.cancelled then endCmd s k 0x01 0 else s) else match k.insn with
    | .xcopy _ => performCopy s k [k.sd]
    | .xcopym _ => performCopy s k ((maskedCores k.core k.word).map fun core => scratchAddr core k.sd)
    | .xfill _ => performFill s k
    | .xsclose _ => performClose s k
    | .xcancel _ =>
      if s.cmds.any fun x => x.task == k.task && x.slot == k.sa && x.ending && !x.isCancel then s
      else endCmd s k 0x00 k.count
    | _ => s
  | _ => s

end Sys2Proof.Machine
end

