-- ==== Sys2Proof/Machine/Kv.lean ====
section
/-! DEFINITION. KV blocks and the KV instructions (R293-R316, R321-R325, R330), and LUACC.kv (R139). -/
namespace Sys2Proof.Machine

/-! ### Block headers (R293-R298) -/

/-- FREE. -/
def stFree : Nat := 0
/-- FILLING. -/
def stFilling : Nat := 1
/-- CLEAN. -/
def stClean : Nat := 2
/-- SPLICED. -/
def stSpliced : Nat := 3
/-- REPAIR-PENDING. -/
def stPending : Nat := 4
/-- REPAIRED. -/
def stRepaired : Nat := 5

/-- A physical address is that of a block's row 0 (R293). -/
def isBlockRow (pa : Nat) : Bool := decide (bitsOf pa 12 9 % 10 = 0) && decide (bitsOf pa 12 9 ≤ 500)

/-- A row lies in the KV pool, in the domain of a task (R298). -/
def inDomain (s : State) (r : BitVec 1024) (pa : Nat) : Bool :=
  isLinear s pa && recKvdom r != 0 && regionDomain s (pa / 2 ^ 30) == recKvdom r

/-- Physical address of a byte of the header of the block at `pa`. -/
def hdrAt (pa off : Nat) : Nat := pa + 9 * 4096 + off

/-- Doubleword `k` of a block's header. -/
def hdrWord (s : State) (pa k : Nat) : Nat := natOfBytes (memBytes s (hdrAt pa (8 * k)) 8)

/-- TAG. -/
def hdrTag (s : State) (pa : Nat) : Nat := hdrWord s pa 0
/-- COMMITSEQ. -/
def hdrSeq (s : State) (pa : Nat) : Nat := bitsOf (hdrWord s pa 1) 32 32
/-- REFCNT. -/
def hdrRef (s : State) (pa : Nat) : Nat := bitsOf (hdrWord s pa 1) 16 16
/-- STATE. -/
def hdrState (s : State) (pa : Nat) : Nat := bitsOf (hdrWord s pa 1) 0 8
/-- POSBASE. -/
def hdrPos (s : State) (pa : Nat) : Nat := bitsOf (hdrWord s pa 2) 0 32
/-- REPAIR, bit j for slot j. -/
def hdrRepair (s : State) (pa : Nat) : Nat := natOfBytes (memBytes s (hdrAt pa 0x20) 32)

/-- Places of the KV pool written by its units at one instant, no L2 copy remaining (R150, R295, Table 11-2): a block write, or
a header operation, which continues the releases there (R339). -/
def kvWrite (s : State) (ws : List (Nat × Byte)) : State :=
  continueMarks s (l2Invalidate (writePlaces s .kv ws) (ws.map Prod.fst))

/-- Bytes of a header from an offset on. -/
def hdrField (pa off : Nat) (bs : List Byte) : List (Nat × Byte) := placed ((List.range bs.length).map fun i => hdrAt pa (off + i)) bs

/-- Doubleword `k` of a header. -/
def hdrDword (pa k v : Nat) : List (Nat × Byte) := hdrField pa (8 * k) (bytesOfNat 8 v)

/-- Header doubleword 1 with some of its fields. -/
def hdrWord1 (seq ref st : Nat) : Nat := seq % 2 ^ 32 * 2 ^ 32 + ref % 2 ^ 16 * 2 ^ 16 + st % 2 ^ 8

/-- STATE and REFCNT of a header. -/
def hdrStatus (s : State) (pa st ref : Nat) : List (Nat × Byte) := hdrDword pa 1 (hdrWord1 (hdrSeq s pa) ref st)

/-- REPAIR of a header. -/
def hdrRepairs (pa v : Nat) : List (Nat × Byte) := hdrField pa 0x20 (bytesOfNat 32 v)

/-- A header operation that writes STATE and REFCNT. -/
def setHdrState (s : State) (pa st ref : Nat) : State := kvWrite s (hdrStatus s pa st ref)

/-- The places of a header's fields. -/
def hdrPlaces (pa : Nat) : List Nat := (List.range 64).map (hdrAt pa ·)

/-! ### Block-table entries (R301) -/

/-- An entry's fields; none when it is malformed (R301). -/
def blockEntry (bs : List Byte) : Option BlockEntry :=
  let d := dwordOf bs
  let e : BlockEntry :=
    { pa := bitsOf (d 0) 0 40 * 4096, tag := d 1, delta := bitsOf (d 2) 32 32, seqpos := bitsOf (d 2) 0 32
      flags := bitsOf (d 3) 24 8, count := bitsOf (d 3) 8 9, first := bitsOf (d 3) 0 8 }
  if bitsOf (d 0) 40 24 ≠ 0 || e.tag = 0 || e.count = 0 || 256 < e.first + e.count || bitsOf (d 3) 32 32 ≠ 0 || 4 ≤ e.flags ||
      bitsOf (d 3) 17 7 ≠ 0 || !isBlockRow e.pa then none
  else some e

/-- An entry's 32 bytes. -/
def entryBytes (e : BlockEntry) : List Byte :=
  dwords [e.pa / 4096, e.tag, e.delta % 2 ^ 32 * 2 ^ 32 + e.seqpos % 2 ^ 32, e.flags * 2 ^ 24 + e.count * 2 ^ 8 + e.first]

/-! ### Checks (R308) -/

/-- Cause 0x05 with a reason of Table 10-10. -/
def kvBad {α : Type} (faddr : Word) (reason : Nat) (idx : Nat := 0) : Op α := fault 0x05 faddr (idx * 2 ^ 16 + reason)

/-- A first-stage check. -/
def kvRequire (b : Bool) (faddr : Word) (reason : Nat) : Op Unit := if b then pure () else kvBad faddr reason

/-- Places of a memory operand (item 1 of R308). -/
def kvPlaces (va : Word) (n : Nat) (acc : Access) (idx : Nat := 0) : Op (List Nat) := do
  let s ← get
  resolveWith (vecCtx s) va n false acc (idx * 2 ^ 16)

/-- Bytes of a memory operand (items 1 and 2 of R308). -/
def kvRead (va : Word) (n : Nat) (idx : Nat := 0) : Op (List Byte) := do
  let ps ← kvPlaces va n .read idx
  readBytes ps va (idx * 2 ^ 16)

/-- The block that an address names directly, in the task's KV domain (items 1 and 4 of R308). -/
def kvBlock (va : Word) (acc : Access) : Op Nat := do
  if isWindow va.toNat then fault 0x09 va 0
  let ps ← kvPlaces va 1 acc
  let pa := ps.headD 0
  let s ← get
  if !isBlockRow pa then kvBad va 0x10
  if !inDomain s (curCtx s).launch pa then fault 0x09 va 0
  pure pa

/-- A block's header can be read (item 5 of R308): 0x14 otherwise. -/
def kvHeader (pa : Nat) (va : Word) (idx : Nat := 0) : Op Unit := do
  let s ← get
  awaitRows (bankOf s pa).1 (hdrPlaces pa)
  checkWords (hdrPlaces pa) va (idx * 2 ^ 16)

/-- A block's header as one instant at its bank gives it, which the thread's later reads of that bank follow: an instant
since what its accesses of the bank are ordered after, for no acquire orders them (R124, R295, R313, R348). -/
def readHdr (pa : Nat) (va : Word) (idx : Nat := 0) : Op (List Byte) := do
  kvHeader pa va idx
  let s ← get
  let b := (bankOf s pa).1
  let m ← pickMoment (bankBound s b)
  fun s => .ok ((hdrPlaces pa).map (byteAt s m)) (rowFrom b m s)

/-- TAG among a header's bytes. -/
def tagIn (h : List Byte) : Nat := dwordOf h 0
/-- STATE among a header's bytes. -/
def stateIn (h : List Byte) : Nat := bitsOf (dwordOf h 1) 0 8

/-- An operation of the thread on a block's header, which its later reads of that bank follow (R124, R295). -/
def headerOp (pa : Nat) (f : State → State) : Op Unit := doing fun s =>
  let t := f s
  rowFrom (bankOf s pa).1 t.now t

/-- An entry and its block's row, in the task's KV domain, with a further check of the row. What is then read of the block
follows the reading of the entry (R308). -/
def kvEntry (va : Word) (idx : Nat) (more : Nat → State → Bool) : Op BlockEntry := do
  let bs ← kvRead va 32 idx
  match blockEntry bs with
  | none => kvBad va 0x10 idx
  | some e => do
    let s ← get
    if !inDomain s (curCtx s).launch e.pa || !more e.pa s then fault 0x09 va (idx * 2 ^ 16)
    modify fun s => rowFrom (bankOf s e.pa).1 s.now s
    pure e

/-- VIS of a word (Table 2-16). -/
def visOf (f : W64) : Nat := bitsOf f.x16.toNat 13 2

/-- The stale check and the visibility mode on an entry's header (R311, R312): whether the block is
REPAIR-PENDING. -/
def kvVisible (e : BlockEntry) (va : Word) (idx vis : Nat) : Op Bool := do
  let h ← readHdr e.pa va idx
  if tagIn h ≠ e.tag then fault 0x0B va (idx * 2 ^ 16)
  let pending := stateIn h == stPending
  if pending && vis == 2 then fault 0x0C va (idx * 2 ^ 16)
  pure pending

/-- The result of a KV instruction in rd (R307). -/
def kvResult (c : VCtx) (v : Nat) : Op Unit := doing fun s => setR s c.f.vd (BitVec.ofNat 64 v)

/-! ### KBIND (R310) -/

/-- The index of a set address in a descriptor (R310). -/
def setIndex (bs : List Byte) (a : Nat) : Option Nat :=
  if a = dwordOf bs 3 then some 1 else if a = dwordOf bs 2 then some 0 else none

/-- RC of a set. -/
def readerCount (rc i : Nat) : Nat := bitsOf rc (32 * i) 32

/-- The .unbind of a set on the RC doubleword. -/
def unbindRc (bs : List Byte) (old : Word) (va : Word) (rc : Nat) : Op Nat :=
  match setIndex bs old.toNat with
  | none => kvBad va 0x13
  | some i => if readerCount rc i = 0 then kvBad va 0x13 else pure (putBits rc (32 * i) 32 (readerCount rc i - 1))

/-- The .bind on the RC doubleword. -/
def bindRc (bs : List Byte) (va : Word) (rc : Nat) : Op Nat :=
  match setIndex bs (dwordOf bs 4) with
  | none => kvBad va 0x13
  | some i =>
    if readerCount rc i = 2 ^ 32 - 1 then kvBad va 0x15 else pure (putBits rc (32 * i) 32 (readerCount rc i + 1))

/-- One read-modify-write of a sequence descriptor's reader counts: an acquire at .pkg when it binds, and when it unbinds
after every earlier access of the thread has been performed (R310, R349). -/
def kbind (c : VCtx) (f : List Byte → Nat → Op Nat) (bound unbound : Bool) : Op Unit := do
  let va := c.e.opc
  kvRequire (va.toNat % 64 == 0) va 0x15
  if isWindow va.toNat then fault 0x09 va 0
  let ps ← kvPlaces va 64 .write
  if unbound then
    awaitFills
    releaseStores
  let bs ← readBytes ps va 0
  let rc ← f bs (dwordOf bs 5)
  fun s => match writeBytes ((ps.drop 40).take 8) (bytesOfNat 8 rc) s with
    | .ok _ s' => .ok () (continueMarks s s')
    | .error x s' => .error x s'
  if bound then
    let s ← get
    acquire 4 ps s.now
    kvResult c (dwordOf bs 4)

/-- KBIND.bind. -/
def effKbindBind (c : VCtx) : Op Unit := kbind c (fun bs rc => bindRc bs c.e.opc rc) true false
/-- KBIND.unbind. -/
def effKbindUnbind (c : VCtx) : Op Unit := kbind c (fun bs rc => unbindRc bs c.e.opb c.e.opc rc) false true
/-- KBIND.rebind. -/
def effKbindRebind (c : VCtx) : Op Unit :=
  kbind c (fun bs rc => do
    let rc ← unbindRc bs c.e.opb c.e.opc rc
    bindRc bs c.e.opc rc) true true

/-! ### KCHECK (R311) -/

/-- Some entries read and checked in order: each with whether its block is REPAIR-PENDING. -/
def checkEntries (sa : Word) (vis : Nat) : List Nat → Op (List (BlockEntry × Bool))
  | [] => pure []
  | i :: is => do
    let va := sa + BitVec.ofNat 64 (32 * i)
    let e ← kvEntry va i fun _ _ => true
    let p ← kvVisible e va i vis
    let rest ← checkEntries sa vis is
    pure ((e, p) :: rest)

/-- The headers of some held entries read again, in order (R139, R311). -/
def recheckEntries (sa : Word) (vis : Nat) : List (Nat × BlockEntry) → Op (List (BlockEntry × Bool))
  | [] => pure []
  | (i, e) :: is => do
    let p ← kvVisible e (sa + BitVec.ofNat 64 (32 * i)) i vis
    let rest ← recheckEntries sa vis is
    pure ((e, p) :: rest)

/-- The entries from `sa` on, read the first time and held since, with whether each block is REPAIR-PENDING. -/
def namedEntries (c : VCtx) (sa : Word) (n : Nat) : Op (List (BlockEntry × Bool)) :=
  match c.e.kv with
  | some h => recheckEntries sa (visOf c.f) ((List.range n).zip (h.entries.map Prod.fst))
  | none => checkEntries sa (visOf c.f) (List.range n)

/-- The wait of an instruction under WAIT while a block it names is REPAIR-PENDING; it holds its entries (R311). -/
def awaitRepair (c : VCtx) (es : List (BlockEntry × Option Pin)) (pending : Bool) : Op Unit := fun s =>
  if pending && visOf c.f == 0 then
    .error (.wait true) (updTh s (updHead fun e => { e with kv := some { entries := es } }))
  else .ok () s

/-- KCHECK. -/
def effKcheck (c : VCtx) : Op Unit := do
  let sa := c.e.opc
  let n := c.e.opb.toNat
  kvRequire (sa.toNat % 32 == 0) sa 0x10
  kvRequire (n ≤ 64) sa 0x15
  let es ← namedEntries c sa n
  awaitRepair c (es.map fun x => (x.1, none)) (es.any Prod.snd)
  let m := ((List.range n).zip es).foldl (fun m x => m + x.2.2.toNat * 2 ^ x.1) 0
  kvResult c (if visOf c.f = 1 then m else 0)

/-! ### KSTATE and KRELS (R315, R316) -/

/-- A header operation on the block at sa, whose header is read first. -/
def kstate (c : VCtx) (acc : Access) (g : Nat → List Byte → Op Nat) : Op Unit := do
  let va := c.e.opc
  kvRequire (va.toNat % 4096 == 0) va 0x10
  let pa ← kvBlock va acc
  let h ← readHdr pa va
  let v ← g pa h
  kvResult c v

/-- A header in one of some states when it was read, and still where it is to be changed; cause 0x05, reason 0x11
otherwise. -/
def inState (c : VCtx) (pa : Nat) (h : List Byte) (sts : List Nat) : Op Unit := do
  let s ← get
  kvRequire (sts.contains (stateIn h) && sts.contains (hdrState s pa)) c.e.opc 0x11

/-- KSTATE.read. -/
def effKstateRead (c : VCtx) : Op Unit := kstate c .read fun _ h => pure (dwordOf h 1)
/-- KSTATE.loc. -/
def effKstateLoc (c : VCtx) : Op Unit := kstate c .read fun pa _ => pure (pa / 4096)
/-- KSTATE.fill. -/
def effKstateFill (c : VCtx) : Op Unit := do
  kvRequire (c.e.opc.toNat % 4096 == 0) c.e.opc 0x10
  kvRequire (c.e.opb != 0) c.e.opc 0x15
  kstate c .write fun pa h => do
    inState c pa h [stFree]
    headerOp pa fun s => kvWrite s
      (hdrDword pa 0 c.e.opb.toNat ++ hdrDword pa 1 (hdrWord1 0 1 stFilling) ++ hdrDword pa 3 0 ++ hdrRepairs pa 0)
    pure (hdrWord1 0 1 stFilling)
/-- KSTATE.clean. -/
def effKstateClean (c : VCtx) : Op Unit := kstate c .write fun pa h => do
  inState c pa h [stFilling]
  headerOp pa fun s => setHdrState s pa stClean (hdrRef s pa)
  pure (hdrWord (← get) pa 1)
/-- KSTATE.reopen. -/
def effKstateReopen (c : VCtx) : Op Unit := kstate c .write fun pa h => do
  inState c pa h [stClean]
  let s ← get
  kvRequire (hdrRef s pa == 1) c.e.opc 0x12
  headerOp pa fun s => setHdrState s pa stFilling 1
  pure (hdrWord (← get) pa 1)

/-- A header with one reference less; a block that nobody holds becomes FREE: one header operation (R316, R327). -/
def dropRef (s : State) (pa : Nat) : State :=
  let n := hdrRef s pa - 1
  if n = 0 then kvWrite s (hdrDword pa 0 0 ++ hdrStatus s pa stFree 0 ++ hdrDword pa 3 0 ++ hdrRepairs pa 0)
  else setHdrState s pa (hdrState s pa) n

/-- KRELS. -/
def effKrels (c : VCtx) : Op Unit := kstate c .write fun pa _ => do
  let s ← get
  kvRequire (hdrRef s pa != 0) c.e.opc 0x12
  kvRequire (hdrState s pa != stPending) c.e.opc 0x11
  headerOp pa fun s => dropRef s pa
  pure (hdrRef s pa - 1)

/-! ### Slots of a block or staging image (R294) -/

/-- Offsets of the K bytes, V bytes, K scales and V scales of slot `t`. -/
def slotK (t : Nat) : List Nat := (List.range 64).map fun i => i / 16 * 4096 + 256 * (i % 16) + t
/-- V bytes. -/
def slotV (t : Nat) : List Nat := (List.range 64).map fun i => (4 + t / 64) * 4096 + 64 * (t % 64) + i
/-- K scales. -/
def slotEK (t : Nat) : List Nat := (List.range 8).map fun c => 8 * 4096 + 256 * c + t
/-- V scales. -/
def slotEV (t : Nat) : List Nat := (List.range 8).map fun c => 8 * 4096 + 2048 + 8 * t + c
/-- All of a slot's 144 bytes. -/
def slotBytes (t : Nat) : List Nat := slotK t ++ slotV t ++ slotEK t ++ slotEV t

/-- The bytes at some offsets of a staging image: the address faults of all of them come before any 0x14 (R308). -/
def readOffsets (va : Word) (os : List Nat) : Op (List (Nat × Byte)) := do
  let ps ← os.mapM fun o => do
    let ps ← kvPlaces (va + BitVec.ofNat 64 o) 1 .read
    pure (o, ps.headD 0)
  awaitFillsOf (ps.map Prod.snd)
  ps.mapM fun (o, p) => do
    let bs ← readBytes [p] (va + BitVec.ofNat 64 o) 0
    pure (o, bs.headD 0)

/-! ### KPROBE (R321-R324) -/

/-- |a · 2^ea - b · 2^eb|. -/
def scaledDiff (a : Int) (ea : Nat) (b : Int) (eb : Nat) : Int :=
  ((a * (2 : Int) ^ ea - b * (2 : Int) ^ eb).natAbs : Nat)

/-- Element `d` of the nibbles of a slot's bytes. -/
def nibble (bs : List Nat) (d : Nat) : Int := sextNat (bs.getD (d / 2) 0 / (if d % 2 = 0 then 1 else 16)) 4

/-- The deviation of slot `t` between the stored block and the staging image (R323). -/
def deviation (stored staged : Nat → Nat) (t : Nat) : Nat :=
  let ek := (slotEK t).map stored
  let ev := (slotEV t).map stored
  let fk := (slotEK t).map staged
  let fv := (slotEV t).map staged
  if (ek ++ ev ++ fk ++ fv).any (· == 255) then 0xFFFF
  else
    let emax := ek.foldl max 0
    let sum := (List.range 128).foldl (fun (x : Int) d => x +
      scaledDiff (nibble ((slotK t).map stored) d) (ek.getD (d / 16) 0) (nibble ((slotK t).map staged) d) (fk.getD (d / 16) 0) +
      scaledDiff (nibble ((slotV t).map stored) d) (ev.getD (d / 16) 0) (nibble ((slotV t).map staged) d) (fv.getD (d / 16) 0)) 0
    (min (rneShift sum emax) 65535).toNat

/-- One bit of the token list set by an atomic; whether it was 0 (R324). -/
def setListBit (list : Word) (i : Nat) : Op Nat := fun s =>
  let va := list + BitVec.ofNat 64 (8 + i / 8)
  let m : Op Nat := do
    let ps ← kvPlaces va 1 .write
    let bs ← readBytes ps va 0
    let b := (bs.headD 0).toNat
    writeBytes ps [BitVec.ofNat 8 (b ||| 2 ^ (i % 8))]
    pure (1 - bitAt b (i % 8))
  match m s with
  | .ok n s' => .ok n s'
  | .error (.trap t _) s' => .error (.trap t true) (rollback s s')
  | .error (.wait _) s' => .error (.wait true) (rollback s s')
  | .error (.service w _) s' => .error (.service w true) (rollback s s')
  | .error .more s' => .error .more s'

/-- The bits of some list positions set; how many were 0. -/
def setListBits (list : Word) : List Nat → Op Nat
  | [] => pure 0
  | i :: is => do
    let a ← setListBit list i
    let b ← setListBits list is
    pure (a + b)

/-- Every list byte to be written can be, without a wait (R309). -/
def checkListBits (list : Word) : List Nat → Op Unit
  | [] => pure ()
  | i :: is => do
    let ps ← kvPlaces (list + BitVec.ofNat 64 (8 + i / 8)) 1 .write
    awaitPlaces ps
    awaitFillsOf ps
    forceStores fun x => x.meets ps
    checkListBits list is

/-- KPROBE. DESIGN CHOICE (log 33): of the operands that a list range outside its limits concerns, the entry and the list,
FADDR of reason 0x14 is the entry's address. -/
def effKprobe (c : VCtx) : Op Unit := do
  let sa := c.e.opc
  let sb := c.e.opb
  kvRequire (sa.toNat % 32 == 0) sa 0x10
  kvRequire (sb.toNat % 64 == 0) sb 0x15
  let es ← namedEntries c sa 1
  awaitRepair c (es.map fun x => (x.1, none)) (es.any Prod.snd)
  match es with
  | [] => pure ()
  | (e, _) :: _ =>
  let d ← kvRead sb 64
  let stage := BitVec.ofNat 64 (dwordOf d 0)
  let list := BitVec.ofNat 64 (dwordOf d 1)
  kvRequire (stage.toNat % 4096 == 0 && list.toNat % 8 == 0 && (d.drop 16).all (· == 0)) sb 0x15
  let lh ← kvRead list 8
  let base := dwordOf lh 0 % 2 ^ 32
  let nbits := dwordOf lh 0 / 2 ^ 32
  kvRequire (1 ≤ nbits && nbits ≤ 2 ^ 24) list 0x15
  let s ← get
  let pos := hdrPos s e.pa
  let js := (List.range e.count).map (e.first + ·)
  kvRequire (js.all fun j => base ≤ pos + j && pos + j < base + nbits) sa 0x14
  let staged ← readOffsets stage (js.flatMap slotBytes)
  let rows := (List.range (9 * 4096)).map (e.pa + ·)
  let s ← get
  let b := (bankOf s e.pa).1
  awaitRows b rows
  checkWords rows sa 0
  let m ← pickMoment (bankBound s b)
  modify (rowFrom b m)
  do
    let s ← get
    let stored := fun o => (byteAt s m (e.pa + o)).toNat
    let at' := fun o => ((staged.find? fun x => x.1 == o).map fun x => x.2.toNat).getD 0
    let devs := js.map fun j => (j, deviation stored at' j)
    let bits := (devs.filter fun x => c.e.devthr.toNat < x.2).map fun x => pos + x.1 - base
    checkListBits list bits
    headerOp e.pa fun s => kvWrite s (devs.flatMap fun x => hdrField e.pa (0x40 + 2 * x.1) (bytesOfNat 2 x.2))
    let n ← setListBits list bits
    kvResult c n

/-! ### KCOMMIT (R330) -/

/-- A LUACC.kv in progress reads the block at `pa` (R314). -/
def blockRead (s : State) (pa : Nat) : Bool :=
  (threads s).any fun th => !th.trap.mode && (match th.viq with
    | e :: _ => (match e.kv with
      | some h => h.reading && h.entries.any fun x => x.1.pa == pa
      | none => false)
    | [] => false)

/-- KCOMMIT: once every earlier store of the thread has been performed, one block write and then one header operation, whose
COMMITSEQ releases them (R330, R348, R349). It waits while a block read of the block is in progress (R314). -/
def effKcommit (c : VCtx) : Op Unit := do
  let sa := c.e.opc
  let sb := c.e.opb
  kvRequire (sa.toNat % 4096 == 0) sa 0x10
  kvRequire (sb.toNat % 64 == 0) sb 0x15
  awaitFills
  releaseStores
  let d ← kvRead sb 64
  let stage := BitVec.ofNat 64 (dwordOf d 0)
  kvRequire (stage.toNat % 4096 == 0 && dwordOf d 1 == 0 && dwordOf d 6 == 0 && dwordOf d 7 == 0) sb 0x15
  let mask := natOfBytes ((d.drop 16).take 32)
  let bytes ← readOffsets stage ((onesBelow 256 mask).flatMap slotBytes)
  let pa ← kvBlock sa .write
  let h ← readHdr pa sa
  inState c pa h [stFilling, stClean, stPending]
  let s ← get
  kvRequire (hdrRef s pa == 1) sa 0x12
  if blockRead s pa then waits
  awaitRows (bankOf s pa).1 (bytes.map fun x => pa + x.1)
  let seq := (hdrSeq s pa + 1) % 2 ^ 32
  headerOp pa fun s =>
    let ws := bytes.map fun x => (pa + x.1, x.2)
    let s := if ws.isEmpty then s else seeOwn true (ws.map Prod.fst) (kvWrite s ws)
    kvWrite s (hdrRepairs pa (Nat.land (hdrRepair s pa) (2 ^ 256 - 1 - mask)) ++
      hdrDword pa 1 (hdrWord1 seq (hdrRef s pa) (hdrState s pa)))
  kvResult c seq

/-! ### KSPLICE and KREPAIR: acceptance (R317, R325) -/

/-- Acceptance of a plan (R317, R325): its address is a multiple of 64 and the slot is not 0 (R308). -/
def acceptPlan (c : VCtx) (f : Cmd → State → Cmd × State) : Op Unit :=
  let sa := c.e.opc
  let aligned := kvRequire (sa.toNat % 64 == 0) sa 0x15
  accept c aligned (pure ()) f do
    aligned
    kvBad 0 0x15

/-- KSPLICE. -/
def effKsplice (c : VCtx) : Op Unit := acceptPlan c plain

/-- KREPAIR. -/
def effKrepair (c : VCtx) : Op Unit := acceptPlan c fun k s => ({ k with prog := .fid {} }, s)

/-! ### LUACC.kv (R139) -/

/-- The entry of each selected bank, checked in ascending β: the entry, its pinned page and its bank. -/
def kvBankEntries (c : VCtx) (l : Lease) : List (Nat × Nat) → Op (List (BlockEntry × Option Pin) × Bool)
  | [] => pure ([], false)
  | (β, b) :: rest => do
    let va := BitVec.ofNat 64 (c.e.opa.toNat / 32 * 32 + 32 * β)
    let e ← kvEntry va β fun pa s => (bankOf s pa).1 == b
    match l.pins.find? fun p => p.bank == b && p.pa == e.pa / 2 ^ 21 * 2 ^ 21 with
    | none => fault 0x09 va (β * 2 ^ 16)
    | some p => do
      let pending ← kvVisible e va β (visOf c.f)
      let (xs, w) ← kvBankEntries c l rest
      pure ((e, some p) :: xs, pending || w)

/-- The entries of LUACC.kv read again: their headers alone while it waits (R139). -/
def kvBankAgain (c : VCtx) : List (Nat × BlockEntry × Option Pin) → Op (List (BlockEntry × Option Pin) × Bool)
  | [] => pure ([], false)
  | (β, e, p) :: rest => do
    let pending ← kvVisible e (BitVec.ofNat 64 (c.e.opa.toNat / 32 * 32 + 32 * β)) β (visOf c.f)
    let (xs, w) ← kvBankAgain c rest
    pure ((e, p) :: xs, pending || w)

/-- The checked entries of LUACC.kv: read the first time, their headers again while it waits, and held once a row has
been read. -/
def kvNamed (c : VCtx) (l : Lease) (bs : List Nat) : Op (List (BlockEntry × Option Pin) × Bool) :=
  match c.e.kv with
  | some h => if h.reading then pure (h.entries, false) else kvBankAgain c ((List.range bs.length).zip h.entries)
  | none => kvBankEntries c l ((List.range bs.length).zip bs)

/-- The block reads of LUACC.kv are in progress (R314). -/
def startReading (es : List (BlockEntry × Option Pin)) (s : State) : State :=
  updTh s (updHead fun e => { e with kv := some { entries := es, reading := true } })

/-- LUACC.kv. Its rows are read as memory now stands, and no block write comes between them (R314). -/
def effLuaccKv (c : VCtx) : Op Unit := do
  let l ← leaseOf c
  let o := c.e.opa.toNat
  let f0 := bitsOf o 0 2
  let nr := bitsOf o 2 2 + 1
  let k := bO c.f == 256
  let n := 32768 / (bO c.f * bK c.f)
  let sub := 256 / 2 ^ (bG c.f * bB c.f)
  let last := bTs c.f + (nr * n * bT c.f - 1) / sub
  let bs := selectedBanks l c.e.bmask
  if f0 + nr > 4 then badHandle c 0x04
  else if last > 31 then badHandle c 0x02
  else if !slotsBound l (bTs c.f) last then badHandle c 0x03
  else
    let (es, pending) ← kvNamed c l bs
    awaitRepair c es pending
    doing fun s => bs.foldl (fun s b => rowFrom b s.now s) (startReading es s)
    let x0 := if k then 32 * f0 else 64 * f0
    let r : LuRows := { q0 := 0, x0 := x0, scaled := true, layoutB := !k, base := if k then 0 else 2048, setup := 56 }
    let place := fun (sc : Bool) (β j : Nat) => match es[β]? with
      | some (e, some p) => (pure (p, e.pa + 4096 * (if sc then 8 else (if k then 0 else 4) + f0 + j)) : Op (Pin × Nat))
      | _ => fault 0x09 0 0
    let take := fun (β i q o : Nat) => match es[β]? with
      | some (e, _) =>
        let t := if k then o else x0 + (i * n + q)
        decide (e.first ≤ t) && decide (t < e.first + e.count)
      | none => false
    runUnits c nr (luaccUnit c bs r place take)

end Sys2Proof.Machine
end

