-- ==== Sys2Proof/Machine/Fid.lean ====
section
/-! DEFINITION. The splice unit and the Fid (R317-R320, R325-R329, R331): how their accepted commands proceed. -/
namespace Sys2Proof.Machine

/-! ### Work of a unit on memory -/

/-- Why a unit's work does not go on. -/
inductive JobStop where
  /-- a status of Tables 6-4 and 10-15 -/
  | status (n : Nat)
  /-- a line belongs to a command: the step is tried again (R175) -/
  | waits
  deriving DecidableEq, Repr

/-- Work that may stop. -/
abbrev Job (α : Type) := EStateM JobStop State α

/-- Ends with a status. -/
def ends {α : Type} (status : Nat) : Job α := throw (.status status)

/-- The unit's access to some places waits while a command owns a line of them (R175). -/
def jobAwait (ps : List Nat) : Job Unit := fun s => if mustWait s ps then .error .waits s else .ok () s

/-- DESC. -/
def stDesc : Nat := 0x16
/-- STALE. -/
def stStale : Nat := 0x1A
/-- NOROOM. -/
def stNoroom : Nat := 0x1B
/-- BADSTATE. -/
def stBadstate : Nat := 0x1C
/-- UNREPAIRED. -/
def stUnrepaired : Nat := 0x1D
/-- ACCESS. -/
def stAccess : Nat := 0x09

/-- A condition whose failure is a status. -/
def needs (b : Bool) (status : Nat) : Job Unit := if b then pure () else ends status

/-- The unit's access to a range waits while a command owns a line of it. -/
def jobReach (k : Cmd) (acc : Access) (va : Word) (n : Nat) : Job Unit := fun s =>
  let (rs, t) := reachBytes (cmdCtx k) acc va n s
  if mustWait t (somePlaces rs) then .error .waits s else .ok () s

/-- Bytes that the unit reads. -/
def jobRead (k : Cmd) (va : Word) (n : Nat) : Job (List Byte) := do
  jobReach k .read va n
  fun s => match engineRead s k va n with
    | (.ok bs, s) => .ok bs s
    | (.error e, s) => .error (.status e) s

/-- Bytes that the unit writes: every agent finds them, since its stores of TSET, LOCK and NENT release at .pkg (R305, R318). -/
def jobWrite (k : Cmd) (va : Word) (bs : List Byte) : Job Unit := do
  jobReach k .write va bs.length
  fun s => match unitWrite s k va bs fun s ps => storeNow .normal ps bs s with
    | (none, s) => .ok () s
    | (some e, s) => .error (.status e) s

/-- A block's header is read: its row must lie in the task's domain and its words be correctable (R298). -/
def jobHeader (k : Cmd) (pa : Nat) : Job Unit := do
  let s ← get
  needs (inDomain s k.launch pa) stAccess
  jobAwait (hdrPlaces pa)
  fun s =>
    let t := countRead s (hdrPlaces pa)
    if (firstUncorr s (hdrPlaces pa)).isSome then .error (.status 0x14) t else .ok () t

/-! ### Sequences and table sets (R303-R305) -/

/-- The fields of a table set's header. -/
structure SetHdr where
  va : Word
  cap : Nat
  nhead : Nat
  nlayer : Nat
  ntoken : Nat
  deriving DecidableEq, Repr

/-- A table set's header; DESC when its contents are bad. -/
def jobSet (k : Cmd) (va : Word) : Job SetHdr := do
  needs (va.toNat % 64 == 0) stDesc
  let bs ← jobRead k va 64
  let w := dwordOf bs 0
  let h : SetHdr :=
    { va := va, cap := bitsOf w 32 32, nhead := bitsOf w 16 16, nlayer := bitsOf w 0 16, ntoken := bitsOf (dwordOf bs 1) 0 32 }
  needs (1 ≤ h.cap && h.cap ≤ 2 ^ 20 && 1 ≤ h.nhead && h.nhead ≤ 256 && 1 ≤ h.nlayer && h.nlayer ≤ 256 &&
    bitsOf (dwordOf bs 1) 32 32 == 0 && (bs.drop 16).all (· == 0)) stDesc
  pure h

/-- Address of table (l, h) of a set (R303). -/
def tableAddr (t : SetHdr) (l h : Nat) : Word := t.va + BitVec.ofNat 64 (64 + 32 * (t.cap + 1) * (l * t.nhead + h))

/-- Entries of consecutive 32 bytes; DESC when one is malformed. -/
def entriesOf (bs : List Byte) : Nat → Job (List BlockEntry)
  | 0 => pure []
  | n + 1 => do
    match blockEntry (bs.take 32) with
    | none => ends stDesc
    | some e => do
      let es ← entriesOf (bs.drop 32) n
      pure (e :: es)

/-- The entries of table (l, h). -/
def jobTable (k : Cmd) (t : SetHdr) (l h : Nat) : Job (List BlockEntry) := do
  let hd ← jobRead k (tableAddr t l h) 32
  let n := dwordOf hd 0 % 2 ^ 32
  needs (n ≤ t.cap && dwordOf hd 0 < 2 ^ 32 && (hd.drop 8).all (· == 0)) stDesc
  let bs ← jobRead k (tableAddr t l h + 32) (32 * n)
  entriesOf bs n

/-- A sequence descriptor's bytes; it is page-mapped and 64-byte aligned. -/
def jobSeq (k : Cmd) (va : Word) : Job (List Byte) := do
  needs (va.toNat % 64 == 0) stDesc
  needs (!isWindow va.toNat) stAccess
  jobRead k va 64

/-- SET0 and SET1 of a descriptor, the current one first; DESC when TSET names neither. -/
def jobSets (bs : List Byte) : Job (Word × Word × Nat) :=
  let w := fun i => BitVec.ofNat 64 (dwordOf bs i)
  match setIndex bs (dwordOf bs 4) with
  | some 1 => pure (w 3, w 2, 0)
  | some _ => pure (w 2, w 3, 1)
  | none => ends stDesc

/-! ### Splicing (R318-R320) -/

/-- The part of an entry before sequence position `x` (R319). -/
def frontPart (x : Nat) (e : BlockEntry) : List BlockEntry :=
  if e.seqpos + e.count ≤ x then [e] else if e.seqpos < x then [{ e with count := x - e.seqpos }] else []

/-- The part of an entry from `x` on, moved by `n` (R319). -/
def backPart (x n : Nat) (e : BlockEntry) : List BlockEntry :=
  if x ≤ e.seqpos then [{ e with seqpos := e.seqpos + n, delta := e.delta + n }]
  else if x < e.seqpos + e.count then
    let d := x - e.seqpos
    [{ e with first := e.first + d, count := e.count - d, seqpos := x + n, delta := e.delta + n }]
  else []

/-- The part of a document entry in [d0, d0 + n), placed at `x` (R319). -/
def bightPart (x d0 n : Nat) (e : BlockEntry) : List BlockEntry :=
  let lo := max e.seqpos d0
  let hi := min (e.seqpos + e.count) (d0 + n)
  if lo < hi then
    [{ e with
      first := e.first + lo - e.seqpos, count := hi - lo, seqpos := x + lo - d0
      delta := (e.delta + x + 2 ^ 32 - d0 % 2 ^ 32) % 2 ^ 32, flags := e.flags ||| 1 }]
  else []

/-- Pieces cover [d0, d0 + n) without gap. -/
def covers (es : List BlockEntry) (d0 n : Nat) : Bool :=
  es.foldl (fun (p : Nat) e =>
    let lo := max e.seqpos d0
    let hi := min (e.seqpos + e.count) (d0 + n)
    if lo < hi && lo = p then hi else p) d0 == d0 + n

/-- A table of the new set, and how many entries are inserted. -/
structure NewTable where
  addr : Word
  entries : List BlockEntry
  bight : List BlockEntry
  deriving DecidableEq, Repr

/-- Every table of the new set (R319). -/
def newTables (k : Cmd) (cur doc : SetHdr) (new : Word) (x d0 n : Nat) : List (Nat × Nat) → Job (List NewTable)
  | [] => pure []
  | (l, h) :: rest => do
    let es ← jobTable k cur l h
    let ds ← jobTable k doc l h
    needs (covers ds d0 n) stDesc
    let bight := ds.flatMap (bightPart x d0 n)
    let ts ← newTables k cur doc new x d0 n rest
    pure ({ addr := tableAddr { cur with va := new } l h
            entries := es.flatMap (frontPart x) ++ bight ++ es.flatMap (backPart x n), bight := bight } :: ts)

/-- One more holder of a block of the bight (R318). -/
def spliceBlock (k : Cmd) (es : List BlockEntry) (pa : Nat) : Job Unit := do
  jobHeader k pa
  let s ← get
  needs ((es.filter fun e => e.pa == pa).all fun e => e.tag == hdrTag s pa) stStale
  needs (hdrState s pa == stClean || hdrState s pa == stSpliced) stBadstate
  needs (hdrRef s pa != 65535) stNoroom
  modify fun s => setHdrState s pa (hdrState s pa) (hdrRef s pa + 1)

/-- A block of the bight is SPLICED once the new set is written (R318). -/
def markSpliced (s : State) (pa : Nat) : State :=
  if hdrState s pa = stClean then setHdrState s pa stSpliced (hdrRef s pa) else s

/-- GEN of a descriptor whose doubleword 1 is `w`, one further for each of `n` increments (R318). -/
def writeGen (k : Cmd) (seq : Word) (w n : Nat) : Job Unit :=
  jobWrite k (seq + 8) (bytesOfNat 8 (putBits w 0 32 ((bitsOf w 0 32 + n) % 2 ^ 32)))

/-- The bytes of a table: its NENT, then its entries. -/
def tableBytes (t : NewTable) : List Byte := dwords [t.entries.length, 0, 0, 0] ++ t.entries.flatMap entryBytes

/-- The new set written: its header and its tables. -/
def writeSet (k : Cmd) (cur : SetHdr) (new : Word) (n : Nat) (ts : List NewTable) : Job Unit := do
  jobWrite k new (dwords ([cur.cap * 2 ^ 32 + cur.nhead * 2 ^ 16 + cur.nlayer, cur.ntoken + n] ++ List.replicate 6 0))
  ts.forM fun t => jobWrite k t.addr (tableBytes t)

/-- The splice under LOCK: COUNT, or a status; none while readers of the new area remain (R318). -/
def spliceJob (k : Cmd) (plan : List Byte) : Job (Option Nat) := do
  let seq := BitVec.ofNat 64 (dwordOf plan 0)
  let bs ← jobSeq k seq
  let (curVa, newVa, newIdx) ← jobSets bs
  if readerCount (dwordOf bs 5) newIdx ≠ 0 then pure none
  else
    let x := dwordOf plan 2
    let d0 := dwordOf plan 3 % 2 ^ 32
    let n := dwordOf plan 3 / 2 ^ 32
    let cur ← jobSet k curVa
    let doc ← jobSet k (BitVec.ofNat 64 (dwordOf plan 1))
    needs (doc.nlayer == cur.nlayer && doc.nhead == cur.nhead && x ≤ cur.ntoken && cur.ntoken + n < 2 ^ 32) stDesc
    let lh := (List.range cur.nlayer).flatMap fun l => (List.range cur.nhead).map fun h => (l, h)
    let ts ← newTables k cur doc newVa x d0 n lh
    needs (ts.all fun t => t.entries.length ≤ cur.cap) stNoroom
    let bight := ts.flatMap NewTable.bight
    let blocks := (bight.map BlockEntry.pa).eraseDups
    blocks.forM (spliceBlock k bight)
    writeGen k seq (dwordOf bs 1) 1
    writeSet k cur newVa n ts
    modify fun s => blocks.foldl markSpliced s
    jobWrite k (seq + 0x20) (bytesOfNat 8 newVa.toNat)
    writeGen k seq (dwordOf bs 1) 2
    pure (some bight.length)

/-- What the release of LOCK carried is performed: the unit takes LOCK as an acquire at .pkg (R305). -/
def acquireLock (k : Cmd) (seq : Word) : Job Unit := fun s =>
  let (rs, t) := reachBytes (cmdCtx k) .write seq 8 s
  match acquireFor k.agent 4 (somePlaces rs) t with
  | some t => .ok () t
  | none => .error .waits s

/-- LOCK taken with a value whose bit 63 is 1; none while another holds it (R305). -/
def takeLock (k : Cmd) (seq : Word) : Job (Option Unit) := do
  acquireLock k seq
  let bs ← jobSeq k seq
  if dwordOf bs 0 ≠ 0 then pure none
  else
    let s ← get
    jobWrite k seq (bytesOfNat 8 (2 ^ 63 + (Config.freeWord s.free 0).toNat % 2 ^ 63))
    modify fun s => { s with free := s.free + 1 }
    pure (some ())

/-- LOCK released (R305). -/
def dropLock (s : State) (k : Cmd) (seq : Word) : State :=
  (unitWrite s k seq (bytesOfNat 8 0) fun s ps => storeNow .normal ps (bytesOfNat 8 0) s).2

/-- LOCK lies in a line that a command owns: its release waits (R175). -/
def lockHeld (s : State) (k : Cmd) (seq : Word) : Bool :=
  match jobReach k .write seq 8 s with
  | .ok _ _ => false
  | .error _ _ => true

/-- The state a failed splice leaves: the new area may hold any mixture, and nothing else has changed, the descriptor among it
(R318). -/
def mixedState (k : Cmd) (seq : Word) (before after : State) : State :=
  let desc := somePlaces (reachBytes (cmdCtx k) .read seq 64 before).1
  let ps := (after.mem.map Prod.fst ++ before.mem.map Prod.fst).eraseDups.filter fun p => memByte after p != memByte before p
  let keep := fun (s : State) p => isLinear s p || desc.contains p
  let ws := ((List.range ps.length).zip ps).filterMap fun (i, p) =>
    if !keep before p && Config.freeBit (after.free + i) then some (p, memByte after p) else none
  let base := rollback before after
  { base with mem := ws.foldl (fun m w => smSet m w.1 w.2) base.mem, free := after.free + ps.length }

/-- The splice plan's own limits (Table 10-13). -/
def planOk (p : List Byte) : Bool :=
  dwordOf p 2 < 2 ^ 32 && 1 ≤ dwordOf p 3 / 2 ^ 32 && (p.drop 32).all (· == 0)

/-- SPLICE_EXECUTE: the plan is read; LOCK is taken; under it the splice is done once its readers have gone (R318,
R320). -/
def spliceStep (s : State) (k : Cmd) : State :=
  let fail := fun (s : State) (st : Nat) => settleCmd s k.id (BitVec.ofNat 7 st) 0
  let goes := fun (s : State) (plan : List Byte) (held : Bool) =>
    updCmd s k.id fun k => { k with prog := .splice plan held }
  match k.prog with
  | .whole =>
    if k.cancelled then fail s 0x01
    else match jobRead k k.sa 64 s with
      | .error .waits _ => s
      | .error (.status e) s => fail s e
      | .ok plan s => if planOk plan then goes s plan false else fail s stDesc
  | .splice plan false =>
    if k.cancelled then fail s 0x01
    else match takeLock k (BitVec.ofNat 64 (dwordOf plan 0)) s with
      | .error .waits _ => s
      | .error (.status e) s => fail s e
      | .ok none _ => s
      | .ok (some ()) s => goes s plan true
  | .splice plan true =>
    let seq := BitVec.ofNat 64 (dwordOf plan 0)
    if lockHeld s k seq then s
    else if k.cancelled then fail (dropLock s k seq) 0x01
    else match spliceJob k plan s with
      | .ok none _ | .error .waits _ => s
      | .ok (some n) s' => settleCmd (dropLock s' k seq) k.id 0x00 n
      | .error (.status e) s' => fail (dropLock (mixedState k seq s s') k seq) e
  | _ => s

/-! ### The Fid (R325-R329) -/

/-- Word `i` of a plan. -/
def FidPlan.word (p : FidPlan) (i : Nat) : Nat := (p.words.getD i 0).toNat
/-- SEQ of a plan. -/
def FidPlan.seq (p : FidPlan) : Word := p.words.getD 0 0
/-- L0 of a plan. -/
def FidPlan.l0 (p : FidPlan) : Nat := bitsOf (p.word 5) 32 8
/-- L1 of a plan. -/
def FidPlan.l1 (p : FidPlan) : Nat := bitsOf (p.word 5) 40 8
/-- NTASK of a plan. -/
def FidPlan.ntask (p : FidPlan) : Nat := bitsOf (p.word 5) 48 16
/-- DOCID of a plan. -/
def FidPlan.docid (p : FidPlan) : Nat := bitsOf (p.word 5) 0 32

/-- The package with a command's plan changed. -/
def updPlan (s : State) (id : Nat) (f : FidPlan → FidPlan) : State :=
  updCmd s id fun k => match k.prog with
    | .fid p => { k with prog := .fid (f p) }
    | _ => k

/-- END(s) (Table 10-17). -/
def endPlan (s : State) (id : Nat) (p : FidPlan) (status : Nat) : State :=
  settleCmd s id (BitVec.ofNat 7 status) (p.entered % 2 ^ 8 * 2 ^ 32 + p.sealed % 2 ^ 32)

/-- The plans of a module's Fid, in acceptance order. -/
def plansOf (s : State) (m : Nat) : List (Cmd × FidPlan) :=
  s.cmds.filterMap fun k => match k.prog with
    | .fid p => if moduleOf k.core = m then some (k, p) else none
    | _ => none

/-- FID_PLAN_START: the oldest waiting plan is read when one of the 16 places is free (R325, R326). -/
def fidStart (s : State) (m : Nat) : State :=
  let ps := plansOf s m
  match ps.find? fun x => x.2.phase == .queued with
  | none => s
  | some (k, p) =>
    if 16 ≤ (ps.filter fun x => x.2.phase != .queued).length then s
    else match jobRead k k.sa 64 s with
      | .error .waits _ => s
      | .error (.status e) s => endPlan s k.id p e
      | .ok bs s =>
        let p := { p with words := (List.range 8).map fun i => BitVec.ofNat 64 (dwordOf bs i) }
        if p.docid = 0 || p.l1 < p.l0 || p.ntask = 0 || 256 < p.ntask || p.word 6 ≥ 2 ^ 16 || p.word 7 ≠ 0 ||
            p.word 1 % 8 ≠ 0 then endPlan s k.id p stDesc
        else updPlan s k.id fun _ => { p with phase := .mark p.l0, entered := p.l0 }

/-- An entry of the layer with its head and its place. -/
structure LayerEntry where
  h : Nat
  va : Word
  e : BlockEntry
  deriving DecidableEq, Repr

/-- The entries of a layer, over every head. -/
def layerEntries (k : Cmd) (t : SetHdr) (l : Nat) : List Nat → Job (List LayerEntry)
  | [] => pure []
  | h :: hs => do
    let es ← jobTable k t l h
    let here := ((List.range es.length).zip es).map fun x =>
      { h := h, va := tableAddr t l h + BitVec.ofNat 64 (32 * (x.1 + 1)), e := x.2 : LayerEntry }
    let rest ← layerEntries k t l hs
    pure (here ++ rest)

/-- The entry names the document (Table 10-17). -/
def LayerEntry.ofDoc (doc : Nat) (x : LayerEntry) : Bool := bitsOf x.e.tag 16 32 == doc

/-- A block named by the document's entries is what the Fid may mark; whether another plan holds it. -/
def fidCheck (k : Cmd) (x : LayerEntry) : Job Bool := do
  jobHeader k x.e.pa
  let s ← get
  needs (hdrTag s x.e.pa == x.e.tag) stStale
  let st := hdrState s x.e.pa
  needs (st == stSpliced || st == stRepaired || st == stPending) stBadstate
  pure (st == stPending)

/-- Whether some entries' blocks are held by another plan. -/
def fidChecks (k : Cmd) : List LayerEntry → Job Bool
  | [] => pure false
  | x :: xs => do
    let a ← fidCheck k x
    let b ← fidChecks k xs
    pure (a || b)

/-- The affected slots of a block that a head's table names: a bit for each slot of an entry naming it whose list bit is set
(R326). -/
def affectedSlots (s : State) (xs : List LayerEntry) (base nbits : Nat) (list : Nat) (h pa : Nat) : Nat :=
  (xs.filter fun x => x.h == h && x.e.pa == pa).foldl (fun m x =>
    (List.range x.e.count).foldl (fun m i =>
      let j := x.e.first + i
      let pos := hdrPos s pa + j
      if base ≤ pos && pos < base + nbits && list.testBit (pos - base) then m ||| 2 ^ j else m) m) 0

/-- The pool block that a copy of the block at `pa` is to take, in the same bank, out of the pool (R327 steps 1, 2). -/
def fidTake (k : Cmd) (p : FidPlan) (pa : Nat) : Job Nat := do
  let pool := p.words.getD 4 0
  let cb ← jobRead k pool 8
  let n := dwordOf cb 0 % 2 ^ 32
  let rows ← jobRead k (pool + 8) (8 * n)
  let row := fun i => bitsOf (dwordOf rows i) 0 40 * 4096
  let s ← get
  match ((List.range n).filter fun i => (bankOf s (row i)).1 == (bankOf s pa).1 && isLinear s (row i)).getLast? with
  | none => ends stNoroom
  | some i => do
    let new := row i
    jobWrite k (pool + BitVec.ofNat 64 (8 + 8 * i)) (bytesOfNat 8 (dwordOf rows (n - 1)))
    jobWrite k pool (bytesOfNat 8 (putBits (dwordOf cb 0) 0 32 (n - 1)))
    needs (isBlockRow new) stDesc
    jobHeader k new
    let s ← get
    needs (hdrState s new == stFree) stBadstate
    needs (bitsOf (hdrTag s pa) 48 16 != p.word 6 % 2 ^ 16) stDesc
    let ps := (List.range (10 * 4096)).map (pa + ·)
    jobAwait (ps ++ (List.range (10 * 4096)).map (new + ·))
    set (countRead s ps)
    needs (firstUncorr s ps).isNone 0x14
    pure new

/-- TAG of a copy (R327 step 3). -/
def copyTag (p : FidPlan) (l h : Nat) : Nat := p.word 6 % 2 ^ 16 * 2 ^ 48 + p.docid * 2 ^ 16 + l * 2 ^ 8 + h % 2 ^ 8

/-- Rows 0 to 8 of a block copied (R327 step 3). -/
def copyRows (pa new : Nat) (s : State) : State :=
  kvWrite s (placed ((List.range (9 * 4096)).map (new + ·)) (memBytes s pa (9 * 4096)))

/-- The header row of a copy: that of the original but for the fields the Fid sets (R327 step 3). -/
def copyHeader (tag pa new repair : Nat) (s : State) : List (Nat × Byte) :=
  let row := memBytes s (hdrAt pa 0) 4096
  hdrField new 0 (bytesOfNat 8 tag ++ bytesOfNat 8 (hdrWord1 (hdrSeq s pa) 1 stPending) ++ (row.drop 0x10).take 8 ++
    bytesOfNat 8 (hdrTag s pa) ++ bytesOfNat 32 repair ++ row.drop 0x40)

/-- A block copied: its rows, and then its header in one operation, by which the copy becomes REPAIR-PENDING (R297, R327 step
3). -/
def fidCopyRows (tag pa new repair : Nat) (s : State) : State := kvWrite (copyRows pa new s) (copyHeader tag pa new repair s)

/-- A block that is not shared marked in one header operation; slots that another head's entries have marked stay marked. -/
def fidMarkHere (pa repair : Nat) (s : State) : State :=
  let old := if hdrState s pa = stPending then hdrRepair s pa else 0
  kvWrite s (hdrStatus s pa stPending (hdrRef s pa) ++ hdrRepairs pa (Nat.lor old repair))

/-- One affected block marked, or copied and the copy marked (R327): the row marked, if any, and the failure that stopped
it; what was done before a failure stays. -/
def fidMarkOne (k : Cmd) (p : FidPlan) (l : Nat) (xs : List LayerEntry) (h pa repair : Nat) (s : State) :
    Option Nat × Option JobStop × State :=
  if hdrRef s pa ≤ 1 then (some pa, none, fidMarkHere pa repair s)
  else match fidTake k p pa s with
    | .error e s => (none, some e, s)
    | .ok new s =>
      let tag := copyTag p l h
      let rewrite : Job Unit := (xs.filter fun x => x.h == h && x.e.pa == pa).forM fun x =>
        jobWrite k x.va (entryBytes { x.e with pa := new, tag := tag, flags := x.e.flags ||| 2 })
      match rewrite (fidCopyRows tag pa new repair s) with
      | .error e s => (some new, some e, s)
      | .ok _ s => (some new, none, dropRef s pa)

/-- Affected blocks marked in order: the rows marked, and the failure that stopped it. -/
def fidMarkAll (k : Cmd) (p : FidPlan) (l : Nat) (xs : List LayerEntry) : List (Nat × Nat × Nat) → State →
    List Nat × Option JobStop × State
  | [], s => ([], none, s)
  | (h, pa, repair) :: rest, s =>
    match fidMarkOne k p l xs h pa repair s with
    | (r, some e, s) => (r.toList, some e, s)
    | (r, none, s) =>
      let (rs, f, s) := fidMarkAll k p l xs rest s
      (r.toList ++ rs, f, s)

/-- What MARK finds under LOCK before it changes a header: the layer's entries, the affected blocks with the head whose table
names each, TSET; none while it has to wait for another plan. -/
def fidScan (k : Cmd) (p : FidPlan) (l : Nat) : Job (Option (List LayerEntry × List (Nat × Nat × Nat) × Word)) := do
  let bs ← jobSeq k p.seq
  let (cur, _, _) ← jobSets bs
  let t ← jobSet k cur
  needs (p.l1 < t.nlayer) stDesc
  let all ← layerEntries k t l (List.range t.nhead)
  let xs := all.filter (LayerEntry.ofDoc p.docid)
  let busy ← fidChecks k xs
  if busy then pure none
  else
    let list := BitVec.ofNat 64 (p.word 1)
    let lh ← jobRead k list 8
    let nbits := dwordOf lh 0 / 2 ^ 32
    needs (1 ≤ nbits && nbits ≤ 2 ^ 24) stDesc
    let bits ← jobRead k (list + 8) (ceilDiv nbits 8)
    let s ← get
    let blocks := (xs.map fun x => (x.h, x.e.pa)).eraseDups.filterMap fun (h, pa) =>
      let m := affectedSlots s xs (dwordOf lh 0 % 2 ^ 32) nbits (natOfBytes bits) h pa
      if m = 0 then none else some (h, pa, m)
    pure (some (all, blocks, cur))

/-- FID_MARK: the affected blocks of a layer are marked under LOCK, which this one step takes and releases. It waits,
holding nothing, while LOCK is held or another plan has marked a block (Table 10-17). -/
def fidMark (s : State) (k : Cmd) (p : FidPlan) : State :=
  match p.phase with
  | .mark l =>
    if k.cancelled then endPlan s k.id p 0x01
    else match takeLock k p.seq s with
      | .error .waits _ | .ok none _ => s
      | .error (.status e) s => endPlan s k.id p e
      | .ok (some ()) s1 => match fidScan k p l s1 with
        | .error .waits _ | .ok none _ => s
        | .error (.status e) s2 => endPlan (dropLock s2 k p.seq) k.id p e
        | .ok (some (xs, blocks, cur)) s2 =>
          let (marked, f, s3) := fidMarkAll k p l xs blocks s2
          let t := dropLock s3 k p.seq
          let p' := { p with marked := marked.eraseDups, tset := cur, tasks := [], nsub := 0 }
          match f with
          | none => updPlan t k.id fun _ => { p' with phase := if blocks.isEmpty then .sealing l else .run l }
          | some .waits => s
          | some (.status e) =>
            if marked.isEmpty then endPlan t k.id p e
            else updPlan t k.id fun _ => { p' with phase := .abandon l (BitVec.ofNat 7 e) }
  | _ => s

/-- Layer record l (R328). -/
def layerRecord (p : FidPlan) (l : Nat) : List Byte :=
  dwords [p.docid * 2 ^ 32 + l, p.tset.toNat, p.word 1, p.word 0, p.marked.length, 0, 0, 0]

/-- FID_TASK_SUBMIT: the layer record, then the next task of the layer (R328). -/
def fidSubmit (s : State) (k : Cmd) (p : FidPlan) : State :=
  match p.phase with
  | .run l =>
    if p.nsub ≥ p.ntask || k.cancelled then s
    else
      let lrec := BitVec.ofNat 64 (p.word 3) + BitVec.ofNat 64 (64 * (l - p.l0))
      let fail := fun s (e : Nat) => updPlan s k.id fun p => { p with phase := .abandon l (BitVec.ofNat 7 e) }
      match (if p.nsub = 0 then jobWrite k lrec (layerRecord p l) s else .ok () s) with
      | .error .waits _ => s
      | .error (.status e) s => fail s e
      | .ok _ t => match jobRead k (BitVec.ofNat 64 (p.word 2)) 128 t with
        | .error .waits _ => s
        | .error (.status e) s => fail s e
        | .ok bs s =>
          let r := putBits (putBits (natOfBytes bs) (8 * 8) 64 lrec.toNat) (8 * 0x20 + 32) 32 p.nsub
          let rec' := BitVec.ofNat 1024 r
          let q := recQueue rec'
          let next := fun s ts => updPlan s k.id fun p => { p with nsub := p.nsub + 1, tasks := p.tasks ++ ts }
          match submitTo s q rec' false with
          | .full | .owned => s
          | .placed pos s => next s [(q, pos, false)]
          | .refused | .noEntry _ =>
            let pos := noPosition + 1 + s.nextKey
            next (retireRecord s rec' 0x23 k.core q pos) [(q, pos, false)]
  | _ => s

/-- A record has ended: the Fid that submitted it counts it (R329). -/
def fidTaskEnded (s : State) (q pos : Nat) : State :=
  { s with cmds := s.cmds.map fun k => match k.prog with
      | .fid p => { k with prog := .fid { p with
          tasks := p.tasks.map fun t => if t.1 == q && t.2.1 == pos then (q, pos, true) else t } }
      | _ => k }

/-- Some of the blocks' headers cannot be read. -/
def badHeaders (s : State) (bs : List Nat) : Bool := bs.any fun pa => (firstUncorr s (hdrPlaces pa)).isSome

/-- Marked blocks that are REPAIR-PENDING become REPAIRED. DESIGN CHOICE (log 33): a header that cannot be read is counted
and stays as it is (R101). -/
def sealBlocks (s : State) (bs : List Nat) : State :=
  bs.foldl (fun s pa =>
    let t := countRead s (hdrPlaces pa)
    if (firstUncorr s (hdrPlaces pa)).isNone && hdrState s pa == stPending then setHdrState t pa stRepaired (hdrRef s pa)
    else t) s

/-- The marked blocks' headers lie in lines that a command owns (R175). -/
def marksHeld (s : State) (p : FidPlan) : Bool := mustWait s (p.marked.flatMap hdrPlaces)

/-- FID_SEAL: every marked slot of the layer is committed (Table 10-17). -/
def fidSeal (s : State) (k : Cmd) (p : FidPlan) : State :=
  let go := fun (l : Nat) =>
    let s := sealBlocks s p.marked
    let p := { p with sealed := p.sealed + p.marked.length, marked := [], tasks := [], nsub := 0 }
    if l < p.l1 then updPlan s k.id fun _ => { p with phase := .mark (l + 1), entered := l + 1 }
    else endPlan s k.id p 0x00
  match p.phase with
  | .sealing l => go l
  | .run l =>
    if p.ntask ≤ p.nsub && !k.cancelled && !marksHeld s p && !badHeaders s p.marked &&
        p.marked.all (fun pa => hdrRepair s pa == 0) then go l
    else s
  | _ => s

/-- FID_ABANDON: the layer's tasks have ended with slots uncommitted, or were cancelled (Table 10-17). DESIGN CHOICE (log 33):
a header that cannot be read ends the plan with UNCORR once the tasks have ended. -/
def fidAbandon (s : State) (k : Cmd) (p : FidPlan) : State :=
  match p.phase with
  | .abandon _ st => if marksHeld s p then s else endPlan (sealBlocks s p.marked) k.id p st.toNat
  | .run _ =>
    if !(p.tasks.all fun t => t.2.2) || marksHeld s p then s
    else if k.cancelled then endPlan (sealBlocks s p.marked) k.id p 0x01
    else if p.ntask ≤ p.nsub && badHeaders s p.marked then endPlan (sealBlocks s p.marked) k.id p 0x14
    else if p.ntask ≤ p.nsub && !(p.marked.all fun pa => hdrRepair s pa == 0) then
      endPlan (sealBlocks s p.marked) k.id p stUnrepaired
    else s
  | _ => s

end Sys2Proof.Machine
end

