-- ==== Sys2Proof/Machine/Scalar.lean ====
section
/-! DEFINITION. The scalar integer, branch, load and store instructions (R361-R370). -/
namespace Sys2Proof.Machine

/-! ### Shared operations -/

/-- What every meaning answers. -/
abbrev Answer := Host.Outcome State Fault Refusal

/-- A result written to rd, PC moving past the parcel (R361). -/
def aluStep (d : Reg) (y : Word) (s : State) : Answer := .next (advance (setR s d y) 4)

/-- A 12-bit immediate, sign-extended (R361). -/
def imm12 (i : BitVec 12) : Word := i.signExtend 64

/-- A truth value as a doubleword. -/
def boolWord (b : Bool) : Word := if b then 1 else 0

/-- A doubleword shifted left by b[5:0] (R361). -/
def shiftLeft (a b : Word) : Word := a <<< (b.toNat % 64)

/-- A doubleword shifted right by b[5:0], zeros entering. -/
def shiftRight (a b : Word) : Word := a >>> (b.toNat % 64)

/-- A doubleword shifted right by b[5:0], sign bits entering. -/
def shiftArith (a b : Word) : Word := a.sshiftRight (b.toNat % 64)

/-- How many of the low `n` bits are 0 before the first 1. -/
def trailingZeros : Nat → Nat → Nat
  | 0, _ => 0
  | n + 1, x => if x % 2 = 1 then 0 else 1 + trailingZeros n (x / 2)

/-- Bits [127:64] of the signed product (R362). -/
def mulHigh (a b : Word) : Word := BitVec.ofInt 64 ((a.toInt * b.toInt).fdiv (2 ^ 64))

/-- Bits [127:64] of the unsigned product (R362). -/
def mulHighU (a b : Word) : Word := BitVec.ofNat 64 (a.toNat * b.toNat / 2 ^ 64)

/-- 2^63 - 1. -/
def wordMax : Word := 0x7FFFFFFFFFFFFFFF

/-- -2^63. -/
def wordMin : Word := 0x8000000000000000

/-- The signed quotient, saturated where it does not fit (R363). -/
def quotient (a b : Word) : Word :=
  if b = 0 then (if a = 0 then 0 else if a.slt 0 then wordMin else wordMax)
  else if a = wordMin ∧ b = -1 then wordMax
  else a.sdiv b

/-- The unsigned quotient (R363). -/
def quotientU (a b : Word) : Word := if b = 0 then (if a = 0 then 0 else -1) else a / b

/-- The signed remainder: 0 in the cases of R363 without an ordinary result. -/
def remainder (a b : Word) : Word := if b = 0 ∨ (a = wordMin ∧ b = -1) then 0 else a.srem b

/-- The unsigned remainder (R363). -/
def remainderU (a b : Word) : Word := if b = 0 then 0 else a % b

/-- A conditional branch (R366). -/
def branchStep (c : Bool) (o : BitVec 12) (s : State) : Answer :=
  .next (if c then setPc s (s.th.pc + (o.signExtend 64 <<< 2)) else advance s 4)

/-- A load into rd, sign- or zero-extended (R368). -/
def loadInto (d : Reg) (va : Word) (n : Nat) (signed : Bool) : Op Unit := do
  let v ← loadScalar va n
  doing fun s => advance (setR s d (if signed then BitVec.ofInt 64 (sextNat v.toNat (8 * n)) else v)) 4

/-- A store of the low bytes of a register (R368). -/
def storeFrom (d : Reg) (va : Word) (n : Nat) : Op Unit := do
  let s ← get
  storeScalar va n (getR s d)
  doing fun s => advance s 4

/-- An atomic at a scope, with an order: rd receives the old doubleword, memory the new one (R371, R372). -/
def amoStep (d : Reg) (va : Word) (scope : BitVec 3) (order : BitVec 2) (f : Word → Word) : Op Unit := do
  let old ← atomicScalar va scope order f
  doing fun s => advance (setR s d old) 4

/-! ### Integer arithmetic -/

/-- ADD (R361). -/
def execAdd (d a b : Reg) (s : State) : Answer :=
  aluStep d (getR s a + getR s b) s

/-- SUB (R361). -/
def execSub (d a b : Reg) (s : State) : Answer :=
  aluStep d (getR s a - getR s b) s

/-- AND (R361). -/
def execAnd (d a b : Reg) (s : State) : Answer :=
  aluStep d (getR s a &&& getR s b) s

/-- OR (R361). -/
def execOr (d a b : Reg) (s : State) : Answer :=
  aluStep d (getR s a ||| getR s b) s

/-- XOR (R361). -/
def execXor (d a b : Reg) (s : State) : Answer :=
  aluStep d (getR s a ^^^ getR s b) s

/-- ANDN (R361). -/
def execAndn (d a b : Reg) (s : State) : Answer :=
  aluStep d (getR s a &&& ~~~ (getR s b)) s

/-- SLL (R361). -/
def execSll (d a b : Reg) (s : State) : Answer :=
  aluStep d (shiftLeft (getR s a) (getR s b)) s

/-- SRL (R361). -/
def execSrl (d a b : Reg) (s : State) : Answer :=
  aluStep d (shiftRight (getR s a) (getR s b)) s

/-- SRA (R361). -/
def execSra (d a b : Reg) (s : State) : Answer :=
  aluStep d (shiftArith (getR s a) (getR s b)) s

/-- SLT (R361). -/
def execSlt (d a b : Reg) (s : State) : Answer :=
  aluStep d (boolWord ((getR s a).slt (getR s b))) s

/-- SLTU (R361). -/
def execSltu (d a b : Reg) (s : State) : Answer :=
  aluStep d (boolWord ((getR s a).ult (getR s b))) s

/-- MIN (R361). -/
def execMin (d a b : Reg) (s : State) : Answer :=
  aluStep d (if (getR s b).slt (getR s a) then getR s b else getR s a) s

/-- MAX (R361). -/
def execMax (d a b : Reg) (s : State) : Answer :=
  aluStep d (if (getR s a).slt (getR s b) then getR s b else getR s a) s

/-- MINU (R361). -/
def execMinu (d a b : Reg) (s : State) : Answer :=
  aluStep d (if (getR s b).ult (getR s a) then getR s b else getR s a) s

/-- MAXU (R361). -/
def execMaxu (d a b : Reg) (s : State) : Answer :=
  aluStep d (if (getR s a).ult (getR s b) then getR s b else getR s a) s

/-- MUL (R362). -/
def execMul (d a b : Reg) (s : State) : Answer :=
  aluStep d (getR s a * getR s b) s

/-- MULH (R362). -/
def execMulh (d a b : Reg) (s : State) : Answer :=
  aluStep d (mulHigh (getR s a) (getR s b)) s

/-- MULHU (R362). -/
def execMulhu (d a b : Reg) (s : State) : Answer :=
  aluStep d (mulHighU (getR s a) (getR s b)) s

/-- DIV (R363). -/
def execDiv (d a b : Reg) (s : State) : Answer :=
  aluStep d (quotient (getR s a) (getR s b)) s

/-- DIVU (R363). -/
def execDivu (d a b : Reg) (s : State) : Answer :=
  aluStep d (quotientU (getR s a) (getR s b)) s

/-- REM (R363). -/
def execRem (d a b : Reg) (s : State) : Answer :=
  aluStep d (remainder (getR s a) (getR s b)) s

/-- REMU (R363). -/
def execRemu (d a b : Reg) (s : State) : Answer :=
  aluStep d (remainderU (getR s a) (getR s b)) s

/-- CLZ (R361). -/
def execClz (d a : Reg) (s : State) : Answer :=
  aluStep d (BitVec.ofNat 64 (64 - bitLen (getR s a).toNat)) s

/-- CTZ (R361). -/
def execCtz (d a : Reg) (s : State) : Answer :=
  aluStep d (BitVec.ofNat 64 (trailingZeros 64 (getR s a).toNat)) s

/-- CPOP (R361). -/
def execCpop (d a : Reg) (s : State) : Answer :=
  aluStep d (BitVec.ofNat 64 (popCount 64 (getR s a).toNat)) s

/-- ADDI (R361). -/
def execAddi (d a : Reg) (i : BitVec 12) (s : State) : Answer :=
  aluStep d (getR s a + imm12 i) s

/-- ANDI (R361). -/
def execAndi (d a : Reg) (i : BitVec 12) (s : State) : Answer :=
  aluStep d (getR s a &&& imm12 i) s

/-- ORI (R361). -/
def execOri (d a : Reg) (i : BitVec 12) (s : State) : Answer :=
  aluStep d (getR s a ||| imm12 i) s

/-- XORI (R361). -/
def execXori (d a : Reg) (i : BitVec 12) (s : State) : Answer :=
  aluStep d (getR s a ^^^ imm12 i) s

/-- SLTI (R361). -/
def execSlti (d a : Reg) (i : BitVec 12) (s : State) : Answer :=
  aluStep d (boolWord ((getR s a).slt (imm12 i))) s

/-- SLTIU (R361). -/
def execSltiu (d a : Reg) (i : BitVec 12) (s : State) : Answer :=
  aluStep d (boolWord ((getR s a).ult (imm12 i))) s

/-- SLLI (R361). -/
def execSlli (d a : Reg) (n : BitVec 6) (s : State) : Answer :=
  aluStep d (shiftLeft (getR s a) (n.setWidth 64)) s

/-- SRLI (R361). -/
def execSrli (d a : Reg) (n : BitVec 6) (s : State) : Answer :=
  aluStep d (shiftRight (getR s a) (n.setWidth 64)) s

/-- SRAI (R361). -/
def execSrai (d a : Reg) (n : BitVec 6) (s : State) : Answer :=
  aluStep d (shiftArith (getR s a) (n.setWidth 64)) s

/-- LDIH (R364). -/
def execLdih (d : Reg) (i : BitVec 18) (s : State) : Answer :=
  aluStep d (i.signExtend 64 <<< 12) s

/-- ADDPC (R364). -/
def execAddpc (d : Reg) (i : BitVec 18) (s : State) : Answer :=
  aluStep d (s.th.pc + (i.signExtend 64 <<< 2)) s

/-! ### Branches -/

/-- BEQ (R366). -/
def execBeq (a b : Reg) (o : BitVec 12) (s : State) : Answer :=
  branchStep (getR s a == getR s b) o s

/-- BNE (R366). -/
def execBne (a b : Reg) (o : BitVec 12) (s : State) : Answer :=
  branchStep (getR s a != getR s b) o s

/-- BLT (R366). -/
def execBlt (a b : Reg) (o : BitVec 12) (s : State) : Answer :=
  branchStep ((getR s a).slt (getR s b)) o s

/-- BGE (R366). -/
def execBge (a b : Reg) (o : BitVec 12) (s : State) : Answer :=
  branchStep (!(getR s a).slt (getR s b)) o s

/-- BLTU (R366). -/
def execBltu (a b : Reg) (o : BitVec 12) (s : State) : Answer :=
  branchStep ((getR s a).ult (getR s b)) o s

/-- BGEU (R366). -/
def execBgeu (a b : Reg) (o : BitVec 12) (s : State) : Answer :=
  branchStep (!(getR s a).ult (getR s b)) o s

/-- J (R366). -/
def execJ (o : BitVec 24) (s : State) : Answer :=
  .next (setPc s (s.th.pc + (o.signExtend 64 <<< 2)))

/-- JTAB: into the table, or past it when the index is out of range (R367). -/
def execJtab (a : Reg) (n : BitVec 12) (s : State) : Answer :=
  let i := (getR s a).toNat
  .next (advance s (if i < n.toNat then 4 + 4 * i else 4 + 4 * n.toNat))

/-! ### Loads and stores -/

/-- LB (R368, R369). -/
def execLb (d a : Reg) (i : BitVec 12) (s : State) : Answer :=
  scalarStep (loadInto d (getR s a + imm12 i) 1 true) s

/-- LBU (R368, R369). -/
def execLbu (d a : Reg) (i : BitVec 12) (s : State) : Answer :=
  scalarStep (loadInto d (getR s a + imm12 i) 1 false) s

/-- LH (R368, R369). -/
def execLh (d a : Reg) (i : BitVec 12) (s : State) : Answer :=
  scalarStep (loadInto d (getR s a + imm12 i) 2 true) s

/-- LHU (R368, R369). -/
def execLhu (d a : Reg) (i : BitVec 12) (s : State) : Answer :=
  scalarStep (loadInto d (getR s a + imm12 i) 2 false) s

/-- LW (R368, R369). -/
def execLw (d a : Reg) (i : BitVec 12) (s : State) : Answer :=
  scalarStep (loadInto d (getR s a + imm12 i) 4 true) s

/-- LWU (R368, R369). -/
def execLwu (d a : Reg) (i : BitVec 12) (s : State) : Answer :=
  scalarStep (loadInto d (getR s a + imm12 i) 4 false) s

/-- LD (R368, R369). -/
def execLd (d a : Reg) (i : BitVec 12) (s : State) : Answer :=
  scalarStep (loadInto d (getR s a + imm12 i) 8 false) s

/-- An acquiring load into rd at a scope (R370). -/
def acquireInto (d : Reg) (va : Word) (scope : BitVec 3) : Op Unit := do
  let v ← loadAcquire va scope
  doing fun s => advance (setR s d v) 4

/-- LDAQ (R370). -/
def execLdaq (d a : Reg) (sc : BitVec 3) (s : State) : Answer :=
  scalarStep (acquireInto d (getR s a) sc) s

/-- SB (R368, R369). -/
def execSb (d a : Reg) (i : BitVec 12) (s : State) : Answer :=
  scalarStep (storeFrom d (getR s a + imm12 i) 1) s

/-- SH (R368, R369). -/
def execSh (d a : Reg) (i : BitVec 12) (s : State) : Answer :=
  scalarStep (storeFrom d (getR s a + imm12 i) 2) s

/-- SW (R368, R369). -/
def execSw (d a : Reg) (i : BitVec 12) (s : State) : Answer :=
  scalarStep (storeFrom d (getR s a + imm12 i) 4) s

/-- SD (R368, R369). -/
def execSd (d a : Reg) (i : BitVec 12) (s : State) : Answer :=
  scalarStep (storeFrom d (getR s a + imm12 i) 8) s

/-- A releasing store of a register at a scope (R370). -/
def releaseFrom (d : Reg) (va : Word) (scope : BitVec 3) : Op Unit := do
  let s ← get
  storeScalar va 8 (getR s d) (some scope)
  doing fun s => advance s 4

/-- SDRL (R370). -/
def execSdrl (d a : Reg) (sc : BitVec 3) (s : State) : Answer :=
  scalarStep (releaseFrom d (getR s a) sc) s

end Sys2Proof.Machine
end

