-- ==== Sys2Proof/Machine/Vector.lean ====
section
/-! DEFINITION. The vector-class instructions: their checks at issue and their posting to the VIQ (R55, R67,
R71-R73, R194, R198), and the vector side, which performs the entries in order (R195, R240, R68-R69). -/
namespace Sys2Proof.Machine

/-! ### What an instruction is -/

/-- The load queue a consumer names: form 11 of LANE and CONV (R198). -/
def queueOf (i : Instr) : Option (BitVec 3) :=
  match vecKey i with
  | some (u, _, f) => if (u = 0 ∨ u = 2) ∧ f.form = 3 then some (fieldOf f.vs2 0 3) else none
  | none => none

/-- The rounding code an instruction's field names; none where it has no such field (R39, R261). -/
def roundingCode (i : Instr) : Option Nat :=
  match i with
  | .vnar f => some (if f.form = 2 then bitsOf f.x16.toNat 13 3 else bitsOf f.x16.toNat 12 3)
  | .vshrr f | .vmulh f => if f.form = 2 then none else some (bitsOf f.x16.toNat 12 3)
  | _ => match convRow i with
    | some (_, f) => some (bitsOf f.x16.toNat 12 3)
    | none => none

/-- Whether an instruction consumes a counter value at posting (R39). -/
def usesCounter (i : Instr) (rmode : Nat) : Bool :=
  (match i with
   | .vrand _ => true
   | _ => false) ||
  (match roundingCode i with
   | some r => r == 5 || (r == 7 && rmode == 5)
   | none => false)

/-- Whether an instruction names a scalar destination that it writes when it executes (R195). -/
def writesScalar (i : Instr) : Bool :=
  match i with
  | .setvl _ | .vmvs _ | .kpopc _ | .klast _ => true
  | _ => match vecKey i with
    | some (5, _, f) => f.vd != 0
    | _ => false

/-- The unit of an instruction when the core has it not (R4). -/
def absentUnit (s : State) (i : Instr) : Option Nat :=
  let laneless := coreLanes s (coreOf s.th) = 0
  match i with
  | .vtou _ | .utov _ => if laneless then some 3 else none
  | .xstorRead _ | .xstorWrite _ | .xstorFlush _ => if s.fuse.storage then none else some 4
  | _ => match vecKey i with
    | some (u, _, _) => if u.toNat < 3 ∧ laneless then some u.toNat else none
    | none => none

/-- Cause 0x01 at PC with the instruction's parcels. -/
def illegalAt {α : Type} (i : Instr) : Op α := fun s =>
  match encode i with
  | some (a :: b :: _) => (illegal s.th.pc a.toNat b.toNat : Op α) s
  | _ => (illegal s.th.pc 0 0 : Op α) s

/-! ### Posting (R55, R67, R194, R198) -/

/-- A queue with its oldest unclaimed entry claimed. -/
def claimFirst : List QEntry → List QEntry
  | [] => []
  | e :: rest => if e.claimed then e :: claimFirst rest else { e with claimed := true } :: rest

/-- A consumer's claim, or the misuse of Table 7-1. DESIGN CHOICE (log 43): of a consumer with both, the misuse, found here at
its posting, comes before a 0x01 that VTYPE gives at its place in the VIQ (R72). -/
def claimQueue (q : BitVec 3) : Op Unit := do
  let s ← get
  match (s.th.q[q.toNat]).find? fun e => !e.claimed with
  | none => queueMisuse s.th.pc q.toNat 1
  | some e =>
    if e.vl != s.th.lanes.vl || e.sew.toNat != programSew s.th then queueMisuse s.th.pc q.toNat 2
    else doing fun s => updTh s fun th => { th with q := th.q.set q.toNat (claimFirst th.q[q.toNat]) }

/-- The entry of an instruction at an address, with the values that travel (R55, R430). -/
def entryOf (i : Instr) (addr : Word) (s : State) : VEntry :=
  let c := s.th.csr
  let e : VEntry :=
    { conv := false, member := 0, cnt := 0, addr := addr.setWidth 56, insn := i
      devthr := c.devthr, rmode := c.rmode, bmask := c.bmask, gkey := c.gkey, gcnt := c.gcnt }
  match vecKey i with
  | none => e
  | some (u, _, f) =>
    let e := if u = 1 ∨ u = 3 then { e with restart := c.vstart } else e
    match u.toNat with
    | 1 =>
      let stride := match i with
        | .vlds _ | .vsts _ => getR s f.vs2
        | _ => 0
      { e with opa := getR s f.rs, opb := stride, opc := getR s f.vs1 }
    | 4 => { e with opa := getR s f.rs, opb := getR s f.vs2, opc := getR s f.vs1, opd := getR s f.vd }
    | 5 => { e with opa := getR s f.rs, opb := getR s f.vs2, opc := getR s f.vs1 }
    | _ => if f.form = 1 then { e with opa := getR s f.rs } else e

/-- What an instruction does at posting: SEED sets the generator, SETVT writes VL to its scalar (R239, R289). -/
def postEffect (i : Instr) (addr : Word) (e : VEntry) : Op Unit :=
  match i with
  | .seed _ => do
    let k ← logEvent 0x06 addr e.opa
    doing fun s => updTh s fun th => { th with csr := { th.csr with gkey := k, gcnt := 0 } }
  | .setvt f => doing fun s => setR s f.vd (s.th.lanes.vl.setWidth 64)
  | _ => doing fun s => if usesCounter i s.th.csr.rmode.toNat then
      updTh s fun th => { th with csr := { th.csr with gcnt := th.csr.gcnt + 1 } } else s

/-- One instruction posted; in a convoy, as the member of the given index among `cnt` + 2. -/
def postEntry (i : Instr) (addr : Word) (member : Option (Nat × Nat)) : Op Unit := do
  match queueOf i with
  | some q => claimQueue q
  | none => pure ()
  let s ← get
  let e := entryOf i addr s
  let e := { e with claimed := (queueOf i).isSome, queue := (queueOf i).getD 0 }
  let e := match member with
    | some (m, n) => { e with conv := true, member := BitVec.ofNat 3 m, cnt := BitVec.ofNat 3 n }
    | none => e
  doing fun s => updTh s fun th => { th with viq := th.viq ++ [e], csr := { th.csr with vstart := 0 } }
  postEffect i addr e

/-- SEED, whose key is logged at its posting (Table 15-9). -/
def isSeed (i : Instr) : Bool :=
  match i with
  | .seed _ => true
  | _ => false

/-- A standalone instruction posted, PC moving past it. -/
def postOne (i : Instr) : Op Unit := do
  if isSeed i then awaitLog
  let s ← get
  postEntry i s.th.pc none
  doing fun s => advance s 8

/-- The members of a convoy posted, from the one of index `m` at the given address on. -/
def postMembers (n m : Nat) (addr : Word) : List Instr → Op Unit
  | [] => pure ()
  | i :: is => do
    postEntry i addr (some (m, n))
    postMembers n (m + 1) (addr + 8) is

/-- A convoy's posting (R67); a member's misuse of a queue is taken at the header (R199). -/
def postConvoy (n : Nat) (is : List Instr) : Op Unit := do
  if is.any isSeed then awaitLog
  let s ← get
  postMembers n 0 (s.th.pc + 4) is
  doing fun s => advance s (4 + 8 * is.length)

/-! ### The vector side -/

/-- The effect of a posted instruction; of one of the access side, which is never posted, its checks of VTYPE alone
(R71). -/
def vecEffect (i : Instr) (c : VCtx) : Op Unit :=
  match i with
  | .setvl _ => effSetvl c
  | .setvt _ => effSetvt c
  | .vadd _ => effVadd c
  | .vsub _ => effVsub c
  | .vsadd _ => effVsadd c
  | .vssub _ => effVssub c
  | .vmin _ => effVmin c
  | .vmax _ => effVmax c
  | .vand _ => effVand c
  | .vor _ => effVor c
  | .vxor _ => effVxor c
  | .vandn _ => effVandn c
  | .vsll _ => effVsll c
  | .vsrl _ => effVsrl c
  | .vsra _ => effVsra c
  | .vshrr _ => effVshrr c
  | .vmul _ => effVmul c
  | .vmulh _ => effVmulh c
  | .vmacc _ => effVmacc c
  | .vabs _ => effVabs c
  | .vneg _ => effVneg c
  | .vclz _ => effVclz c
  | .vcpop _ => effVcpop c
  | .vcmp _ => effVcmp c
  | .vmerge _ => effVmerge c
  | .vmv _ => effVmv c
  | .vmvs _ => effVmvs c
  | .vslup _ => effVslup c
  | .vsldn _ => effVsldn c
  | .vperm _ => effVperm c
  | .vcompr _ => effVcompr c
  | .vexpnd _ => effVexpnd c
  | .vbfx _ => effVbfx c
  | .vbfi _ => effVbfi c
  | .vwid _ => effVwid c
  | .vnar _ => effVnar c
  | .vred _ => effVred c
  | .viota _ => effViota c
  | .kand _ => effKand c
  | .kor _ => effKor c
  | .kxor _ => effKxor c
  | .kandn _ => effKandn c
  | .knot _ => effKnot c
  | .kwhile _ => effKwhile c
  | .kbefore _ => effKbefore c
  | .kincl _ => effKincl c
  | .kfirst _ => effKfirst c
  | .kpopc _ => effKpopc c
  | .klast _ => effKlast c
  | .kmv _ => effKmv c
  | .vld _ => effVld c
  | .vlds _ => effVlds c
  | .vldx _ => effVldx c
  | .vldff _ => effVldff c
  | .vst _ => effVst c
  | .vsts _ => effVsts c
  | .vstx _ => effVstx c
  | .vldl _ => effVldl c
  | .vstl _ => effVstl c
  | .vamoadd _ => effVamoadd c
  | .vamomax _ => effVamomax c
  | .vamomin _ => effVamomin c
  | .vamoxchg _ => effVamoxchg c
  | .vcapp _ => effVcapp c
  | .vconfl _ => effVconfl c
  | .lsync _ => effLsync c
  | .vpref _ => effVpref c
  | .vcvt src _ => effVcvt src c
  | .vqntAmax _ => effVqntAmax c
  | .vqnt _ => effVqnt c
  | .vdqnt _ => effVdqnt c
  | .vsclMxin _ => effVsclMxin c
  | .vsclMxout _ => effVsclMxout c
  | .vsclAdde _ => effVsclAdde c
  | .vsclMxe4m3 _ => effVsclMxe4m3 c
  | .vsclMxe5m2 _ => effVsclMxe5m2 c
  | .vhad _ => effVhad c
  | .vlmul _ => effVlmul c
  | .vldiv _ => effVldiv c
  | .vladd _ => effVladd c
  | .vlsub _ => effVlsub c
  | .vlexp _ => effVlexp c
  | .vllog _ => effVllog c
  | .vlcmp _ => effVlcmp c
  | .vtlu _ => effVtlu c
  | .vtld _ => effVtld c
  | .vrand _ => effVrand c
  | .seed _ => effSeed c
  | .vamax _ => effVamax c
  | .qld f => queueLegal i f false []
  | .qlds f => queueLegal i f true []
  | .qgath f => queueLegal i f true [f.vs2]
  | .qclr _ => pure ()
  | .blease _ => effBlease c
  | .brels _ => effBrels c
  | .bstat _ => effBstat c
  | .cbld _ => effCbld c
  | .tload _ => effTload c
  | .tstore _ => effTstore c
  | .tbuild _ => effTbuild c
  | .tquery _ => effTquery c
  | .luaccKv _ => effLuaccKv c
  | .luacc _ => effLuacc c
  | .uadd _ => effUadd c
  | .usub _ => effUsub c
  | .umax _ => effUmax c
  | .umin _ => effUmin c
  | .ushl _ => effUshl c
  | .ushr _ => effUshr c
  | .umov _ => effUmov c
  | .uclr _ => effUclr c
  | .usat _ => effUsat c
  | .ucvt _ => effUcvt c
  | .bred _ => effBred c
  | .vtou _ => effVtou c
  | .utov _ => effUtov c
  | .xcopy _ => effXcopy c
  | .xcopym _ => effXcopym c
  | .xfill _ => effXfill c
  | .xstrm _ => effXstrm c
  | .xsclose _ => effXsclose c
  | .xstorRead _ => effXstorRead c
  | .xstorWrite _ => effXstorWrite c
  | .xstorFlush _ => effXstorFlush c
  | .xcoll _ => effXcoll c
  | .xcancel _ => effXcancel c
  | .kbindBind _ => effKbindBind c
  | .kbindUnbind _ => effKbindUnbind c
  | .kbindRebind _ => effKbindRebind c
  | .kcheck _ => effKcheck c
  | .ksplice _ => effKsplice c
  | .kprobe _ => effKprobe c
  | .krepair _ => effKrepair c
  | .kcommit _ => effKcommit c
  | .kstateRead _ => effKstateRead c
  | .kstateLoc _ => effKstateLoc c
  | .kstateFill _ => effKstateFill c
  | .kstateClean _ => effKstateClean c
  | .kstateReopen _ => effKstateReopen c
  | .krels _ => effKrels c
  | _ => illegalEntry c.e

/-- A consumer's entry has arrived; a recorded fault is the consumer's (R201). -/
def awaitArrival (c : VCtx) : Op Unit := fun s =>
  match claimedEntry s c with
  | some q =>
    if !q.arrived then .error (.wait false) s
    else if q.failed then
      .error (.trap { cause := q.cause, faddr := q.faddr, finfo := BitVec.ofNat 64 (elemInfo q.felem) } false) s
    else .ok () s
  | none => .ok () s

/-- A consumer's effect once its entry has arrived. An encoding that VTYPE makes illegal is found before any operand is
read (R71, R72), and so before the wait and before the recorded fault. -/
def consumeEntry (e : VEntry) (c : VCtx) : Op Unit := fun s =>
  match awaitArrival c s with
  | .ok _ s' => vecEffect e.insn c s'
  | .error x s' =>
    match vecEffect e.insn c s with
    | .error (.trap t k) s'' => if t.cause = 0x01 then .error (.trap t k) s'' else .error x s'
    | _ => .error x s'

/-- One entry performed; `fwd` is the register that a forward-only member before it would have written, with the lanes
that hold its result (R68). Its claim is consumed (R198). -/
def performEntry (e : VEntry) (fwd : Option (Reg × Lanes)) : Op Unit := do
  let s ← get
  match vecKey e.insn with
  | none => illegalEntry e
  | some (_, _, f) => do
    let c : VCtx := { e := e, f := f, src := s.th.lanes, fwd := fwd }
    if e.claimed then consumeEntry e c else vecEffect e.insn c
    if e.claimed then
      doing fun s => updTh s fun th => { th with q := th.q.set e.queue.toNat (dropClaimed 0 th.q[e.queue.toNat]) }

/-- The package with the first entries of the VIQ freed. -/
def popEntries (n : Nat) (s : State) : State := updTh s fun th => { th with viq := th.viq.drop n }

/-- A map with the keys from `lo` below `hi` as in another. -/
def keysFrom {α : Type} (lo hi : Nat) (a b : List (Nat × α)) : List (Nat × α) :=
  b.filter (fun x => x.1 < lo) ++ a.filter (fun x => lo ≤ x.1 && x.1 < hi) ++ b.filter fun x => hi ≤ x.1

/-- Lanes in which a register that a forward-only member wrote holds its previous value (R68). -/
def unforward (before : Lanes) (r : Nat) (l : Lanes) : Lanes :=
  { l with
    v := keysFrom (16384 * r) (16384 * (r + 2)) before.v l.v
    z := keysFrom (1024 * r) (1024 * (r + 1)) before.z l.z }

/-- The members of a convoy in order (R68, R69). -/
def performMembers : Nat → List VEntry → Option (Reg × Lanes) → Op Unit
  | _, [], _ => pure ()
  | m, e :: es, fwd => fun s =>
    match performEntry e fwd s with
    | .error (.trap t k) s' => .error (.trap { t with conv := true, member := BitVec.ofNat 3 m } k) s'
    | .error x s' => .error x s'
    | .ok _ s' =>
      match isForward e.insn, vecKey e.insn with
      | true, some (_, _, f) =>
        performMembers (m + 1) es (some (f.vd, s'.th.lanes)) (updLanes s' (unforward s.th.lanes f.vd.toNat))
      | _, _ => performMembers (m + 1) es none s'

/-- An entry whose restart point a trap keeps: a bank instruction, a store or atomic that has performed elements, and a
VCAPP that has reserved its entries (R210, Table 14-9). -/
def keepsRestart (e : VEntry) : Bool :=
  e.part || e.reserved.isSome || (match vecKey e.insn with
    | some (3, _, _) => true
    | _ => false)

/-- The restart points of the first entries after a trap (R69, R208, R210, Table 14-9). -/
def zeroRestarts (n : Nat) (s : State) : State :=
  let clear := fun e : VEntry => if keepsRestart e then e else { e with restart := 0 }
  updTh s fun th => { th with viq := (th.viq.take n).map clear ++ th.viq.drop n }

/-- A stop with the state it leaves kept. -/
def keepStop (x : Stop) : Stop :=
  match x with
  | .trap t _ => .trap t true
  | .wait _ => .wait true
  | .service w _ => .service w true
  | .more => .more

/-- The state after a stop of the first `n` entries. -/
def afterStop (n : Nat) (x : Stop) (s : State) : State :=
  match x with
  | .trap _ _ => zeroRestarts n s
  | _ => s

/-- Whether a stop keeps the state it arose in. -/
def Stop.keeps (x : Stop) : Bool :=
  match x with
  | .trap _ k | .wait k | .service _ k => k
  | .more => true

/-- The state a stop leaves: a trap ends the attempt, and after a wait it is made again. -/
def stopState (x : Stop) (before after : State) : State :=
  match x with
  | .trap _ k => stoppedState before after k
  | x => waitingState before after x.keeps

/-- A single entry performed and freed. -/
def performSingle (e : VEntry) (s : State) : EStateM.Result Stop State Unit :=
  match performEntry e none s with
  | .ok _ s' => .ok () (popEntries 1 s')
  | .error x s' => .error (keepStop x) (afterStop 1 x (stopState x s s'))

/-- A convoy commits: its stores may be performed, and are where the model holds none back (R69, log 14). -/
def commitGroup (s : State) : State :=
  let s := { s with group := {} }
  if s.weak then s else performAllOf s s.th.id

/-- A convoy performed and freed; when a member traps, no effect of any remains but amax updates, and when one waits none
(R69, R276). -/
def performGroup (n : Nat) (s : State) : EStateM.Result Stop State Unit :=
  match performMembers 0 (s.th.viq.take n) none { s with group := { active := true, first := s.nextStore } } with
  | .ok _ s' => .ok () (popEntries n (commitGroup s'))
  | .error x s' =>
    let back := match x with
      | .trap _ _ => s'.group.amax.foldl amaxAgain (rollback s s')
      | _ => backOut s s'
    .error (keepStop x) (afterStop n x back)

/-- The VIQ's head, or the convoy at it. Entries are performed strictly in order. DESIGN CHOICE (log 21): a lone VAMAX that an
earlier instruction's trap discards has therefore not yet made its update, where Table 9-6 allows either. -/
def performHead (s : State) : EStateM.Result Stop State Unit :=
  match s.th.viq with
  | [] => .ok () s
  | e :: _ => if e.conv then performGroup (e.cnt.toNat + 2) s else performSingle e s

/-- The vector side of the thread takes no entries (R424, R427). -/
def vectorHeld (s : State) : Bool := s.th.viq.isEmpty || s.th.trap.mode || s.stopped

/-- Entries performed in order until one stops; after a restart unit with others to follow, only when `whole`. -/
def drainSome (whole : Bool) : Nat → State → State
  | 0, s => s
  | n + 1, s =>
    if vectorHeld s then s
    else match performHead s with
      | .ok _ s' => drainSome whole n (updTh s' (wentOn true))
      | .error .more s' =>
        let s'' := settle true s (.error .more s')
        if whole then drainSome whole n s'' else s''
      | r => settle true s r

/-- Moves that work off any VIQ: its entries, and the restart units of 20 bits that its head may have. -/
def drainFuel (s : State) : Nat := 2 ^ 20 + s.th.viq.length + 1

/-- The VIQ of the thread worked off, as far as it goes. -/
def drain (s : State) : State := drainSome true (drainFuel s) s

/-- One turn of the vector side: up to the end of a restart unit, where the pseudo-channels are at a boundary (R91). -/
def drainTurn (s : State) : State := drainSome false (s.th.viq.length + 1) s

/-! ### Waiting for the vector side -/

/-- The scalar side cannot go on (log 2). -/
def stallAt (s : State) : State := updTh s fun th => { th with stall := true }

/-- A continuation once the VIQ is as required, after the vector side has been given the chance (R195). -/
def whenViq (ok : Thread → Bool) (k : State → Answer) (s : State) : Answer :=
  if ok s.th then k s
  else
    let s' := drainTurn s
    if s'.th.task != s.th.task || s'.th.trap.mode != s.th.trap.mode then .next s'
    else if ok s'.th then k s'
    else .next (stallAt s')

/-- Every vector-class instruction posted earlier has completed; in trap mode kept entries are not waited for
(R427). -/
def viqDone (th : Thread) : Bool := th.trap.mode || th.viq.isEmpty

/-- A continuation once the vector side is done. -/
def whenDone (k : State → Answer) (s : State) : Answer := whenViq viqDone k s

/-- Entries of a VIQ (R194). -/
def viqSize : Nat := 64

/-- Room for `n` entries. -/
def viqRoom (n : Nat) (th : Thread) : Bool := decide (th.viq.length + n ≤ viqSize)

/-! ### Checks at issue (R71, R72) -/

/-- An encoding that VTYPE makes illegal, as it now stands (R240). -/
def vtypeFault (s : State) (i : Instr) : Bool :=
  match vecKey i with
  | none => false
  | some (_, _, f) =>
    match vecEffect i { e := entryOf i s.th.pc s, f := f, src := s.th.lanes, fwd := none } s with
    | .error (.trap t _) _ => t.cause == 0x01
    | _ => false

/-- The checks of Table 2-13 that need the machine, of a lone instruction or of the members of a convoy under their header:
FWD outside a convoy (R70), an absent unit (R4), trap mode (R427). Where an instruction is stopped here, no place in the VIQ
is left for the checks that depend on VTYPE, whose 0x01 comes before 0x02 and 0x04 (R72). DESIGN CHOICE (log 19): of members
that name different absent units, FINFO names the first member's. -/
def issueChecks (hdr : Option Parcel) (is : List Instr) : Op Unit := fun s =>
  if hdr.isNone && is.any isForward then illegalAt (is.headD .nop) s
  else
    let absent := is.findSome? (absentUnit s)
    match if absent.isSome || s.th.trap.mode then is.findIdx? (vtypeFault s) else none, hdr with
    | some m, some h => (illegal s.th.pc h.toNat 0 (some m) : Op Unit) s
    | some _, none => illegalAt (is.headD .nop) s
    | none, _ => match absent with
      | some u => fault 0x02 s.th.pc u s
      | none => if s.th.trap.mode then fault 0x04 s.th.pc (3 * 2 ^ 12) s else .ok () s

/-! ### Issue -/

/-- Checks, room in the VIQ, posting; then the vector side moves on, unless it moves at its own turns (log 2). -/
def issue (checks : Op Unit) (n : Nat) (post : Op Unit) (s : State) : Answer :=
  match checks s with
  | .error x s' => .next (settle false s (.error x s'))
  | .ok _ s' =>
    whenViq (viqRoom n) (fun s =>
      let s := settle false s (post s)
      .next (if s.vlag then s else drain s)) s'

/-- A vector-class instruction outside a convoy. -/
def issueVec (i : Instr) (s : State) : Answer := issue (issueChecks none [i]) 1 (postOne i) s

/-- The checks of issue, that of SEW among them (R71, R72), then an instruction of the access side (R196). -/
def accessStep (i : Instr) (legal : Op Unit) (k : State → Answer) (s : State) : Answer :=
  match legal s with
  | .error x s' => .next (settle false s (.error x s'))
  | .ok _ s' =>
    match issueChecks none [i] s' with
    | .error x s' => .next (settle false s (.error x s'))
    | .ok _ s' => k s'

/-! ### The access side (R218, R219) -/

/-- QLD (R218). -/
def execQld (f : W64) (s : State) : Answer :=
  accessStep (.qld f) (queueLegal (.qld f) f false []) (scalarStep (queueLoad (.qld f) f fun c => unitAddr (baseAddr c))) s

/-- QLDS (R218). -/
def execQlds (f : W64) (s : State) : Answer :=
  accessStep (.qlds f) (queueLegal (.qlds f) f true []) (scalarStep (queueLoad (.qlds f) f strideAddr)) s

/-- QGATH (R218). -/
def execQgath (f : W64) (s : State) : Answer :=
  accessStep (.qgath f) (queueLegal (.qgath f) f true [f.vs2])
    (whenDone (scalarStep (queueLoad (.qgath f) f fun c w e => indexAddr c (programSew s.th) w e))) s

/-- QCLR (R219). -/
def clearQueue (q : BitVec 3) : Op Unit := fun s =>
  if s.th.viq.any fun e => e.claimed && e.queue == q then .error (.wait false) s
  else .ok () (advance (updTh s fun th => { th with q := th.q.set q.toNat [], csr := { th.csr with vstart := 0 } }) 8)

/-- No entry of the VIQ claims the queue. -/
def unclaimed (q : BitVec 3) (th : Thread) : Bool := th.trap.mode || !th.viq.any fun e => e.claimed && e.queue == q

/-- QCLR (R219). -/
def execQclr (f : W64) (s : State) : Answer :=
  accessStep (.qclr f) (pure ()) (whenViq (unclaimed (fieldOf f.vd 0 3)) (scalarStep (clearQueue (fieldOf f.vd 0 3)))) s

/-- CONVOY (R67). -/
def execConvoy (h : Parcel) (ms : List (BitVec 64)) (s : State) : Answer :=
  let is := ms.filterMap memberInstr
  issue (issueChecks (some h) is) is.length (postConvoy (is.length - 2) is) s

/-! ### LANE -/

/-- SETVL (R235). -/
def execSetvl (f : W64) (s : State) : Answer := issueVec (.setvl f) s

/-- SETVT (R239). -/
def execSetvt (f : W64) (s : State) : Answer := issueVec (.setvt f) s

/-- VADD (R250). -/
def execVadd (f : W64) (s : State) : Answer := issueVec (.vadd f) s

/-- VSUB (R250). -/
def execVsub (f : W64) (s : State) : Answer := issueVec (.vsub f) s

/-- VSADD (R250). -/
def execVsadd (f : W64) (s : State) : Answer := issueVec (.vsadd f) s

/-- VSSUB (R250). -/
def execVssub (f : W64) (s : State) : Answer := issueVec (.vssub f) s

/-- VMIN (R250). -/
def execVmin (f : W64) (s : State) : Answer := issueVec (.vmin f) s

/-- VMAX (R250). -/
def execVmax (f : W64) (s : State) : Answer := issueVec (.vmax f) s

/-- VAND (R250). -/
def execVand (f : W64) (s : State) : Answer := issueVec (.vand f) s

/-- VOR (R250). -/
def execVor (f : W64) (s : State) : Answer := issueVec (.vor f) s

/-- VXOR (R250). -/
def execVxor (f : W64) (s : State) : Answer := issueVec (.vxor f) s

/-- VANDN (R250). -/
def execVandn (f : W64) (s : State) : Answer := issueVec (.vandn f) s

/-- VSLL (R250). -/
def execVsll (f : W64) (s : State) : Answer := issueVec (.vsll f) s

/-- VSRL (R250). -/
def execVsrl (f : W64) (s : State) : Answer := issueVec (.vsrl f) s

/-- VSRA (R250). -/
def execVsra (f : W64) (s : State) : Answer := issueVec (.vsra f) s

/-- VSHRR (R251). -/
def execVshrr (f : W64) (s : State) : Answer := issueVec (.vshrr f) s

/-- VMUL (R252). -/
def execVmul (f : W64) (s : State) : Answer := issueVec (.vmul f) s

/-- VMULH (R252). -/
def execVmulh (f : W64) (s : State) : Answer := issueVec (.vmulh f) s

/-- VMACC (R252). -/
def execVmacc (f : W64) (s : State) : Answer := issueVec (.vmacc f) s

/-- VABS (R250). -/
def execVabs (f : W64) (s : State) : Answer := issueVec (.vabs f) s

/-- VNEG (R250). -/
def execVneg (f : W64) (s : State) : Answer := issueVec (.vneg f) s

/-- VCLZ (R250). -/
def execVclz (f : W64) (s : State) : Answer := issueVec (.vclz f) s

/-- VCPOP (R250). -/
def execVcpop (f : W64) (s : State) : Answer := issueVec (.vcpop f) s

/-- VCMP (R253). -/
def execVcmp (f : W64) (s : State) : Answer := issueVec (.vcmp f) s

/-- VMERGE (R254). -/
def execVmerge (f : W64) (s : State) : Answer := issueVec (.vmerge f) s

/-- VMV (R255). -/
def execVmv (f : W64) (s : State) : Answer := issueVec (.vmv f) s

/-- VMVS (R256). -/
def execVmvs (f : W64) (s : State) : Answer := issueVec (.vmvs f) s

/-- VSLUP (R255). -/
def execVslup (f : W64) (s : State) : Answer := issueVec (.vslup f) s

/-- VSLDN (R255). -/
def execVsldn (f : W64) (s : State) : Answer := issueVec (.vsldn f) s

/-- VPERM (R255). -/
def execVperm (f : W64) (s : State) : Answer := issueVec (.vperm f) s

/-- VCOMPR (R257). -/
def execVcompr (f : W64) (s : State) : Answer := issueVec (.vcompr f) s

/-- VEXPND (R257). -/
def execVexpnd (f : W64) (s : State) : Answer := issueVec (.vexpnd f) s

/-- VBFX (R259). -/
def execVbfx (f : W64) (s : State) : Answer := issueVec (.vbfx f) s

/-- VBFI (R259). -/
def execVbfi (f : W64) (s : State) : Answer := issueVec (.vbfi f) s

/-- VWID (R260). -/
def execVwid (f : W64) (s : State) : Answer := issueVec (.vwid f) s

/-- VNAR (R261). -/
def execVnar (f : W64) (s : State) : Answer := issueVec (.vnar f) s

/-- VRED (R262). -/
def execVred (f : W64) (s : State) : Answer := issueVec (.vred f) s

/-- VIOTA (R258). -/
def execViota (f : W64) (s : State) : Answer := issueVec (.viota f) s

/-- KAND (R263). -/
def execKand (f : W64) (s : State) : Answer := issueVec (.kand f) s

/-- KOR (R263). -/
def execKor (f : W64) (s : State) : Answer := issueVec (.kor f) s

/-- KXOR (R263). -/
def execKxor (f : W64) (s : State) : Answer := issueVec (.kxor f) s

/-- KANDN (R263). -/
def execKandn (f : W64) (s : State) : Answer := issueVec (.kandn f) s

/-- KNOT (R263). -/
def execKnot (f : W64) (s : State) : Answer := issueVec (.knot f) s

/-- KWHILE (R263). -/
def execKwhile (f : W64) (s : State) : Answer := issueVec (.kwhile f) s

/-- KBEFORE (R264). -/
def execKbefore (f : W64) (s : State) : Answer := issueVec (.kbefore f) s

/-- KINCL (R264). -/
def execKincl (f : W64) (s : State) : Answer := issueVec (.kincl f) s

/-- KFIRST (R264). -/
def execKfirst (f : W64) (s : State) : Answer := issueVec (.kfirst f) s

/-- KPOPC (R265). -/
def execKpopc (f : W64) (s : State) : Answer := issueVec (.kpopc f) s

/-- KLAST (R265). -/
def execKlast (f : W64) (s : State) : Answer := issueVec (.klast f) s

/-- KMV (R263). -/
def execKmv (f : W64) (s : State) : Answer := issueVec (.kmv f) s

/-! ### VMEM -/

/-- VLD (R215). -/
def execVld (f : W64) (s : State) : Answer := issueVec (.vld f) s

/-- VLDS (R215). -/
def execVlds (f : W64) (s : State) : Answer := issueVec (.vlds f) s

/-- VLDX (R215). -/
def execVldx (f : W64) (s : State) : Answer := issueVec (.vldx f) s

/-- VLDFF (R216). -/
def execVldff (f : W64) (s : State) : Answer := issueVec (.vldff f) s

/-- VST (R215). -/
def execVst (f : W64) (s : State) : Answer := issueVec (.vst f) s

/-- VSTS (R215). -/
def execVsts (f : W64) (s : State) : Answer := issueVec (.vsts f) s

/-- VSTX (R215). -/
def execVstx (f : W64) (s : State) : Answer := issueVec (.vstx f) s

/-- VLDL (R217). -/
def execVldl (f : W64) (s : State) : Answer := issueVec (.vldl f) s

/-- VSTL (R217). -/
def execVstl (f : W64) (s : State) : Answer := issueVec (.vstl f) s

/-- VAMOADD (R220). -/
def execVamoadd (f : W64) (s : State) : Answer := issueVec (.vamoadd f) s

/-- VAMOMAX (R220). -/
def execVamomax (f : W64) (s : State) : Answer := issueVec (.vamomax f) s

/-- VAMOMIN (R220). -/
def execVamomin (f : W64) (s : State) : Answer := issueVec (.vamomin f) s

/-- VAMOXCHG (R220). -/
def execVamoxchg (f : W64) (s : State) : Answer := issueVec (.vamoxchg f) s

/-- VCAPP (R223). -/
def execVcapp (f : W64) (s : State) : Answer := issueVec (.vcapp f) s

/-- VCONFL (R221). -/
def execVconfl (f : W64) (s : State) : Answer := issueVec (.vconfl f) s

/-- LSYNC (R225). -/
def execLsync (f : W64) (s : State) : Answer := issueVec (.lsync f) s

/-- VPREF (R226). -/
def execVpref (f : W64) (s : State) : Answer := issueVec (.vpref f) s

/-! ### CONV -/

/-- VCVT (R271). -/
def execVcvt (src : BitVec 4) (f : W64) (s : State) : Answer := issueVec (.vcvt src f) s

/-- VQNT_AMAX (R273). -/
def execVqntAmax (f : W64) (s : State) : Answer := issueVec (.vqntAmax f) s

/-- VQNT (R272). -/
def execVqnt (f : W64) (s : State) : Answer := issueVec (.vqnt f) s

/-- VDQNT (R274). -/
def execVdqnt (f : W64) (s : State) : Answer := issueVec (.vdqnt f) s

/-- VSCL_MXIN (R278). -/
def execVsclMxin (f : W64) (s : State) : Answer := issueVec (.vsclMxin f) s

/-- VSCL_MXOUT (R278). -/
def execVsclMxout (f : W64) (s : State) : Answer := issueVec (.vsclMxout f) s

/-- VSCL_ADDE (R278). -/
def execVsclAdde (f : W64) (s : State) : Answer := issueVec (.vsclAdde f) s

/-- VSCL_MXE4M3 (R278). -/
def execVsclMxe4m3 (f : W64) (s : State) : Answer := issueVec (.vsclMxe4m3 f) s

/-- VSCL_MXE5M2 (R278). -/
def execVsclMxe5m2 (f : W64) (s : State) : Answer := issueVec (.vsclMxe5m2 f) s

/-- VHAD (R279). -/
def execVhad (f : W64) (s : State) : Answer := issueVec (.vhad f) s

/-- VLMUL (R281). -/
def execVlmul (f : W64) (s : State) : Answer := issueVec (.vlmul f) s

/-- VLDIV (R281). -/
def execVldiv (f : W64) (s : State) : Answer := issueVec (.vldiv f) s

/-- VLADD (R281). -/
def execVladd (f : W64) (s : State) : Answer := issueVec (.vladd f) s

/-- VLSUB (R281). -/
def execVlsub (f : W64) (s : State) : Answer := issueVec (.vlsub f) s

/-- VLEXP (R283). -/
def execVlexp (f : W64) (s : State) : Answer := issueVec (.vlexp f) s

/-- VLLOG (R284). -/
def execVllog (f : W64) (s : State) : Answer := issueVec (.vllog f) s

/-- VLCMP (R282). -/
def execVlcmp (f : W64) (s : State) : Answer := issueVec (.vlcmp f) s

/-- VTLU (R285). -/
def execVtlu (f : W64) (s : State) : Answer := issueVec (.vtlu f) s

/-- VTLD (R286). -/
def execVtld (f : W64) (s : State) : Answer := issueVec (.vtld f) s

/-- VRAND (R288). -/
def execVrand (f : W64) (s : State) : Answer := issueVec (.vrand f) s

/-- SEED (R289). -/
def execSeed (f : W64) (s : State) : Answer := issueVec (.seed f) s

/-- VAMAX (R275). -/
def execVamax (f : W64) (s : State) : Answer := issueVec (.vamax f) s

/-! ### BANK -/

/-- BLEASE (R131). -/
def execBlease (f : W64) (s : State) : Answer := issueVec (.blease f) s

/-- BRELS (R132). -/
def execBrels (f : W64) (s : State) : Answer := issueVec (.brels f) s

/-- BSTAT (R133). -/
def execBstat (f : W64) (s : State) : Answer := issueVec (.bstat f) s

/-- CBLD (R134). -/
def execCbld (f : W64) (s : State) : Answer := issueVec (.cbld f) s

/-- TLOAD (R135). -/
def execTload (f : W64) (s : State) : Answer := issueVec (.tload f) s

/-- TSTORE (R135). -/
def execTstore (f : W64) (s : State) : Answer := issueVec (.tstore f) s

/-- TBUILD (R136). -/
def execTbuild (f : W64) (s : State) : Answer := issueVec (.tbuild f) s

/-- TQUERY (R137). -/
def execTquery (f : W64) (s : State) : Answer := issueVec (.tquery f) s

/-- LUACC_KV (R139). -/
def execLuaccKv (f : W64) (s : State) : Answer := issueVec (.luaccKv f) s

/-- LUACC (R138). -/
def execLuacc (f : W64) (s : State) : Answer := issueVec (.luacc f) s

/-- UADD (R140). -/
def execUadd (f : W64) (s : State) : Answer := issueVec (.uadd f) s

/-- USUB (R140). -/
def execUsub (f : W64) (s : State) : Answer := issueVec (.usub f) s

/-- UMAX (R140). -/
def execUmax (f : W64) (s : State) : Answer := issueVec (.umax f) s

/-- UMIN (R140). -/
def execUmin (f : W64) (s : State) : Answer := issueVec (.umin f) s

/-- USHL (R140). -/
def execUshl (f : W64) (s : State) : Answer := issueVec (.ushl f) s

/-- USHR (R140). -/
def execUshr (f : W64) (s : State) : Answer := issueVec (.ushr f) s

/-- UMOV (R140). -/
def execUmov (f : W64) (s : State) : Answer := issueVec (.umov f) s

/-- UCLR (R140). -/
def execUclr (f : W64) (s : State) : Answer := issueVec (.uclr f) s

/-- USAT (R140). -/
def execUsat (f : W64) (s : State) : Answer := issueVec (.usat f) s

/-- UCVT (R140). -/
def execUcvt (f : W64) (s : State) : Answer := issueVec (.ucvt f) s

/-- BRED (R141). -/
def execBred (f : W64) (s : State) : Answer := issueVec (.bred f) s

/-- VTOU (R142). -/
def execVtou (f : W64) (s : State) : Answer := issueVec (.vtou f) s

/-- UTOV (R142). -/
def execUtov (f : W64) (s : State) : Answer := issueVec (.utov f) s

/-! ### ENGINE -/

/-- XCOPY (R178). -/
def execXcopy (f : W64) (s : State) : Answer := issueVec (.xcopy f) s

/-- XCOPYM (R180). -/
def execXcopym (f : W64) (s : State) : Answer := issueVec (.xcopym f) s

/-- XFILL (R179). -/
def execXfill (f : W64) (s : State) : Answer := issueVec (.xfill f) s

/-- XSTRM (R182). -/
def execXstrm (f : W64) (s : State) : Answer := issueVec (.xstrm f) s

/-- XSCLOSE (R185). -/
def execXsclose (f : W64) (s : State) : Answer := issueVec (.xsclose f) s

/-- XSTOR_READ (R187). -/
def execXstorRead (f : W64) (s : State) : Answer := issueVec (.xstorRead f) s

/-- XSTOR_WRITE (R187). -/
def execXstorWrite (f : W64) (s : State) : Answer := issueVec (.xstorWrite f) s

/-- XSTOR_FLUSH (R188). -/
def execXstorFlush (f : W64) (s : State) : Answer := issueVec (.xstorFlush f) s

/-- XCOLL (R189). -/
def execXcoll (f : W64) (s : State) : Answer := issueVec (.xcoll f) s

/-- XCANCEL (R192). -/
def execXcancel (f : W64) (s : State) : Answer := issueVec (.xcancel f) s

/-! ### KV -/

/-- KBIND_BIND (R310). -/
def execKbindBind (f : W64) (s : State) : Answer := issueVec (.kbindBind f) s

/-- KBIND_UNBIND (R310). -/
def execKbindUnbind (f : W64) (s : State) : Answer := issueVec (.kbindUnbind f) s

/-- KBIND_REBIND (R310). -/
def execKbindRebind (f : W64) (s : State) : Answer := issueVec (.kbindRebind f) s

/-- KCHECK (R311). -/
def execKcheck (f : W64) (s : State) : Answer := issueVec (.kcheck f) s

/-- KSPLICE (R317). -/
def execKsplice (f : W64) (s : State) : Answer := issueVec (.ksplice f) s

/-- KPROBE (R324). -/
def execKprobe (f : W64) (s : State) : Answer := issueVec (.kprobe f) s

/-- KREPAIR (R325). -/
def execKrepair (f : W64) (s : State) : Answer := issueVec (.krepair f) s

/-- KCOMMIT (R330). -/
def execKcommit (f : W64) (s : State) : Answer := issueVec (.kcommit f) s

/-- KSTATE_READ (R315). -/
def execKstateRead (f : W64) (s : State) : Answer := issueVec (.kstateRead f) s

/-- KSTATE_LOC (R315). -/
def execKstateLoc (f : W64) (s : State) : Answer := issueVec (.kstateLoc f) s

/-- KSTATE_FILL (R315). -/
def execKstateFill (f : W64) (s : State) : Answer := issueVec (.kstateFill f) s

/-- KSTATE_CLEAN (R315). -/
def execKstateClean (f : W64) (s : State) : Answer := issueVec (.kstateClean f) s

/-- KSTATE_REOPEN (R315). -/
def execKstateReopen (f : W64) (s : State) : Answer := issueVec (.kstateReopen f) s

/-- KRELS (R316). -/
def execKrels (f : W64) (s : State) : Answer := issueVec (.krels f) s

end Sys2Proof.Machine
end

