-- ==== Sys2Proof/Machine/Control.lean ====
section
/-! DEFINITION. Scalar control: fences and ordered atomics (R341, R371-R374), BAR (R375), the waits for events
(R376-R379), SPAWN (R380), CSR accesses (R354-R358), NOP to TRET and the program's traps (R381-R384). -/
namespace Sys2Proof.Machine

/-! ### Waiting (R341) -/

/-- Commands that an engine, the splice unit or a Fid accepts (R169). -/
def isCommand (i : Instr) : Bool :=
  match i with
  | .ksplice _ | .krepair _ => true
  | _ => (engineRow i).isSome

/-- No command waits in the VIQ to be accepted. -/
def commandsPosted (th : Thread) : Bool := th.trap.mode || !th.viq.any fun e => isCommand e.insn

/-- Every command the task has posted has written its slot (R341, kind e). -/
def commandsDone (s : State) : Bool := s.cmds.all fun k => s.th.task != some k.task

/-- Every fill of the thread's queue loads has read its elements (R341, kind s). -/
def fillsDone (th : Thread) : Bool := (queueEntries th).all fun e => e.src.isEmpty

/-- A pending store that accesses of some kinds (Table 11-6) include: the scalar side's, the lane groups', and for kind b
every one to bank-linear memory (R341). -/
def fencedStore (kinds : BitVec 4) (s : State) (x : PendingStore) : Bool :=
  (kinds.getLsbD 0 && scalarStore x) || (kinds.getLsbD 1 && laneStore x) || (kinds.getLsbD 3 && x.places.any (isLinear s))

/-- A continuation once the thread's earlier accesses of some kinds are performed at their homes, and so for every agent
whatever the scope (R336, R341, log 14): a release of those kinds. With kind v its later scalar accesses follow its vector
accesses (R213 item 3); with kind e what its commands have written is performed too. -/
def whenPerformed (kinds : BitVec 4) (k : State → Answer) (s : State) : Answer :=
  let rest := fun s : State =>
    if (kinds.getLsbD 0 && !fillsDone s.th) || (kinds.getLsbD 2 && !commandsDone s) then .next (stallAt s)
    else match forceStores (fencedStore kinds s) s with
      | .ok _ s' =>
        let s' := if kinds.getLsbD 2 then performUnits (ownUnit s') s' else s'
        k (if kinds.getLsbD 1 then joinVector (publish true s') else publish false s')
      | .error _ _ => .next (stallAt s)
  if kinds.getLsbD 1 || kinds.getLsbD 3 then whenDone rest s
  else if kinds.getLsbD 2 then whenViq commandsPosted rest s
  else rest s

/-- The thread's later accesses of some kinds follow all that has been performed by now; with kind e its loads and vector
accesses follow its commands' writes (R341, Table 11-10). -/
def fenceOrder (kinds : BitVec 4) (s : State) : State :=
  if s.past.isEmpty then s else
  prunePast (updOrder s fun o =>
    { o with
      scalar := if kinds.getLsbD 0 || kinds.getLsbD 2 then s.now else o.scalar
      vector := if kinds.getLsbD 1 || kinds.getLsbD 2 then s.now else o.vector
      bank := if kinds.getLsbD 3 then s.now else o.bank
      rows := if kinds.getLsbD 3 then [] else o.rows })

/-- A FENCE of some kinds at a scope as the acquire, for its kinds, of the thread's last relaxed reads (R338, R339). -/
def fenceAcquire (kinds : BitVec 4) (scope : BitVec 3) : Op Unit := do
  let s ← get
  if kinds.getLsbD 0 then acquireNote kinds scope s.th.order.lastScalar
  if kinds.getLsbD 1 then acquireNote kinds scope s.th.order.lastVector

/-- A continuation after a FENCE of some kinds at a scope (R339, R341). -/
def whenFenced (kinds : BitVec 4) (scope : BitVec 3) (k : State → Answer) (s : State) : Answer :=
  whenPerformed kinds (fun s => match fenceAcquire kinds scope s with
    | .ok _ s' => k (fenceOrder kinds s')
    | .error _ _ => .next (stallAt s)) s

/-- The instruction at PC is done: PC moves on and the thread's wait ends. -/
def goOn (s : State) : State := advance (updTh s fun th => { th with wait := none, stall := false, fsw := none }) 4

/-- FENCE (R341, R342, R373). -/
def execFence (k : BitVec 4) (sc : Bool) (scope : BitVec 3) (s : State) : Answer :=
  whenFenced (if sc then 15 else k) scope (fun s => .next (goOn s)) s

/-- VWAIT: the thread's later scalar accesses follow its earlier vector accesses (R213 item 3, R374). -/
def execVwait (s : State) : Answer := whenDone (fun s => .next (goOn (joinVector s))) s

/-- An atomic; with order .ar at .pkg or .sys it waits as a FENCE of all four kinds, before itself and after (R342). -/
def orderedAtomic (sc : BitVec 3) (o : BitVec 2) (m : State → Op Unit) (s : State) : Answer :=
  if o = 3 ∧ 4 ≤ sc.toNat then
    whenFenced 15 sc (fun s => scalarStep (do
      m s
      doing (fenceOrder 15)) s) s
  else scalarStep (m s) s

/-! ### Atomics -/

/-- AMOADD (R371, R372). -/
def execAmoadd (d a b : Reg) (sc : BitVec 3) (o : BitVec 2) (s : State) : Answer :=
  orderedAtomic sc o (fun s => amoStep d (getR s a) sc o fun old => old + getR s b) s

/-- AMOSWAP (R371, R372). -/
def execAmoswap (d a b : Reg) (sc : BitVec 3) (o : BitVec 2) (s : State) : Answer :=
  orderedAtomic sc o (fun s => amoStep d (getR s a) sc o fun _ => getR s b) s

/-- AMOAND (R371, R372). -/
def execAmoand (d a b : Reg) (sc : BitVec 3) (o : BitVec 2) (s : State) : Answer :=
  orderedAtomic sc o (fun s => amoStep d (getR s a) sc o fun old => old &&& getR s b) s

/-- AMOOR (R371, R372). -/
def execAmoor (d a b : Reg) (sc : BitVec 3) (o : BitVec 2) (s : State) : Answer :=
  orderedAtomic sc o (fun s => amoStep d (getR s a) sc o fun old => old ||| getR s b) s

/-- AMOXOR (R371, R372). -/
def execAmoxor (d a b : Reg) (sc : BitVec 3) (o : BitVec 2) (s : State) : Answer :=
  orderedAtomic sc o (fun s => amoStep d (getR s a) sc o fun old => old ^^^ getR s b) s

/-- AMOMAX (R371, R372). -/
def execAmomax (d a b : Reg) (sc : BitVec 3) (o : BitVec 2) (s : State) : Answer :=
  orderedAtomic sc o (fun s => amoStep d (getR s a) sc o fun old => if old.slt (getR s b) then getR s b else old) s

/-- AMOMIN (R371, R372). -/
def execAmomin (d a b : Reg) (sc : BitVec 3) (o : BitVec 2) (s : State) : Answer :=
  orderedAtomic sc o (fun s => amoStep d (getR s a) sc o fun old => if (getR s b).slt old then getR s b else old) s

/-- AMOMAXU (R371, R372). -/
def execAmomaxu (d a b : Reg) (sc : BitVec 3) (o : BitVec 2) (s : State) : Answer :=
  orderedAtomic sc o (fun s => amoStep d (getR s a) sc o fun old => if old.ult (getR s b) then getR s b else old) s

/-- AMOMINU (R371, R372). -/
def execAmominu (d a b : Reg) (sc : BitVec 3) (o : BitVec 2) (s : State) : Answer :=
  orderedAtomic sc o (fun s => amoStep d (getR s a) sc o fun old => if (getR s b).ult old then getR s b else old) s

/-- CAS (R371, R372). -/
def execCas (d a b : Reg) (sc : BitVec 3) (o : BitVec 2) (s : State) : Answer :=
  orderedAtomic sc o (fun s => amoStep d (getR s a) sc o fun old => if old = getR s d then getR s b else old) s

/-! ### BAR (R375) -/

/-- The members of the gang of a task. -/
def gangMembers (s : State) (t : Task) : List Task := gangOf s t.base

/-- A member has arrived at barrier `n`. -/
def arrivedAt (n : Nat) (t : Task) : Bool := decide (n ≤ t.barK.toNat) || (t.arrived && decide (t.barK.toNat + 1 = n))

/-- A member has ended with a count below `n`. -/
def brokeAt (n : Nat) (t : Task) : Bool :=
  match t.status with
  | .ended _ => decide (t.barK.toNat < n)
  | _ => false

/-- BAR's wait: the barrier completes, with an acquire, is broken, or the thread waits. -/
def finishBar (s : State) : State :=
  match curTask s with
  | none => goOn s
  | some t =>
    let n := t.barK.toNat + 1
    if (gangMembers s t).all (arrivedAt n) then
      goOn (acquireNow (updTask s t.id fun t => { t with arrived := false, barK := t.barK + 1 }))
    else if (gangMembers s t).any (brokeAt n) then
      takeTrap s { cause := 0x17, faddr := s.th.pc, finfo := BitVec.ofNat 64 n } false
    else stallAt (updTh s fun th => { th with wait := some .bar })

/-- The arrival is signalled once (R375). -/
def arriveBar (s : State) : State :=
  match s.th.task with
  | some id => updTask s id fun t => { t with arrived := true }
  | none => s

/-- The task of the thread has arrived at its next barrier. -/
def barArrived (s : State) : Bool :=
  match curTask s with
  | some t => t.arrived
  | none => false

/-- BAR (R375). -/
def execBar (s : State) : Answer :=
  if barArrived s then .next (finishBar s) else whenPerformed 3 (fun s => .next (finishBar (arriveBar s))) s

/-- The watchdog's trap is to be taken at the next boundary: a waiting instruction is that boundary, and goes on no more
(R358). -/
def watchdogDue (s : State) : Bool := s.th.csr.wdogDue && !s.th.trap.mode

/-- BAR_COMPLETE: a thread waiting at BAR goes on once its barrier is decided (R375). -/
def execBarComplete (t : Nat) (s : State) : Answer :=
  .next (onThread s t fun s => if s.th.wait = some .bar ∧ !s.stopped ∧ !watchdogDue s then finishBar s else s)

/-! ### Waits for events (R376-R379) -/

/-- WAITC's check: the slot word at an address when DONE is 1, acquired at .sys; it pairs with every slot write whose scope
includes the thread (R173, R346, R377). -/
def checkSlot (d a : Reg) : Op Bool := do
  let s ← get
  let va := getR s a
  let ps ← resolve (curCtx s) va 8 8 .read
  let bs ← readHome ps va 0
  if bitAt (natOfBytes bs) 63 = 1 then
    let w ← logScalar 0x04 s.th.pc (BitVec.ofNat 64 (natOfBytes bs))
    let s ← get
    acquire 5 ps s.now
    doing fun s => goOn (setR s d w)
    pure true
  else pure false

/-- WAITV's check: the word of the event latch, which it empties; an acquire (R378). -/
def checkLatch (d : Reg) : Op Bool := do
  let s ← get
  match s.th.latch with
  | some w =>
    let w ← logScalar 0x04 s.th.pc w
    doing fun s => goOn (setR (updTh (acquireNow s) fun th => { th with latch := none }) d w)
    pure true
  | none => pure false

/-- What WAITQ writes (Table 12-6). -/
def queueWord (es : List QEntry) : Word :=
  let free := es.filter fun e => !e.claimed
  let fault := match free with
    | e :: _ => e.failed
    | [] => false
  BitVec.ofNat 64 (fault.toNat * 2 ^ 48 + (free.filter fun e => e.arrived && !e.failed).length * 2 ^ 32 +
    free.length * 2 ^ 16 + es.length)

/-- WAITQ's check: no unclaimed entry, or the oldest has arrived (R379). -/
def checkQueue (d : Reg) (q : BitVec 3) : Op Bool := do
  let s ← get
  let es := s.th.q[q.toNat]
  let ready := match es.find? fun e => !e.claimed with
    | some e => e.arrived
    | none => true
  if ready then doing fun s => goOn (setR s d (queueWord es))
  pure ready

/-- A wait's check, its timeout register, the number of Table 14-19 and its FADDR. -/
structure WaitOp where
  check : Op Bool
  limit : Reg
  code : Nat
  faddr : Word

/-- The wait of an instruction (R377-R379). -/
def waitOp (i : Instr) (s : State) : Option WaitOp :=
  match i with
  | .waitc d a t => some { check := checkSlot d a, limit := t, code := 1, faddr := getR s a }
  | .waitv d t => some { check := checkLatch d, limit := t, code := 2, faddr := 0 }
  | .waitq d q t => some { check := checkQueue d q, limit := t, code := 3, faddr := 0 }
  | _ => none

/-- The timeout of a wait: cause 0x0E (R376). -/
def timeOut (w : WaitOp) (s : State) : State :=
  takeTrap s { cause := 0x0E, faddr := w.faddr, finfo := BitVec.ofNat 64 w.code } false

/-- The core cycles left of a wait's limit: all of it when the wait begins (R376). -/
def waitLeft (w : WaitOp) (s : State) : Option Nat :=
  match s.th.wait with
  | some (.event left) => left
  | _ => if w.limit = 0 then none else some (getR s w.limit).toNat

/-- A check of a wait, the last one when no time is left (R376). -/
def waitStep (w : WaitOp) (s : State) : State :=
  let left := waitLeft w s
  let s := updTh s fun th => { th with wait := some (.event left) }
  match w.check s with
  | .ok true s' => s'
  | .ok false s' => if left = some 0 then timeOut w s' else stallAt (updTh s' fun th => { th with fsw := none })
  | .error x s' => settle false s (.error x s')

/-- A wait instruction's check at its turn. -/
def waitFor (w : WaitOp) (s : State) : Answer := .next (waitStep w s)

/-- WAITC (R377). -/
def execWaitc (d a t : Reg) (s : State) : Answer :=
  waitFor { check := checkSlot d a, limit := t, code := 1, faddr := getR s a } s

/-- WAITV (R378). -/
def execWaitv (d t : Reg) (s : State) : Answer :=
  waitFor { check := checkLatch d, limit := t, code := 2, faddr := 0 } s

/-- WAITQ (R379). -/
def execWaitq (d : Reg) (q : BitVec 3) (t : Reg) (s : State) : Answer :=
  waitFor { check := checkQueue d q, limit := t, code := 3, faddr := 0 } s

/-- The wait a thread is in, by the instruction at its PC. -/
def currentWait (s : State) : Option (WaitOp × State) :=
  match s.th.wait with
  | some (.event _) =>
    match fetchInstr s with
    | .ok i s' => (waitOp i s').map fun w => (w, s')
    | .error _ _ => none
  | _ => none

/-- WAIT_RETURN: a thread's check finds its condition true (R376). -/
def execWaitReturn (t : Nat) (s : State) : Answer :=
  .next (onThread s t fun s =>
    if s.stopped || watchdogDue s then s
    else match currentWait s with
      | some (w, s1) =>
        match w.check s1 with
        | .ok true s2 => s2
        | _ => s
      | none => s)

/-- WAIT_TIMEOUT: the last check of a limited wait, once its core cycles have passed (R376). -/
def execWaitTimeout (t : Nat) (s : State) : Answer :=
  .next (onThread s t fun s =>
    if s.stopped || watchdogDue s || s.th.wait != some (.event (some 0)) then s
    else match currentWait s with
      | some (w, s1) => waitStep w s1
      | none => s)

/-! ### SPAWN (R380, R404) -/

/-- The queue whose descriptor lies at some places, when they are an entry of the queue table. -/
def queueAt (s : State) (ps : List Nat) : Option Nat :=
  let base := queueAddr s 0
  match ps with
  | p :: _ =>
    if ps == (List.range 64).map (p + ·) && base ≤ p && (p - base) % 64 == 0 && (p - base) / 64 < 2 ^ 18 && isPhys p then
      some ((p - base) / 64)
    else none
  | [] => none

/-- The status in rd, PC moving on. -/
def spawnStatus (d : Reg) (v : Word) : Op Unit := do
  let s ← get
  let v ← logScalar 0x05 s.th.pc v
  doing fun s => goOn (setR s d v)

/-- SPAWN's accesses and its status (Table 12-7). -/
def spawnOp (d q l : Reg) : Op Unit := do
  let s ← get
  let c := curCtx s
  let qa := getR s q
  let la := getR s l
  let rs ← resolve c la 128 64 .read
  let rec ← readHome rs la 0
  let ps ← resolve c qa 64 64 .write
  awaitPlaces ps
  let s ← get
  match queueAt s ps with
  | none => spawnStatus d 2
  | some n =>
    modify (noteDesc · n)
    let s ← get
    match submitTo s n (BitVec.ofNat 1024 (natOfBytes rec)) true with
    | .refused => spawnStatus d 2
    | .full => spawnStatus d 1
    | .noEntry p => fault 0x09 (BitVec.ofNat 64 p) 0
    | .owned => waits
    | .placed _ s' => do
      set s'
      spawnStatus d 0

/-- SPAWN (R380). -/
def execSpawn (d q l : Reg) (s : State) : Answer := whenPerformed 3 (fun s => scalarStep (spawnOp d q l) s) s

/-! ### CSRs (R354-R358, R428-R431) -/

/-- A field's bits kept, the others 0. -/
def maskWord (w : Word) (m : Nat) : Word := w &&& BitVec.ofNat 64 m

/-- LANES (Table 8-4). -/
def lanesCsr (s : State) : Word :=
  let l := s.th.lanes
  let (req, mn) := match curTask s with
    | some t => (recReq t.launch, recMin t.launch)
    | none => (0, 0)
  BitVec.ofNat 64 (l.gmap.toNat * 2 ^ 48 + l.shrink.toNat * 2 ^ 32 + l.share.toNat * 2 ^ 24 + req * 2 ^ 16 + mn * 2 ^ 8 +
    laneCount l.gmap)

/-- CAPS0 (Table 15-3). -/
def caps0 (s : State) : Word := BitVec.ofNat 64 ((List.range 64).foldl (fun x c => x + (corePresent s c).toNat * 2 ^ c) 0)

/-- CAPS1 (Table 15-3). -/
def caps1 (s : State) : Word :=
  let found := (List.range 8).filter fun k => (List.range 16).any (layerPresent s k)
  let bits := fun (n : Nat) (f : Nat → Bool) => (List.range n).foldl (fun x i => x + (f i).toNat * 2 ^ i) 0
  BitVec.ofNat 64 (bits 16 (fun l => found.all fun k => layerPresent s k l) * 2 ^ 48 +
    bits 16 (fun l => found.any fun k => layerPresent s k l) * 2 ^ 32 + laneCount (coreLanes s (coreOf s.th)) * 2 ^ 24 +
    s.fuse.storage.toNat * 2 ^ 20 + bits 4 (fun n => (smGet s.drives n).linked) * 2 ^ 16 + s.fuse.ports.toNat * 2 ^ 12 +
    s.fuse.modules.toNat * 2 ^ 8 + bits 8 fun k => found.contains k)

/-- The word VIQDAT names (R431). -/
def viqWord (th : Thread) : Word :=
  match th.viq[th.trap.selEntry.toNat]? with
  | some e => BitVec.ofNat 64 ((entryWords e).getD th.trap.selWord.toNat 0)
  | none => 0

/-- VSTART: that of the next instruction posted, or RESTART of kept entry 0 in trap mode (R356, R427). -/
def vstartCsr (th : Thread) : Word :=
  if th.trap.mode then (match th.viq with
    | e :: _ => e.restart.setWidth 64
    | [] => 0)
  else th.csr.vstart.setWidth 64

/-- The value a CSR reads as (Table 12-1). -/
def csrRead (s : State) (n : Nat) : Word :=
  let th := s.th
  let c := th.csr
  let r := th.trap
  match n with
  | 0x000 => th.lanes.sew.setWidth 64
  | 0x001 => vstartCsr th
  | 0x002 => c.rmode.setWidth 64
  | 0x003 => c.rad.setWidth 64
  | 0x004 => c.gkey
  | 0x005 => c.gcnt.setWidth 64
  | 0x006 => c.ftr
  | 0x007 => c.bmask.setWidth 64
  | 0x008 => c.devthr.setWidth 64
  | 0x009 => c.wdog.setWidth 64
  | 0x00A => c.sflags
  | 0x100 => th.lanes.vl.setWidth 64
  | 0x101 => BitVec.ofNat 64 (vlmaxOf th.lanes)
  | 0x102 => lanesCsr s
  | 0x103 => 256
  | 0x104 => banksCsr s
  | 0x105 => if r.mode then r.vcp.setWidth 64 else maskWord th.pc (2 ^ 56 - 1)
  | 0x106 => s.cycles.toList.getD (coreOf th) 0
  | 0x107 => (th.task.getD 0).setWidth 64
  | 0x108 => BitVec.ofNat 64 (coreOf th)
  | 0x109 => BitVec.ofNat 64 th.id
  | 0x10A => match curTask s with
    | some t => gangCsr t
    | none => 0
  | 0x10B => caps0 s
  | 0x10C => caps1 s
  | 0x10D => match curTask s with
    | some t => boolWord t.pend
    | none => 0
  | 0x200 => r.tstatus.setWidth 64
  | 0x201 => r.tpc.setWidth 64
  | 0x202 => r.cause.setWidth 64
  | 0x203 => r.faddr
  | 0x204 => r.finfo
  | 0x205 => r.cause2.setWidth 64
  | 0x206 => r.faddr2
  | 0x207 => r.tvec.setWidth 64
  | 0x208 => r.tstack
  | 0x209 => BitVec.ofNat 64 th.viq.length
  | 0x20A => BitVec.ofNat 64 (r.selWord.toNat * 256 + r.selEntry.toNat)
  | 0x20B => viqWord th
  | _ => 0

/-- A kept entry with one of its words written (R431). -/
def setEntryWord (e : VEntry) (k : Nat) (w : Word) : VEntry :=
  match k with
  | 2 => { e with skip := w.getLsbD 31, restart := w.setWidth 20 }
  | 3 => { e with opa := w }
  | 4 => { e with opb := w }
  | 5 => { e with opc := w }
  | 6 => { e with opd := w }
  | 7 => { e with devthr := fieldOf w 48 16, rmode := fieldOf w 32 3, bmask := w.setWidth 32 }
  | 8 => { e with gkey := w }
  | 9 => { e with gcnt := w.setWidth 32 }
  | _ => e

/-- A thread with a CSR written: each RW field takes its bits, the others keep theirs (R355). DESIGN CHOICE (log 43): in trap
mode VTYPE reads as committed at VCP, and a write of it acts at once, so that kept entries are replayed under it (R233). -/
def csrWrite (th : Thread) (n : Nat) (w : Word) : Thread :=
  let c := th.csr
  let r := th.trap
  match n with
  | 0x000 =>
    let sew := bitsOf w.toNat 0 6
    if sew = 0 ∨ sew > 32 then th else { th with lanes := { th.lanes with sew := BitVec.ofNat 6 sew } }
  | 0x001 =>
    if r.mode then (match th.viq with
      | e :: es => { th with viq := { e with restart := w.setWidth 20 } :: es }
      | [] => th)
    else { th with csr := { c with vstart := w.setWidth 20 } }
  | 0x002 => { th with csr := { c with rmode := rmodeValue w.toNat } }
  | 0x003 => { th with csr := { c with rad := radValue w.toNat } }
  | 0x004 => { th with csr := { c with gkey := w } }
  | 0x005 => { th with csr := { c with gcnt := w.setWidth 32 } }
  | 0x006 => { th with csr := { c with ftr := ftrValue w.toNat } }
  | 0x007 => { th with csr := { c with bmask := w.setWidth 32 } }
  | 0x008 => { th with csr := { c with devthr := w.setWidth 16 } }
  | 0x009 => { th with csr := { c with wdog := w.setWidth 32, wdogElapsed := 0 } }
  | 0x00A => { th with csr := { c with sflags := maskWord w 0xF } }
  | 0x200 => { th with trap := { r with tstatus := w.setWidth 11 &&& 0x71E } }
  | 0x201 => { th with trap := { r with tpc := w.setWidth 56 } }
  | 0x202 => { th with trap := { r with cause := w.setWidth 8 } }
  | 0x203 => { th with trap := { r with faddr := w } }
  | 0x204 => { th with trap := { r with finfo := w } }
  | 0x207 => { th with trap := { r with tvec := w.setWidth 56 } }
  | 0x208 => { th with trap := { r with tstack := w } }
  | 0x20A => { th with trap := { r with selWord := fieldOf w 8 4, selEntry := fieldOf w 0 6 } }
  | 0x20B =>
    let k := r.selEntry.toNat
    match th.viq[k]? with
    | some e => { th with viq := th.viq.set k (setEntryWord e r.selWord.toNat w) }
    | none => th
  | _ => th

/-- The CSRs whose accesses wait for the vector side (Table 12-1). -/
def csrWaits (n : Nat) : Bool := n == 0x000 || n == 0x001 || n == 0x006 || n == 0x00A || n == 0x105

/-- A CSR of trap mode alone. -/
def csrTrapOnly (n : Nat) : Bool := decide (0x200 ≤ n)

/-- The read and the write of a CSR instruction (R355); a new GKEY is logged (Table 15-9). -/
def csrOp (d : Reg) (n : Nat) (f : Option (Word → Word)) : Op Unit := do
  let s ← get
  let old := csrRead s n
  match f with
  | none => pure ()
  | some f =>
    let new ← if n = 0x004 then logScalar 0x06 s.th.pc (f old) else pure (f old)
    doing fun s => updTh s fun th => csrWrite th n new
  doing fun s => goOn (setR s d old)

/-- A CSR instruction: the checks, the wait, the access (R354, R355). -/
def csrStep (i : Instr) (d : Reg) (n : BitVec 12) (f : Option (Word → Word)) (s : State) : Answer :=
  let legal := csrWritable n == some true || (f.isNone && (csrWritable n).isSome)
  if !legal then
    scalarStep (illegal s.th.pc ((encodeScalar i).getD 0).toNat 0) s
  else if csrTrapOnly n.toNat && !s.th.trap.mode then scalarStep (fault 0x04 s.th.pc (2 ^ 12 + n.toNat)) s
  else if csrWaits n.toNat then whenDone (scalarStep (csrOp d n.toNat f)) s
  else scalarStep (csrOp d n.toNat f) s

/-- CSRR (R355). -/
def execCsrr (d : Reg) (c : BitVec 12) (s : State) : Answer := csrStep (.csrr d c) d c none s

/-- CSRW (R355). -/
def execCsrw (d a : Reg) (c : BitVec 12) (s : State) : Answer :=
  csrStep (.csrw d a c) d c (some fun _ => getR s a) s

/-- CSRS (R355). -/
def execCsrs (d a : Reg) (c : BitVec 12) (s : State) : Answer :=
  csrStep (.csrs d a c) d c (some fun old => old ||| getR s a) s

/-- CSRC (R355). -/
def execCsrc (d a : Reg) (c : BitVec 12) (s : State) : Answer :=
  csrStep (.csrc d a c) d c (some fun old => old &&& ~~~ (getR s a)) s

/-! ### NOP, YIELD, HALT, traps and TRET (R381-R384) -/

/-- NOP (R381). -/
def execNop (s : State) : Answer := .next (advance s 4)

/-- PREQ.PEND of the thread's task. -/
def pendingRequest (s : State) : Bool :=
  match curTask s with
  | some t => t.pend
  | none => false

/-- YIELD: the thread's next issue turn goes to the next ready thread of its core; a pending request outside trap mode
begins a forced pre-emption after it (R381). -/
def execYield (s : State) : Answer :=
  if pendingRequest s && !s.th.trap.mode then
    match forcePreempt (advance s 4) with
    | some s' => .next s'
    | none => .next (stallAt s)
  else .next (updTh (advance s 4) fun th => { th with yielded := true })

/-- The task of the thread ends at HALT with OK (R382, R394). -/
def haltTask (s : State) : State :=
  match s.th.task with
  | some id => endTask (closeStreams s id) id 0x00
  | none => s

/-- HALT in trap mode: the task is retired as ABORTED (R382, R397). -/
def abortTask (s : State) : State :=
  match s.th.task with
  | some id => retireTask (closeStreams s id) id 0x20
  | none => s

/-- HALT (R382). -/
def execHalt (s : State) : Answer :=
  if s.th.trap.mode then .next (abortTask s) else whenPerformed 11 (fun s => .next (haltTask s)) s

/-- A trap of the program's own: its address and code (R383). -/
def programTrap (cause : BitVec 8) (i : BitVec 12) (s : State) : Answer :=
  .next (takeTrap s { cause := cause, faddr := s.th.pc, finfo := i.setWidth 64 } false)

/-- TRAP (R383). -/
def execTrap (i : BitVec 12) (s : State) : Answer := programTrap 0x12 i s

/-- BRK (R383). -/
def execBrk (i : BitVec 12) (s : State) : Answer := programTrap 0x11 i s

/-- TRET (R384, R432). -/
def execTret (s : State) : Answer :=
  if !s.th.trap.mode then scalarStep (fault 0x04 s.th.pc (2 ^ 13)) s
  else
    let tpc := s.th.trap.tpc
    if tpc.setWidth 2 = 0 then
      let s := updTh s tretThread
      .next (if s.vlag then s else drain s)
    else scalarStep (fault 0x03 (tpc.setWidth 64) 0) s

/-- WATCHDOG_EXPIRY: the trap of a count that has reached 0, at the instruction boundary (R358). -/
def execWatchdogExpiry (t : Nat) (s : State) : Answer :=
  .next (onThread s t fun s =>
    if s.th.csr.wdogDue && !s.th.trap.mode && !s.stopped && !holdsStop s.th then
      takeTrap (updTh s fun th => { th with csr := { th.csr with wdogDue := false } })
        { cause := 0x0E, faddr := 0, finfo := 0x10 } false
    else s)

/-! ### Events of the vector side (R201, R223, R235, R169, R311) -/

/-- The vector side of a thread moves on when its head is as required. -/
def moveHead (p : VEntry → Bool) (s : State) : State :=
  match s.th.viq with
  | e :: _ => if p e then drainTurn s else s
  | [] => s

/-- SETVL_GRANT: a sleeper of the lane allocation table tries again (R235). -/
def execSetvlGrant (t : Nat) (s : State) : Answer :=
  .next (onThread s t fun s => if s.th.wait = some .setvl ∧ !watchdogDue s then moveHead (fun e => match e.insn with
    | .setvl _ => true
    | _ => false) s else s)

/-- VCAPP_ROOM: the append at a thread's head finds room (R223). -/
def execVcappRoom (t : Nat) (s : State) : Answer :=
  .next (onThread s t (moveHead fun e => match e.insn with
    | .vcapp _ => true
    | _ => false))

/-- ENGINE_ACCEPT: the command at a thread's head is accepted (R169). -/
def execEngineAccept (t : Nat) (s : State) : Answer := .next (onThread s t (moveHead fun e => isCommand e.insn))

/-- KV_WAIT_RELEASE: the KV check at a thread's head goes on (R309, R311). -/
def execKvWaitRelease (t : Nat) (s : State) : Answer :=
  .next (onThread s t (moveHead fun e => match e.insn with
    | .luaccKv _ => true
    | i => (kvRow i).isSome && !isCommand i))

/-- QUEUE_FILL_ARRIVAL: the oldest outstanding fill of a queue arrives (R201). -/
def execQueueFillArrival (t : Nat) (q : BitVec 3) (s : State) : Answer :=
  .next (onThread s t fun s =>
    if s.stopped then s
    else
      let (es, s') := arriveOldest s.th.q[q.toNat] s
      updTh s' fun th => { th with q := th.q.set q.toNat es })

end Sys2Proof.Machine
end

