-- ==== Sys2Proof/Machine/Sched.lean ====
section
/-! DEFINITION. The dispatchers: the check of a record (R387), placement and resumption (R398-R401, R406-R408),
pre-emption requests (R403, R405), the end of a task (R394-R396), and TABORT (R397). -/
namespace Sys2Proof.Machine

/-! ### Records (R386, R387) -/

/-- The fields of a launch record that Table 13-1 marks 0: offset, low bit, width. -/
def zeroFields : List (Nat × Nat × Nat) :=
  [(0x18, 32, 16), (0x20, 0, 16), (0x28, 25, 3), (0x28, 13, 3), (0x28, 5, 3), (0x30, 32, 32), (0x30, 9, 15),
   (0x48, 48, 16), (0x48, 27, 1), (0x48, 18, 6), (0x58, 32, 32), (0x78, 0, 64)]

/-- Member `r`'s first pseudo-channel. -/
def memberP0 (r : BitVec 1024) (k : Nat) : Nat := recP0 r + k * recNpc r

/-- Every pseudo-channel of member `k`'s lease is present, and in one module (R105). -/
def leaseOk (s : State) (r : BitVec 1024) (k : Nat) : Bool :=
  let p := memberP0 r k
  (List.range (recNpc r)).all fun i => pcPresent s (p + i) && (p + i) / 128 == p / 128

/-- The modules member `k` may be placed in, in the order they are tried; `home` is the queue's (R398). -/
def allowedModules (r : BitVec 1024) (home k : Nat) : List Nat :=
  if 0 < recNpc r then [memberP0 r k / 128]
  else home :: (List.range 4).filter fun m => m != home && (recModmask r).testBit m

/-- The cores of a module. -/
def coresOf (m : Nat) : List Nat := (List.range 16).map (16 * m + ·)

/-- A size's allotment does not exceed its level (R387). -/
def allotOk (size total limit : Nat) : Bool := size == 0 || decide (total ≤ limit)

/-- What a record is retired with, when it may not run (R387). -/
def recordVerdict (s : State) (r : BitVec 1024) (home : Nat) : Option (BitVec 7) :=
  let g := recGsize r
  let cores := ((List.range g).flatMap (allowedModules r home)).eraseDups.flatMap coresOf
  let lanes := cores.map fun c => laneCount (coreLanes s c)
  if recVer r = 1 && zeroFields.all (fun f => recBits r f.1 f.2.1 f.2.2 == 0) && recReq r ≤ 16 && recMin r ≤ recReq r &&
      1 ≤ g && g ≤ 256 && (g == 1 || recGid r != 0) && recNpc r ≤ 128 && recScope r < 6 &&
      (recEntry r).toNat % 4 == 0 && (recTvec r).toNat % 4 == 0 && (recSlot r).toNat % 8 == 0 &&
      allotOk (recCssize r) (recCsbase r + g * recCssize r) 32 && allotOk (recCmsize r) (recCmbase r + recCmsize r) 64 &&
      allotOk (recDssize r) (recDsbase r + recDssize r) 512 && (astEntry s (recAspace r)).isSome &&
      (recMin r == 0 || lanes.any (recMin r ≤ ·)) && (recReq r == 0 || lanes.any (1 ≤ ·)) then
    if recNpc r = 0 || (List.range g).all (leaseOk s r) then none else some 0x22
  else some 0x23

/-! ### Placement (R398, R399) -/

/-- Two ranges of 64 KiB units meet. -/
def rangesMeet (a n b m : Nat) : Bool := decide (0 < n) && decide (0 < m) && decide (a < b + m) && decide (b < a + n)

/-- Where members stand while a gang is being placed: the tasks with their cores, and the threads in use. -/
structure Board where
  tasks : List Task
  busy : List Nat
  deriving DecidableEq, Repr

/-- The board of the package. -/
def boardOf (s : State) : Board := { tasks := s.tasks, busy := (threads s).map Thread.id }

/-- A task that is on a core's thread. -/
def onCore (core : Nat) (t : Task) : Bool :=
  t.core == core && (match t.status with
    | .running => true
    | _ => false)

/-- Member `k` of a record, of the gang `base`, has its allotments free on a core (R398 condition 3). -/
def allotFree (b : Board) (r : BitVec 1024) (base : BitVec 32) (k core : Nat) : Bool :=
  b.tasks.all fun t =>
    !(t.core == core && (t.base != base || t.rank != k) &&
      rangesMeet (recCsbase t.launch + t.rank * recCssize t.launch) (recCssize t.launch)
        (recCsbase r + k * recCssize r) (recCssize r)) &&
    !(clusterOf t.core == clusterOf core && t.base != base &&
      rangesMeet (recCmbase t.launch) (recCmsize t.launch) (recCmbase r) (recCmsize r)) &&
    !(moduleOf t.core == moduleOf core && t.base != base &&
      rangesMeet (recDsbase t.launch) (recDssize t.launch) (recDsbase r) (recDssize r))

/-- Lane groups' minimums fit on a core with this member (R398 condition 2). -/
def lanesFit (s : State) (b : Board) (r : BitVec 1024) (core : Nat) : Bool :=
  let sum := (b.tasks.filter (onCore core)).foldl (fun n t => n + recMin t.launch) (recMin r)
  let have' := laneCount (coreLanes s core)
  decide (sum ≤ have') && (recReq r == 0 || decide (1 ≤ have'))

/-- The lowest free thread of a core. -/
def freeThreadOn (b : Board) (core : Nat) : Option Nat :=
  ((List.range 4).map (4 * core + ·)).find? fun n => !b.busy.contains n

/-- No pseudo-channel of member `k`'s lease is held (R398 condition 4). -/
def leaseFree (b : Board) (r : BitVec 1024) (k : Nat) : Bool :=
  b.tasks.all fun t => !(t.lease.active && rangesMeet t.lease.p0 t.lease.npc (memberP0 r k) (recNpc r))

/-- A command owns a line of a range of storage. -/
def rangeOwned (s : State) (x : Nat × Nat) : Bool :=
  s.cmds.any fun c => c.owned.any fun r => decide (r.1 / 128 ≤ (x.1 + x.2 - 1) / 128) && decide (x.1 / 128 ≤ (r.1 + r.2 - 1) / 128)

/-- A member as placed by the dispatcher of a module. -/
def memberTask (s : State) (home : Nat) (r : BitVec 1024) (base : BitVec 32) (q pos k core : Nat) : Task :=
  { id := base + BitVec.ofNat 32 k, launch := r, rank := k, base := base, queue := q, qpos := pos, home := home
    core := core
    lease := if recNpc r = 0 then {} else { active := true, p0 := memberP0 r k, npc := recNpc r }
    order := s.nextOrder + k, head := (s.queues.find? fun x => x.q == q).elim 0 Queue.stamp }

/-- Member `k` placed on the lowest core that satisfies the conditions, and its lowest free thread. -/
def placeMember (s : State) (home : Nat) (r : BitVec 1024) (base : BitVec 32) (q pos k : Nat) (b : Board) :
    Option (Board × Task × Nat) :=
  let cores := (allowedModules r home k).flatMap coresOf
  if !leaseFree b r k then none
  else cores.findSome? fun core =>
    let t := memberTask s home r base q pos k core
    match freeThreadOn b core with
    | none => none
    | some n =>
      if corePresent s core && lanesFit s b r core && allotFree b r base k core then
        some ({ tasks := b.tasks ++ [t], busy := n :: b.busy }, t, n)
      else none

/-- Members from rank `k` on placed in rank order. -/
def placeMembers (s : State) (home : Nat) (r : BitVec 1024) (base : BitVec 32) (q pos : Nat) :
    Nat → Nat → Board → Option (List (Task × Nat))
  | 0, _, _ => some []
  | n + 1, k, b =>
    match placeMember s home r base q pos k b with
    | none => none
    | some (b, t, th) => (placeMembers s home r base q pos n (k + 1) b).map fun rest => (t, th) :: rest

/-- The first identifier of `g` consecutive ones that no task has; 0 is no task's. -/
def freshId (s : State) (g : Nat) : BitVec 32 :=
  let used := fun x : BitVec 32 => x == 0 || s.tasks.any fun t => t.id == x
  let ids := (List.range (s.tasks.length + 2)).map fun i => s.nextTask + BitVec.ofNat 32 (256 * i)
  (ids.find? fun b => (List.range g).all fun k => !used (b + BitVec.ofNat 32 k)).getD s.nextTask

/-- A record placed as a whole on a board, or not (R398). -/
def placeOn (s : State) (b : Board) (home q pos : Nat) (r : BitVec 1024) : Option (List (Task × Nat)) :=
  placeMembers s home r (freshId s (recGsize r)) q pos (recGsize r) 0 b

/-- A record placed where the package stands. -/
def placeRecord (s : State) (home q pos : Nat) (r : BitVec 1024) : Option (List (Task × Nat)) :=
  placeOn s (boardOf s) home q pos r

/-! ### Dispatch (R388, R393, R398) -/

/-- The banks of a granted lease hold 0 (R109). -/
def zeroBanks (s : State) (l : Lease) : State :=
  if l.active then
    { s with banks := s.banks.filter fun x => !(decide (16 * l.p0 ≤ x.1) && decide (x.1 < 16 * (l.p0 + l.npc))) }
  else s

/-- Storage that tasks are yet to have zeroed, as far as no command owns a line of it (R175, R398). -/
def zeroStorage (s : State) : State :=
  let rs := (s.tasks.flatMap Task.zeroing).filter fun z => !rangeOwned s z
  if rs.isEmpty then s
  else
    let s := rs.foldl (fun s z => zeroRange s z.1 z.2) s
    { s with tasks := s.tasks.map fun t => { t with zeroing := t.zeroing.filter fun z => !rs.contains z } }

/-- One member of a placed record enters, with its storage to be zeroed before any member runs. -/
def dispatchMember (s : State) (x : Task × Nat) : State :=
  let t := { x.1 with zeroing := zeroedRanges x.1 x.1.core }
  enterTask (zeroBanks { s with tasks := s.tasks ++ [t] } t.lease) t x.2

/-- HEAD of a queue moves on (R393); the next record, if there is one, becomes head, which calls for a round
(R400). -/
def advanceHead (s : State) (q : Nat) (d : QueueDesc) : State :=
  let s := physWrite s (queueAddr s q + 0x18) (bytesOfNat 8 (d.head + 1))
  let now := roundsOf s d.md
  let next := fun x : Queue => { x with since := now, stamp := s.heads, checked := none }
  let s := { s with queues := s.queues.map fun x => if x.q == q then next x else x, heads := s.heads + 1 }
  if s.queues.any fun x => x.q == q && decide (0 < pendingRecords x.tail.toNat (d.head + 1)) then ringRound s d.md else s

/-- A record dispatched at its placement. -/
def dispatchRecord (s : State) (q : Nat) (d : QueueDesc) (ms : List (Task × Nat)) : State :=
  let s := zeroStorage (ms.foldl dispatchMember s)
  let next := match ms with
    | (t, _) :: _ => t.base + BitVec.ofNat 32 ms.length
    | [] => s.nextTask
  advanceHead { s with nextTask := next, nextOrder := s.nextOrder + ms.length } q d

/-! ### Resumption (R406-R408) -/

/-- Lane groups a pre-empted task needs back. -/
def neededGrant (t : Task) : Nat :=
  match t.status with
  | .saved true g => g
  | _ => 0

/-- A pre-empted task. -/
def isSaved (t : Task) : Bool :=
  match t.status with
  | .saved _ _ => true
  | _ => false

/-- A task on a hardware thread. -/
def isRunning (t : Task) : Bool :=
  match t.status with
  | .running => true
  | _ => false

/-- A pre-empted member resumed on a core that satisfies R406, while others of its gang take what they take;
`taken` counts the lane groups given on each core. -/
def resumeMember (s : State) (t : Task) (b : Board) (taken : List (Nat × Nat)) :
    Option (Board × List (Nat × Nat) × Nat) :=
  let r := t.launch
  let near := fun core =>
    (recCssize r == 0 || core == t.core) && (recCmsize r == 0 || clusterOf core == clusterOf t.core) &&
    (recDssize r == 0 || moduleOf core == moduleOf t.core)
  let cores := (allowedModules r t.home t.rank).flatMap coresOf
  cores.findSome? fun core =>
    match freeThreadOn b core with
    | none => none
    | some n =>
      let g := neededGrant t
      let lanes := laneCount (coreLanes s core)
      if corePresent s core && near core && (recReq r == 0 || decide (1 ≤ lanes)) &&
          decide (smGet taken core + g ≤ laneCount (freeLanes s core)) then
        some ({ b with busy := n :: b.busy }, smSet taken core (smGet taken core + g), n)
      else none

/-- The pre-empted members of a gang, each with the thread it is resumed on. -/
def resumeMembers (s : State) : List Task → Board → List (Nat × Nat) → Option (List (Task × Nat))
  | [], _, _ => some []
  | t :: ts, b, taken =>
    match resumeMember s t b taken with
    | none => none
    | some (b, taken, n) => (resumeMembers s ts b taken).map fun rest => (t, n) :: rest

/-- The pre-empted members of a gang in rank order. -/
def savedMembers (s : State) (base : BitVec 32) : List Task :=
  ((gangOf s base).filter isSaved).mergeSort fun a b => a.rank ≤ b.rank

/-- Members resumed one by one; none when one has to wait. -/
def resumeAll (s : State) : List (Task × Nat) → Option State
  | [] => some s
  | (t, n) :: rest =>
    match restoreTask s t (neededGrant t) n with
    | none => none
    | some s => resumeAll s rest

/-! ### Rounds (R400, R401) -/

/-- What a candidate is. -/
inductive CandKind where
  | record (d : QueueDesc) (ms : List (Task × Nat))
  | resume (ms : List (Task × Nat))
  deriving DecidableEq, Repr

/-- A candidate of a round. -/
structure Cand where
  q : Nat
  /-- effective class -/
  cls : Nat
  weight : Nat
  /-- when its record became head -/
  head : Nat
  urgent : Bool := false
  leased : Bool := false
  /-- resumptions stand ahead of their queue's head, in dispatch order -/
  place : Nat
  kind : CandKind
  deriving DecidableEq, Repr

/-- Class and weight of a queue as its descriptor gives them, enabled or not. -/
def queueClass (s : State) (q : Nat) : Nat × Nat :=
  match physRead s (queueAddr s q) 64 with
  | some bs => (bitsOf (dwordOf bs 1) 8 3, bitsOf (dwordOf bs 1) 12 4 + 1)
  | none => (0, 1)

/-- The effective class (R400). -/
def effClass (s : State) (cls waited : Nat) : Nat :=
  let age := bitsOf (ctlGet s regAge).toNat 0 16
  if age = 0 then cls else min 7 (cls + waited / age)

/-- The head record of a queue as read: none when it has none, an empty answer when it cannot be read. -/
def headRecord (s : State) (x : Queue) (d : QueueDesc) : Option (Option (BitVec 1024)) :=
  if pendingRecords x.tail.toNat d.head = 0 then none
  else some ((physRead s (recordAddr d d.head) 128).map fun bs => BitVec.ofNat 1024 (natOfBytes bs))

/-- A queue of a module with its descriptor. -/
def servedQueues (s : State) (m : Nat) : List (Queue × QueueDesc) :=
  s.queues.filterMap fun x => match queueDesc s x.q with
    | some d => if d.md = m then some (x, d) else none
    | none => none

/-- A record that has become head is read and checked; one that may not run is retired (R387). -/
def checkHead (m : Nat) (s : State) (q : Nat) : State :=
  match s.queues.find? fun x => x.q == q, queueDesc s q with
  | some x, some d =>
    if d.md ≠ m || x.checked.isSome then s
    else match headRecord s x d with
      | none => s
      | some none => fidTaskEnded (gerrCount (advanceHead (notePhys s (recordAddr d d.head) 128) q d)) q d.head
      | some (some r) =>
        let s := notePhys (notePhys s (recordAddr d d.head) 128) (astAddr s (recAspace r)) 8
        match recordVerdict s r m with
        | some st => retireRecord (advanceHead s q d) r st (firstCore s m) q d.head
        | none => { s with queues := s.queues.map fun y => if y.q == q then { y with checked := some r } else y }
  | _, _ => s

/-- The head records of a module that may run, with whether each can be placed now. -/
def headCands (s : State) (m : Nat) : List (Cand × BitVec 1024 × Bool) :=
  (servedQueues s m).filterMap fun (x, d) =>
    match x.checked with
    | some r =>
      let p := placeRecord s m x.q d.head r
      some ({ q := x.q, cls := effClass s d.cls (roundsOf s m - x.since), weight := d.weight, head := x.stamp
              leased := decide (0 < recNpc r), place := 2 ^ 64, kind := .record d (p.getD []) }, r, p.isSome)
    | none => none

/-- The pre-empted gangs of a module's queues that can be resumed, and those of any module that a failed save has made
urgent (R400, R408). A gang is pre-empted when the last of its members has stopped. -/
def resumeCands (s : State) (m : Nat) : List Cand :=
  let bases := ((s.tasks.filter isSaved).map Task.base).eraseDups
  bases.filterMap fun b =>
    let ts := savedMembers s b
    match ts with
    | [] => none
    | t :: _ =>
      let urgent := ts.any Task.urgent
      let since := ts.foldl (fun n u => max n u.since) 0
      if !urgent && (t.home ≠ m || (gangOf s b).any isRunning) then none
      else match resumeMembers s ts (boardOf s) [] with
        | none => none
        | some ms =>
          let (cls, w) := queueClass s t.queue
          some { q := t.queue, cls := effClass s cls (roundsOf s t.home - since), weight := w, head := t.head
                 urgent := urgent, place := t.order, kind := .resume ms }

/-- The first of some candidates by a key. -/
def leastBy (f : Cand → Nat) : List Cand → Option Cand
  | [] => none
  | c :: cs => match leastBy f cs with
    | none => some c
    | some d => if f c ≤ f d then some c else some d

/-- The weighted round robin's pick among candidates of one class, with the dispatcher's turn (R400 step 4). -/
def wrrPick (p : Dispatcher) (cs : List Cand) : Option (Cand × Dispatcher) :=
  let cur := cs.filter fun c => c.q == p.turn
  let ahead := cs.filter fun c => p.turn < c.q
  let q := match cur with
    | c :: _ => if p.used < c.weight then some p.turn else none
    | [] => none
  match q with
  | some q => (leastBy Cand.place cur).map fun c => (c, { p with turn := q, used := p.used + 1 })
  | none =>
    match leastBy Cand.q (if ahead.isEmpty then cs else ahead) with
    | none => none
    | some n => (leastBy Cand.place (cs.filter fun c => c.q == n.q)).map fun c => (c, { p with turn := n.q, used := 1 })

/-- The candidate a round takes: resumptions ahead of all (R408), then the highest class, within it an earlier
head with a lease request before the round robin's pick (R401). -/
def choose (p : Dispatcher) (cs : List Cand) : Option (Cand × Dispatcher) :=
  match leastBy Cand.place (cs.filter Cand.urgent) with
  | some c => some (c, p)
  | none =>
    let top := cs.foldl (fun n c => max n c.cls) 0
    let cs := cs.filter fun c => c.cls == top
    match wrrPick p cs with
    | none => none
    | some (pick, p') =>
      match leastBy Cand.head (cs.filter fun c => c.leased && decide (c.head < pick.head)) with
      | some c => some (c, p)
      | none => some (pick, p')

/-- The dispatcher's state of a module changed. -/
def setDisp (s : State) (m : Nat) (p : Dispatcher) : State := { s with disp := smSet s.disp m p }

/-! ### Pre-emption requests (R405) -/

/-- A frozen thread runs the task. -/
def isFrozen (s : State) (t : Task) : Bool :=
  match threadOf s t.id with
  | some th => th.trap.frozen
  | none => false

/-- A running task that may be asked (R405). -/
def preemptible (s : State) (t : Task) : Bool := isRunning t && recSave t.launch != 0 && !t.noPreempt && !isFrozen s t

/-- PREQ.PEND of every running member of a gang (R405, R408). -/
def askGang (s : State) (base : BitVec 32) : State :=
  { s with tasks := s.tasks.map fun t => if t.base == base && isRunning t then { t with pend := true } else t }

/-- The board with every lease free (R405: leases are not pre-empted for). -/
def openBoard (s : State) : Board :=
  let b := boardOf s
  { b with tasks := b.tasks.map fun t => { t with lease := {} } }

/-- What a candidate lacks on a core. -/
inductive Lack where
  | thread | lanes | allot
  deriving DecidableEq, Repr

/-- What member `k` of a record lacks on a core of a board. -/
def lacksOn (s : State) (b : Board) (r : BitVec 1024) (k core : Nat) : List Lack :=
  (if (freeThreadOn b core).isNone then [.thread] else []) ++ (if lanesFit s b r core then [] else [.lanes]) ++
  (if allotFree b r 0 k core then [] else [.allot])

/-- The members of a record, from rank `k` on, that find no core, each with the board of those before it that do. -/
def stuckMembers (s : State) (m : Nat) (r : BitVec 1024) : Nat → Nat → Board → List (Nat × Board)
  | 0, _, _ => []
  | n + 1, k, b => match placeMember s m r 0 0 0 k b with
    | none => (k, b) :: stuckMembers s m r n (k + 1) b
    | some (b, _, _) => stuckMembers s m r n (k + 1) b

/-- A task on a core holds some of a thing that is lacked there. -/
def holdsOn (b : Board) (r : BitVec 1024) (k core : Nat) (t : Task) (x : Lack) : Bool :=
  match x with
  | .thread => t.core == core
  | .lanes => t.core == core && decide (0 < recMin t.launch)
  | .allot => !allotFree { b with tasks := [t] } r 0 k core

/-- Whether a running task holds some of what a record lacks: of what a member that finds no core lacks on one of the cores
it may be placed on (R405). -/
def holdsLack (s : State) (r : BitVec 1024) (m : Nat) (t : Task) : Bool :=
  (stuckMembers s m r (recGsize r) 0 (openBoard s)).any fun (k, b) =>
    (((allowedModules r m k).flatMap coresOf).filter (corePresent s)).any fun c => (lacksOn s b r k c).any (holdsOn b r k c t)

/-- The victim of a class-driven request: the lowest class, then the most recently dispatched. -/
def victim (s : State) (m : Nat) (r : BitVec 1024) (cls : Nat) : Option Task :=
  let ts := s.tasks.filter fun t =>
    moduleOf t.core == m && preemptible s t && decide ((queueClass s t.queue).1 < cls) && holdsLack s r m t
  ts.foldl (fun v t => match v with
    | none => some t
    | some u =>
      let (a, b) := ((queueClass s t.queue).1, (queueClass s u.queue).1)
      if a < b || (a == b && decide (u.order < t.order)) then some t else some u) none

/-- A record lacks more than its lease: with every lease free it could not be placed either (R405). -/
def lacksRoom (s : State) (m : Nat) (r : BitVec 1024) : Bool := (placeOn s (openBoard s) m 0 0 r).isNone

/-- The records that ask: heads that cannot be placed for want of room, the highest effective class first. -/
def askers (s : State) (m : Nat) : List (Cand × BitVec 1024) :=
  (((headCands s m).filter fun x => !x.2.2 && lacksRoom s m x.2.1).map fun x => (x.1, x.2.1)).mergeSort
    fun a b => b.1.cls ≤ a.1.cls

/-- The class-driven request of a round; one at a time for a module (R405). -/
def classRequest (s : State) (m : Nat) : State :=
  let p := smGet s.disp m
  let open' := match p.asked with
    | some b => (gangOf s b).any fun t => isRunning t && t.pend
    | none => false
  if open' then s
  else match (askers s m).findSome? fun x => victim s m x.2 x.1.cls with
    | none => setDisp s m { p with asked := none }
    | some t => askGang (setDisp s m { p with asked := some t.base }) t.base

/-- The queues whose descriptors a module's round reads: those that were rung, and those of the tasks it has placed. -/
def roundQueues (s : State) (m : Nat) : List Nat :=
  ((s.queues.map Queue.q) ++ ((s.tasks.filter fun t => t.home == m).map Task.queue)).eraseDups.filter fun q =>
    (queueDesc s q).all fun d => d.md == m

/-- A round of a module's dispatcher. -/
def round (m : Nat) (s : State) : State :=
  let p := smGet s.disp m
  let s := setDisp s m { p with rounds := p.rounds + 1 }
  let s := (roundQueues s m).foldl noteDesc s
  let s := ((servedQueues s m).map fun x => x.1.q).foldl (checkHead m) s
  let heads := headCands s m
  let cs := resumeCands s m ++ (heads.filter fun x => x.2.2).map Prod.fst
  let s := match choose (smGet s.disp m) cs with
    | none => s
    | some (c, p) => match c.kind with
      | .record d ms => setDisp (dispatchRecord s c.q d ms) m p
      | .resume ms => match resumeAll s ms with
        | some s => setDisp s m p
        | none => s
  classRequest s m

/-- DISPATCH_ROUND (R400). -/
def execDispatchRound (m : BitVec 2) (s : State) : Answer :=
  .next (if s.stopped || !memReady s || !modulePresent s m.toNat then s else round m.toNat (zeroStorage s))

/-- QDOOR: the dispatcher reads a queue's TAIL (R392). -/
def execQdoor (q : BitVec 18) (s : State) : Answer :=
  .next (match queueDesc s q.toNat with
    | some d => if d.dev then noteDesc s q.toNat else ringQueue s q.toNat
    | none => noteDesc s q.toNat)

/-! ### The end of a task (R394-R396) -/

/-- The context a task end's accesses are made in. -/
def endCtx (e : Ending) : Ctx := { core := e.core, task := e.id, base := e.id, launch := e.launch, rank := 0 }

/-- An ending changed. -/
def updEnding (s : State) (k : Nat) (f : Ending → Ending) : State :=
  { s with endings := s.endings.map fun e => if e.key == k then f e else e }

/-- A node's RECORD submitted to its queue: a full queue waits; a record that may not run is retired. What the queue's
descriptor and the address-space entry hold is read, and counted, by the attempt that does either (R100, R101). -/
def submitNode (s : State) (e : Ending) (r : BitVec 1024) : State :=
  let q := recQueue r
  let done := fun s => updEnding s e.key fun e => { e with submit := none }
  let bad := fun (s : State) (st : BitVec 7) => done (retireRecord s r st e.core q noPosition)
  let t := noteDesc s q
  match queueDesc t q with
  | none => bad t 0x23
  | some d =>
    let t := notePhys t (astAddr t (recAspace r)) 8
    match recordVerdict t r d.md with
    | some st => bad t st
    | none => match submitTo t q r false with
      | .full | .owned => s
      | .placed _ s => done s
      | .refused | .noEntry _ => bad t 0x23

/-- The places of a range that is reached and holds no uncorrectable word, with the read counted. -/
def cleanPlaces (s : State) (rs : List Reached) : Option (List Nat) × State :=
  match allPlaces rs with
  | some ps => (if (firstUncorr s ps).isSome then none else some ps, quietTouch ps s)
  | none => (none, s)

/-- A list entry or node that is skipped (R396). -/
def skipNode (s : State) (e : Ending) : State := updEnding (gerrCount s) e.key fun e => { e with next := e.next + 1 }

/-- One node counted down (R396). -/
def countNode (s : State) (e : Ending) (ps : List Nat) : State :=
  let bs := ps.map (memByte s)
  let w := dwordOf bs 0
  let s := updEnding s e.key fun e => { e with next := e.next + 1 }
  if w % 2 ^ 32 = 0 then s
  else
    let w := (if e.status = 0 then w else putBits w 32 1 1) - 1
    let r := BitVec.ofNat 1024 (natOfBytes (bs.drop 64))
    let s := l2Touch (writePlaces s .device (placed (ps.take 8) (bytesOfNat 8 w))) (ps.take 8) .normal .write
    if w % 2 ^ 32 ≠ 0 then s
    else if bitAt w 32 = 0 then updEnding s e.key fun e => { e with submit := some r }
    else retireRecord s r 0x24 e.core 0 noPosition

/-- The next list entry of a task end, and its node. -/
def nextNode (s : State) (e : Ending) : State :=
  let c := endCtx e
  let a := recSucc e.launch + BitVec.ofNat 64 (8 * e.next)
  let (rs, s1) := reachBytes c .read a 8 s
  if mustWait s1 (somePlaces rs) then s
  else match (if a.toNat % 8 = 0 then cleanPlaces s1 rs else (none, s1)) with
    | (none, s1) => skipNode s1 e
    | (some ps, s1) =>
      let node := BitVec.ofNat 64 (natOfBytes (ps.map (memByte s1)))
      let (ns, s2) := reachBytes c .atomic node 0xC0 s1
      if mustWait s2 (somePlaces ns) then s
      else match (if node.toNat % 64 = 0 then cleanPlaces s2 ns else (none, s2)) with
        | (none, s2) => skipNode s2 e
        | (some ns, s2) => countNode s2 e ns

/-- The last step of a task end: the slot, then everything the task still held (R394). -/
def finishEnding (s : State) (e : Ending) : State :=
  let c := endCtx e
  let slot := recSlot e.launch
  let (rs, s1) := if slot = 0 then ([], s) else reachBytes c .atomic slot 8 s
  if mustWait s1 (somePlaces rs) then s
  else
    let s := if slot = 0 then s else writeSlot c slot e.status.toNat e.id.toNat s
    let ms := if e.id = 0 then [] else gangOf s e.id
    let s := ms.foldl (fun s t => endLease (freeThread s t.id) t.id) s
    let s := ms.foldl (fun s t => ringRound s (moduleOf t.core)) s
    let s := { s with
      tasks := s.tasks.filter fun t => e.id == 0 || t.base != e.id, endings := s.endings.filter fun x => x.key != e.key }
    fidTaskEnded s e.queue e.qpos

/-- The stores of a retired task, those that an earlier thread of it left among them, are performed as far as they can be,
and what it wrote and found can be missed by none (R394). -/
def settleStores (s : State) (id : BitVec 32) : State :=
  let s := match threadOf s id with
    | some th => publishBy th true (performAllOf s th.id)
    | none => s
  hardenWrites (fun x => x.soft.any fun k => k.writer == savedKey id) (performAllOf s (savedKey id))

/-- A retired task has a store that is not yet performed. -/
def storesLeft (s : State) (id : BitVec 32) : Bool :=
  s.pending.any fun x => x.thread == savedKey id || (threadOf s id).any fun th => x.thread == th.id

/-- One step of a task end; none of its steps comes before the task's own stores. -/
def endStep (s : State) (e : Ending) : State :=
  let ms := if e.id = 0 then [] else (gangOf s e.id).map Task.id
  let s := ms.foldl settleStores s
  if ms.any (storesLeft s) then s
  else match e.submit with
    | some r => submitNode s e r
    | none => if e.next < recNsucc e.launch then nextNode s e else finishEnding s e

/-- SUCCESSOR_SUBMIT: the next step of a task end: a submission, a node, or the last step (R394, R396). -/
def execSuccessorSubmit (k : Nat) (s : State) : Answer :=
  .next (if s.stopped then s else match s.endings.find? fun e => e.key == k with
    | some e => endStep s e
    | none => s)

/-! ### Requests of the host and expiries (R397, R403, R405, R406) -/

/-- An append in progress that has reserved its ring entries; one that a trap keeps is discarded like the rest. -/
def appending (th : Thread) : Bool := appendReserved th && !th.trap.mode

/-- A task that has not ended is retired as ABORTED. An append that has reserved its ring entries is completed first; while
that has to wait, the task is stopped, and others go on (R397, Table 14-6). -/
def abortMember (s : State) (t : Task) : State :=
  match t.status with
  | .ended _ => s
  | _ =>
    let s := match threadOf s t.id with
      | some th => if appending th then onThread s th.id drainTurn else s
      | none => s
    if (threadOf s t.id).any appending then updTask s t.id fun t => { t with aborting := true }
    else retireTask s t.id (if isFrozen s t then 0x21 else 0x20)

/-- A task is retired as ABORTED, if it has not ended (R397, R463). -/
def retireAborted (id : BitVec 32) (s : State) : State :=
  match findTask s id with
  | some t => abortMember s t
  | none => s

/-- TABORT: the task named; every remaining member of its gang once a member has ended ABORTED (R397). -/
def execTabort (k : BitVec 32) (s : State) : Answer :=
  .next (match findTask s k with
    | none => s
    | some t =>
      if (gangOf s t.base).any fun m => m.status == .ended 0x20 then (gangOf s t.base).foldl abortMember s
      else abortMember s t)

/-- PREQSET (R405). -/
def execPreqset (k : BitVec 32) (s : State) : Answer :=
  .next (match findTask s k with
    | some t => if recSave t.launch = 0 || t.noPreempt then s else askGang s t.base
    | none => s)

/-- PGRACE_EXPIRY: the grace of a thread's task has run out, outside trap mode (R406). -/
def execPgraceExpiry (t : Nat) (s : State) : Answer :=
  .next (onThread s t fun s =>
    if s.stopped || s.th.trap.mode || !pendingRequest s then s
    else match forcePreempt s with
      | some s' => s'
      | none => match s.th.task with
        | some id => updTask s id fun t => { t with graceOut := true }
        | none => s)

/-- The pre-emptible task of a core that holds the most lane groups; the most recently dispatched of those. -/
def mostLanes (s : State) (core : Nat) : Option Task :=
  let ts := (coreThreads s core).filterMap fun th => (th.task.bind (findTask s)).map fun t => (t, laneCount th.lanes.gmap)
  ((ts.filter fun x => preemptible s x.1 && decide (0 < x.2)).foldl (fun v x => match v with
    | none => some x
    | some y => if y.2 < x.2 || (x.2 == y.2 && decide (y.1.order < x.1.order)) then some x else some y) none).map Prod.fst

/-- LGRACE_EXPIRY: a thread has slept in SETVL for the lane grace (R403). -/
def execLgraceExpiry (t : Nat) (s : State) : Answer :=
  .next (match (threads s).find? fun th => th.id == t with
    | some th =>
      if th.wait = some .setvl then
        match mostLanes s (coreOf th) with
        | some v => askGang s v.base
        | none => s
      else s
    | none => s)

/-! ### Commands (R173, R184, R187, R190, R318, R325-R329, R452) -/

/-- An operation on a command. -/
def onCmd (id : Nat) (f : State → Cmd → State) (s : State) : State :=
  if s.stopped then s
  else match s.cmds.find? fun k => k.id == id with
    | some k => f s k
    | none => s

/-- COMMAND_COMPLETION (R173). -/
def execCommandCompletion (c : Nat) (s : State) : Answer := .next (onCmd c completeCmd s)

/-- STREAM_BLOCK (R184). -/
def execStreamBlock (c : Nat) (s : State) : Answer :=
  .next (onCmd c (fun s k => match k.prog with
    | .stream st => if st.closing then s else decodeNext s k st
    | _ => s) s)

/-- COLLECTIVE_MATCH (R190). -/
def execCollectiveMatch (g : BitVec 32) (s : State) : Answer := .next (if s.stopped then s else matchGroup s g)

/-- PEER_DATA_ARRIVAL (R352, R191). -/
def execPeerDataArrival (c r : Nat) (data : PeerData) (s : State) : Answer :=
  .next (if s.stopped then s else peerArrival s c r data.head data.bytes)

/-- PEER_UNREACHABLE (R190). -/
def execPeerUnreachable (c : Nat) (s : State) : Answer := .next (if s.stopped then s else peerLost s c)

/-- SPLICE_EXECUTE (R318). -/
def execSpliceExecute (c : Nat) (s : State) : Answer :=
  .next (onCmd c (fun s k => match k.insn with
    | .ksplice _ => spliceStep s k
    | _ => s) s)

/-- FID_PLAN_START (R325, R326). -/
def execFidPlanStart (m : BitVec 2) (s : State) : Answer := .next (if s.stopped then s else fidStart s m.toNat)

/-- A step of a Fid's plan. -/
def onPlan (id : Nat) (f : State → Cmd → FidPlan → State) (s : State) : State :=
  onCmd id (fun s k => match k.prog with
    | .fid p => f s k p
    | _ => s) s

/-- FID_MARK (R326). -/
def execFidMark (c : Nat) (s : State) : Answer := .next (onPlan c fidMark s)

/-- FID_TASK_SUBMIT (R328). -/
def execFidTaskSubmit (c : Nat) (s : State) : Answer := .next (onPlan c fidSubmit s)

/-- FID_SEAL (R326). -/
def execFidSeal (c : Nat) (s : State) : Answer := .next (onPlan c fidSeal s)

/-- FID_ABANDON (R326). -/
def execFidAbandon (c : Nat) (s : State) : Answer := .next (onPlan c fidAbandon s)

/-- DRIVE_COMPLETION: the drive completes one of an XSTOR's NVMe commands with its status field (R187). -/
def execDriveCompletion (c p : Nat) (sf : BitVec 15) (data : List Byte) (s : State) : Answer :=
  .next (if s.stopped then s else driveComplete s c p sf data)

/-- DRIVE_TIMEOUT: the link of a drive slot goes down, or a command has been with the drive for too long (R452). -/
def execDriveTimeout (n : BitVec 2) (s : State) : Answer :=
  .next (if s.stopped then s
    else if 0 < inFlight s n.toNat || (smGet s.drives n.toNat).linked then driveLost s n.toNat else s)

end Sys2Proof.Machine
end

