-- ==== Sys2Proof/Machine/System.lean ====
section
/-! DEFINITION. The system around the cores: fault service (R419, R420), invalidations (R417, R418), memory
control and refresh (R86, R93-R100), lease revocation (R111), links and drives (R448-R453), the housekeeping
controller (R457-R461), throttling and resets (R464, R465), and the host's accesses (R350, R446, R449). -/
namespace Sys2Proof.Machine

/-! ### Fault service (R419, R420) -/

/-- A record outstanding in a module for the page of a wait. -/
def outstanding (s : State) (m : Nat) (asp : BitVec 16) (w : FsWait) : Option FsRecord :=
  s.fsRecs.find? fun r => r.module == m && r.aspace == asp && r.page == w.va.toNat / 2 ^ 16 && r.write == w.write

/-- The record of Table 14-5. -/
def fsRecordWords (w : FsWait) (asp : BitVec 16) (task tag : BitVec 32) : List Nat :=
  [w.va.toNat % 2 ^ 56, task.toNat * 2 ^ 32 + w.pin.toNat * 2 ^ 18 + w.fetch.toNat * 2 ^ 17 + w.write.toNat * 2 ^ 16 + asp.toNat,
   tag.toNat, 0]

/-- A wait's record is written, or found outstanding: its tag; none while the queue is full. -/
def serviceRecord (s : State) (th : Thread) (t : Task) (w : FsWait) : Option (BitVec 32 × State) :=
  let m := moduleOf (coreOf th)
  let asp := recAspace t.launch
  match outstanding s m asp w with
  | some r => some (r.tag, s)
  | none =>
    let q := (ctlGet s regFsqbase).toNat
    let sz := bitsOf q 0 5
    let tail := (ctlGet s regFsqtail).toNat
    let p := bitsOf q 12 52 * 4096 + 32 * (tail % 2 ^ sz)
    let ps := (List.range 32).map (p + ·)
    if sz = 0 || tail - (ctlGet s regFsqhead).toNat = 2 ^ sz || !ps.all (physPresent s) then none
    else
      let tag := s.nextTag
      let s := l2Touch (writePlaces s .device (placed ps (dwords (fsRecordWords w asp t.id tag)))) ps .normal .write
      let s := raiseMsix (ctlSet s regFsqtail (BitVec.ofNat 64 (tail + 1))) 1
      let r : FsRecord := { tag := tag, aspace := asp, page := w.va.toNat / 2 ^ 16, write := w.write, module := m }
      some (tag, { s with fsRecs := s.fsRecs ++ [r], nextTag := tag + 1 })

/-- A wait that has no record yet. -/
def unrecorded (w : Option FsWait) : Option FsWait := w.filter fun w => w.tag.isNone && w.answer.isNone

/-- FAULT_SERVICE_RECORD: a thread's wait for service gets its record (R419). -/
def execFaultServiceRecord (t : Nat) (s : State) : Answer :=
  .next (onThread s t fun s =>
    match (if s.stopped then none else curTask s) with
    | none => s
    | some k =>
      match unrecorded s.th.fsw, unrecorded s.th.vfsw with
      | some w, _ => match serviceRecord s s.th k w with
        | some (tag, s) => updTh s fun th => { th with fsw := some { w with tag := some tag } }
        | none => s
      | none, some w => match serviceRecord s s.th k w with
        | some (tag, s) => updTh s fun th => { th with vfsw := some { w with tag := some tag } }
        | none => s
      | none, none => s)

/-- A wait on a record answered: `a` for FAULT or EXHAUSTED, none for RETRY. -/
def answerWait (tag : BitVec 32) (a : Option Bool) (w : Option FsWait) : Option FsWait :=
  match w with
  | some w => if w.tag = some tag then a.map fun b => { w with answer := some b } else some w
  | none => none

/-- A record answered: every access waiting on it goes on (R420). -/
def answerRecord (s : State) (tag : BitVec 32) (a : Option Bool) : State :=
  if s.fsRecs.any fun r => r.tag == tag then
    let s := { s with fsRecs := s.fsRecs.filter fun r => r.tag != tag }
    updThreads s fun th => { th with
      stall := th.stall && decide (answerWait tag a th.fsw = th.fsw)
      fsw := answerWait tag a th.fsw, vfsw := answerWait tag a th.vfsw }
  else s

/-- FSREPLY with RETRY (R420). -/
def execFsreplyRetry (tag : BitVec 32) (s : State) : Answer := .next (answerRecord s tag none)

/-- FSREPLY with FAULT (R420). -/
def execFsreplyFault (tag : BitVec 32) (s : State) : Answer := .next (answerRecord s tag (some true))

/-- FSREPLY with EXHAUSTED (R420). -/
def execFsreplyExhausted (tag : BitVec 32) (s : State) : Answer := .next (answerRecord s tag (some false))

/-! ### Invalidation (R111, R417, R418) -/

/-- TLBINV written (R417). -/
def startTlbinv (s : State) (v : Word) : State :=
  if (ctlGet s regTlbinv).getLsbD 63 then s
  else
    let r := 2 ^ 63 + bitsOf v.toNat 48 2 * 2 ^ 48 + bitsOf v.toNat 0 48
    tlbRecheck { ctlSet s regTlbinv (BitVec.ofNat 64 r) with holdOut := false, invVa := ctlGet s regTlbva }

/-- TLBINV_WRITE (R417). -/
def execTlbinvWrite (v : Word) (s : State) : Answer := .next (startTlbinv s v)

/-- The TLBs and the walkers without what a request covers (R417). -/
def dropCovered (s : State) : State :=
  { s with
    tlb := s.tlb.filter fun t => !tlbCovers s t.aspace t.va (2 ^ t.size)
    walks := s.walks.filter fun w => !tlbCovers s w.aspace w.va (2 ^ w.size) }

/-- The queue loads of every thread whose fills have yet to read, translated again (R210, R417). -/
def retranslateAll (s : State) : State :=
  ((threads s).filter fun t => t.q.toList.any fun q => q.any fun e => !e.src.isEmpty).foldl
    (fun s t => onThread s t.id retranslateQueues) s

/-- The elements that a store, an atomic or a VCAPP has translated and has yet to perform are translated again where the
request covers one (R210, R417). -/
def dropElems (s : State) : State :=
  updThreads s fun th =>
    let asp := ((th.task.bind (findTask s)).map fun k => recAspace k.launch).getD 0
    { th with viq := th.viq.map fun e =>
        if e.els.any fun el => tlbCovers s asp el.va.toNat el.ps.length then { e with els := [] } else e }

/-- TLBINV_COMPLETE: no lease holds the request, one that has pinned a covered page since it was written included; the covered
translations are gone, and every access that used one has been performed or translated again; an engine translates at each
access (R417). -/
def execTlbinvComplete (s : State) : Answer :=
  let s := tlbRecheck s
  let r := (ctlGet s regTlbinv).toNat
  .next (if bitAt r 63 = 0 || bitAt r 62 = 1 then s
    else
      let t := performAll s
      if t.pending.isEmpty then
        ctlSet (retranslateAll (dropCovered (dropElems t))) regTlbinv (BitVec.ofNat 64 (putBits r 63 1 0))
      else s)

/-- Every L1 instruction cache is invalidated (R418). -/
def invalidateIcaches (s : State) : State := { s with l1i := [] }

/-- ICINV_GO (R418). -/
def execIcinvGo (s : State) : Answer := .next (invalidateIcaches s)

/-- LEASE_HOLD_EXPIRY: the held request has been held for LEASEMAX (R111). -/
def execLeaseHoldExpiry (s : State) : Answer :=
  .next (if (ctlGet s regTlbinv).getLsbD 62 then { s with holdOut := true } else s)

/-- LREVOKE written: when a request that the task's lease holds has been held for long enough, the revocation starts; it
takes effect once each pseudo-channel of the lease is at a boundary (R111). -/
def revokeLease (s : State) (k : BitVec 32) : State :=
  if (ctlGet s regTlbinv).getLsbD 62 && s.holdOut && (tlbHolders s).contains k then
    match findTask s k with
    | some t =>
      let ps := (List.range t.lease.npc).map fun i => (k, t.lease.p0 + i)
      { ctlSet s regLrevoke (k.setWidth 64) with revoking := (s.revoking.filter fun x => x.1 != k) ++ ps }
    | none => s
  else s

/-- LREVOKE (R111). -/
def execLrevoke (k : BitVec 32) (s : State) : Answer := .next (revokeLease s k)

/-! ### Memory control (R86, R95, R99, R100) -/

/-- MCFG.LOCK set (R86). -/
def lockViews (s : State) : State := ctlSet s regMcfg (ctlGet s regMcfg ||| 1)

/-- MCFG_LOCK (R86). -/
def execMcfgLock (s : State) : Answer := .next (lockViews s)

/-- Device memory at zero, with valid check bits (R86). -/
def zeroDevice (s : State) : State :=
  { s with
    mem := s.mem.filter fun c => !isDevice c.1, uncorr := s.uncorr.filter fun p => !isDevice p
    corr := s.corr.filter fun p => !isDevice p, hostLines := s.hostLines.filter fun p => !isDevice p }

/-- MEM_INIT_DONE: the initialisation that LOCK began is complete (R86). -/
def execMemInitDone (s : State) : Answer :=
  .next (if (ctlGet s regMcfg) = 1 then ctlSet (zeroDevice s) regMcfg 3 else s)

/-- MERR_CLEAR (R99). -/
def execMerrClear (s : State) : Answer := .next (ctlSet s regMerr 0)

/-- GERR_CLEAR (R391). -/
def execGerrClear (s : State) : Answer := .next (ctlSet s regGerr 0)

/-- The refresh debt of a pseudo-channel. -/
def debtOf (s : State) (p : Nat) : Nat := smGet s.debt p

/-- Two packages that differ in the model's own counters, the rounds and what the caches hold alone. -/
def sameMachine (s t : State) : Bool :=
  decide ({ t with free := s.free, disp := s.disp, tlb := s.tlb, walks := s.walks, l2 := s.l2, hostFills := s.hostFills } = s)

/-- The thread with runs of its unit on a pseudo-channel (R91). -/
def runAt (s : State) (p : Nat) : Option (Nat × PcRun) :=
  (threads s).findSome? fun th => (headRuns th).findSome? fun r => if r.pc = p then some (th.id, r) else none

/-- PC_BOUNDARY: the run in progress on a pseudo-channel ends, and at the boundary the pseudo-channel repays a refresh debt
of 8, or else starts a run of its own that is ready and admitted, or else repays one interval; a revocation that waited for
the boundary takes effect unless a unit has to be completed first (R93, R95, R97, R111, R126). No ordinary request waits for
steps 2 and 4 (log 20). -/
def execPcBoundary (p : BitVec 9) (s : State) : Answer :=
  let p := p.toNat
  let s := if (threads s).any fun th => insideUnit th && (headRuns th).any fun r => r.pc == p then s else reachBoundary s p
  let d := debtOf s p
  let idle := fun s : State => { s with debt := smSet s.debt p (d - 1) }
  .next (match runAt s p with
    | some (n, _) =>
      let s := onThread s n (endRun p)
      if 8 ≤ d then { s with debt := smSet s.debt p 0 }
      else match runAt s p with
        | some (n, r) => if mayRun s r then onThread s n (startRun p) else idle s
        | none => idle s
    | none => if 8 ≤ d then { s with debt := smSet s.debt p 0 } else idle s)

/-- REFRESH_INTERVAL: tREFI has passed on a pseudo-channel (R95). -/
def execRefreshInterval (p : BitVec 9) (s : State) : Answer :=
  .next (if pcPresent s p.toNat then { s with debt := smSet s.debt p.toNat (min 10 (debtOf s p.toNat + 1)) } else s)

/-- The ECC words of some bytes that lie in a row of a bank. -/
def wordsOfRow (s : State) (b r : Nat) (ws : List Nat) : List Nat :=
  ws.filter fun p => isDevice p && physPresent s p && (bankOf s p).1 == b && (bankOf s p).2.1 == r

/-- PATROL_SCRUB: a row is read, its corrected data written back, its uncorrectable words counted (R100, R101). -/
def execPatrolScrub (b : BitVec 13) (r : BitVec 15) (s : State) : Answer :=
  let cs := wordsOfRow s b.toNat r.toNat s.corr
  let us := wordsOfRow s b.toNat r.toNat s.uncorr
  let s := us.foldl countUncorr (countCorr s cs)
  .next { s with corr := s.corr.filter fun p => !cs.contains p }

/-- MSTAT.HOT of a stack. -/
def setHot (s : State) (k : Nat) (b : Bool) : State :=
  ctlSet s regMstat (BitVec.ofNat 64 (putBits (ctlGet s regMstat).toNat k 1 b.toNat))

/-- STACK_HOT (Table 3-7). -/
def execStackHot (k : BitVec 3) (s : State) : Answer := .next (setHot s k.toNat true)

/-- STACK_COOL (Table 3-7). -/
def execStackCool (k : BitVec 3) (s : State) : Answer := .next (setHot s k.toNat false)

/-- THERMAL_THROTTLE: the main clock is lowered, or a hot stack halves the admission (R464). -/
def execThermalThrottle (stack : Bool) (s : State) : Answer :=
  .next (if stack then { s with padmHalved := true } else { s with clockSteps := s.clockSteps + 1 })

/-! ### Links and drives (R448, R451-R453) -/

/-- UCIE_LINK_FAILURE: the package stops until a device reset (R448). -/
def execUcieLinkFailure (s : State) : Answer :=
  .next { s with stopped := true, hkc := { s.hkc with events := s.hkc.events ++ [1] } }

/-- LMODEn written (R453). -/
def writeLmode (s : State) (n : Nat) (v : Word) : State :=
  let m := if bitsOf v.toNat 0 2 = 3 then 0 else bitsOf v.toNat 0 2
  if (ctlGet s (regLmode + 8 * n)).toNat = m then s
  else
    let s := portDown s n
    ctlSet { s with portUp := BitVec.ofNat 4 (putBits s.portUp.toNat n 1 0) } (regLmode + 8 * n) (BitVec.ofNat 64 m)

/-- LMODE_WRITE (R453). -/
def execLmodeWrite (n : BitVec 2) (v : Word) (s : State) : Answer := .next (writeLmode s n.toNat v)

/-- PORT_TRAINED: a present port trains in its mode (R453). -/
def execPortTrained (n : BitVec 2) (s : State) : Answer :=
  .next (if ctlGet s (regLmode + 8 * n.toNat) != 0 && s.fuse.ports.getLsbD n.toNat then
      { s with portUp := BitVec.ofNat 4 (putBits s.portUp.toNat n.toNat 1 1) }
    else s)

/-- DRIVE_LINK_TRAINED (R451). -/
def execDriveLinkTrained (n : BitVec 2) (s : State) : Answer :=
  .next (if s.fuse.storage then
      { s with drives := smSet s.drives n.toNat { smGet s.drives n.toNat with linked := true } }
    else s)

/-- DRVCTLn written (R452, Table 15-5). -/
def writeDrvctl (s : State) (n : Nat) (v : Word) : State :=
  let r := regDrv + 32 * n
  let was := drvBound s n
  let qsz := bitsOf (ctlGet s (r + 8)).toNat 0 4
  let lbsh := bitsOf (ctlGet s (r + 24)).toNat 16 8
  let ok := decide (2 ≤ qsz) && decide (qsz ≤ 12) && (lbsh == 9 || lbsh == 12)
  let nsid := if was then bitsOf (ctlGet s r).toNat 0 32 else bitsOf v.toNat 0 32
  let bind := v.getLsbD 63 && ok
  let s := ctlSet s r (BitVec.ofNat 64 (bind.toNat * 2 ^ 63 + nsid))
  if bind then pumpDrive { s with drives := smSet s.drives n { smGet s.drives n with suspended := false } } n else s

/-- DRVCTL_BIND (R452). -/
def execDrvctlBind (n : BitVec 2) (v : Word) (s : State) : Answer := .next (writeDrvctl s n.toNat (v ||| BitVec.twoPow 64 63))

/-- DRVCTL_UNBIND (R452). -/
def execDrvctlUnbind (n : BitVec 2) (v : Word) (s : State) : Answer :=
  .next (writeDrvctl s n.toNat (v &&& ~~~ BitVec.twoPow 64 63))

/-! ### The housekeeping controller (R458-R461) -/

/-- MBCMD written: a command begins unless one is in progress (R461). -/
def startMailbox (s : State) (v : BitVec 8) : State :=
  if s.hkc.busy.isSome then s
  else
    let r := BitVec.ofNat 64 (putBits (ctlGet s regMbstat).toNat 63 1 1)
    ctlSet { s with hkc := { s.hkc with busy := some v } } regMbstat r

/-- SEAL (R458). -/
def execMbSeal (s : State) : Answer := .next (startMailbox s 1)
/-- VERIFY (R458). -/
def execMbVerify (s : State) : Answer := .next (startMailbox s 2)
/-- ATTEST (R459). -/
def execMbAttest (s : State) : Answer := .next (startMailbox s 3)
/-- FWUPDATE (R461). -/
def execMbFwupdate (s : State) : Answer := .next (startMailbox s 4)
/-- REKEY (R458). -/
def execMbRekey (s : State) : Answer := .next (startMailbox s 5)
/-- BAD_COMMAND: a value that names no command (R461). -/
def execMbBadCommand (v : BitVec 8) (s : State) : Answer :=
  .next (if v = 0 || 5 < v.toNat then startMailbox s v else s)

/-- DEVID (Table 15-7). -/
def devid (s : State) : Word := BitVec.ofNat 64 (2 ^ 48 + s.fuse.stepping.toNat * 2 ^ 32)

/-- FEAT (Table 15-7). -/
def feat : Word := 1

/-- The mailbox buffer's address. -/
def mailboxBase (s : State) : Nat := bitsOf (ctlGet s regMbbuf).toNat 12 52 * 4096

/-- The mailbox buffer's bytes, the read counted: none when it is too long, lies outside device memory or cannot be
read. -/
def mailboxBytes (s : State) : Option (List Byte) × State :=
  let n := (ctlGet s regMblen).toNat
  let a := mailboxBase s
  if 2 ^ 26 < n then (none, s)
  else
    let ps := (List.range n).map (a + ·)
    if ps.all fun p => isDevice p && physPresent s p then quietRead ps s else (none, s)

/-- Bytes written into the mailbox buffer from an offset on. -/
def mailboxWrite (s : State) (o : Nat) (bs : List Byte) : State := physWrite s (mailboxBase s + o) bs

/-- The device hash: SHAKE256 over FAMILY, STEPPING, FEAT and 4 zero bytes (R457). -/
def deviceHash (s : State) : BitVec 256 :=
  Config.shake256 (bytesOfNat 2 1 ++ bytesOfNat 2 s.fuse.stepping.toNat ++ bytesOfNat 8 feat.toNat ++ List.replicate 4 0)

/-- The tag of a translated-image entry under K_TIC (R458). -/
def ticTag (s : State) (bs : List Byte) : List Byte :=
  bytesOfNat 32 (Config.kmac256 (Config.ticKey s.hkc.keyGen) "Gnosil translated image" bs).toNat

/-- What ATTEST's signature covers (R459, log 7): the nonce, DEVID, FEAT, the hash of the running firmware, the device hash. -/
def attested (s : State) (nonce : List Byte) : List Byte :=
  nonce ++ bytesOfNat 8 (devid s).toNat ++ bytesOfNat 8 feat.toNat ++ bytesOfNat 32 s.hkc.running.toNat ++
    bytesOfNat 32 (deviceHash s).toNat

/-- ATTEST's report: what it covers, the identity's 64-byte public key and the 29,792-byte signature (R459, log 7). -/
def attestReport (s : State) (nonce : List Byte) : List Byte :=
  let m := attested s nonce
  m ++ bytesOfNat 64 Config.identityKey.toNat ++ bytesOfNat 29792 (Config.identitySign m).toNat

/-- The bytes of ATTEST's report. -/
def reportLength : Nat := 32 + 8 + 8 + 32 + 32 + 64 + 29792

/-- An image as the firmware store keeps it (R459). -/
def imageOf (bs : List Byte) : Image :=
  { hash := Config.shake256 bs, signed := Config.firmwareVerifies bs, version := Config.firmwareVersion bs }

/-- The stored image's signature verifies and its version is not below the fused counter (R459). -/
def imageValid (h : Hkc) : Bool := h.stored.signed && decide (h.rollback ≤ h.stored.version)

/-- A mailbox command's effect and its RESULT (R458, R459). After REKEY every earlier entry fails. -/
def runMailbox (s : State) (cmd : Nat) : Nat × State :=
  if cmd = 5 then (0, { s with hkc := { s.hkc with
    keyGen := s.hkc.keyGen + 1, issued := [], revoked := s.hkc.revoked ++ s.hkc.issued } })
  else if cmd = 0 ∨ 5 < cmd then (2, s)
  else match mailboxBytes s with
    | (none, s) => (2, s)
    | (some bs, s) =>
      let n := bs.length
      let entry := bs.take (n - 32) ++ ticTag s (bs.take (n - 32))
      match cmd with
      | 1 =>
        if n < 96 then (2, s)
        else (0, mailboxWrite { s with hkc := { s.hkc with issued := s.hkc.issued ++ [entry] } } (n - 32) (entry.drop (n - 32)))
      | 2 => if n < 96 then (2, s) else (if entry = bs ∧ bs ∉ s.hkc.revoked then 0 else 1, s)
      | 3 => if n < reportLength then (2, s) else (0, mailboxWrite s 0 (attestReport s (bs.take 32)))
      | _ =>
        let h := { s.hkc with stored := imageOf bs }
        if imageValid h then (0, { s with hkc := h }) else (1, s)

/-- MAILBOX_COMPLETION: the command in progress ends, and vector 3 is raised (R450, R461). -/
def execMbCompletion (s : State) : Answer :=
  .next (match s.hkc.busy with
    | none => s
    | some c =>
      if !memReady s && 1 ≤ c.toNat && c.toNat ≤ 4 then s
      else
        let (r, s) := runMailbox s c.toNat
        let old := bitsOf (ctlGet s regMbstat).toNat 8 2
        raiseMsix (ctlSet { s with hkc := { s.hkc with busy := none } } regMbstat (BitVec.ofNat 64 (old * 256 + r))) 3)

/-- FIRMWARE_HDMA_DISABLE: firmware disables a host-DMA window (R460). -/
def execFirmwareHdmaDisable (n : BitVec 4) (s : State) : Answer :=
  let r := regHdma + 16 * n.toNat
  .next (ctlSet s r (BitVec.ofNat 64 (putBits (ctlGet s r).toNat 63 1 0)))

/-! ### Resets: PERST (R465) -/

/-- The HKC after a device reset: it runs the stored image, if that is valid; what it keeps for good stays (R459). -/
def bootHkc (h : Hkc) (events : List Nat) : Hkc :=
  { h with running := if imageValid h then h.stored.hash else 0, busy := none, events := events }

/-- Everything of the device reset but what is fused and what the HKC keeps; host memory is none of it (R465). Without a valid
image every core stays in reset (R459). -/
def powerOn (s : State) (events : List Nat) : State :=
  { State.reset with
    mem := s.mem.filter fun c => isHost c.1
    ctl := if imageValid s.hkc then ctlReset else smSet ctlReset regMbstat 0x300
    stopped := !imageValid s.hkc
    fuse := s.fuse, hkc := bootHkc s.hkc events, agenda := s.agenda, vlag := s.vlag, weak := s.weak, free := s.free }

/-- PERST (R465). -/
def execPerst (s : State) : Answer := .next (powerOn s s.hkc.events)

/-- SHUTDOWN_TEMPERATURE: the HKC records it, then as PERST (R465). -/
def execShutdownTemperature (s : State) : Answer := .next (powerOn s (s.hkc.events ++ [2]))

/-- Control registers an FLR keeps: MCFG, RVIEW, KVDOM and the storage-control block (R465). -/
def flrKeeps (off : Nat) : Bool :=
  off == regMcfg || (regRview ≤ off && off < regRview + 96) || (regKvdom ≤ off && off < regKvdom + 768) ||
  (regDrv ≤ off && off < regDrv + 128)

/-- A map with the keys that a function keeps as they are, and the others as in a second map. -/
def mergeKeys (keep : Nat → Bool) (a b : List (Nat × Word)) : List (Nat × Word) :=
  (a.filter fun x => keep x.1).foldr (fun x m => smSet m x.1 x.2) (b.filter fun x => !keep x.1)


/-! ### The host's accesses (R350, R446, R449) -/

/-- A write of a register whose RW fields are the bits of a mask. -/
def writeMasked (s : State) (off mask : Nat) (v : Word) : State := ctlSet s off (maskWord v mask)

/-- A bit that a write of 1 clears. -/
def clearOnOne (s : State) (off bit : Nat) (v : Word) : State :=
  if v.getLsbD bit then ctlSet s off (BitVec.ofNat 64 (putBits (ctlGet s off).toNat bit 1 0)) else s

/-- KVDOMn written: a byte for a region that is not bank-linear and present is stored as 0 (Table 10-5). -/
def writeKvdom (s : State) (n : Nat) (v : Word) : State :=
  ctlSet s (regKvdom + 8 * n) (BitVec.ofNat 64 ((List.range 8).foldl (fun x k =>
    let r := 8 * n + k
    if regionPresent s r && regionLinear s r then x + bitsOf v.toNat (8 * k) 8 * 2 ^ (8 * k) else x) 0))

/-- FSREPLY written (R420). -/
def writeFsreply (s : State) (v : Word) : State :=
  answerRecord s (v.setWidth 32) (match bitsOf v.toNat 32 2 with
    | 0 => none
    | 2 => some false
    | _ => some true)

/-- An 8-byte write of a control register of memory, lease and dispatch control (Tables 3-7, 4-4, 13-3). -/
def writeCtlLow (s : State) (off : Nat) (v : Word) : State :=
  match off with
  | 0x000000 => if v.getLsbD 0 then lockViews s else s
  | 0x000100 => ctlSet s off (BitVec.ofNat 64 (max 64 (bitsOf v.toNat 0 16)))
  | 0x000108 => ctlSet s off (BitVec.ofNat 64 (min 256 (bitsOf v.toNat 0 9)))
  | 0x000118 => ctlSet s off 0
  | 0x000120 => clearOnOne s off 63 v
  | 0x010000 => ctlSet s off (BitVec.ofNat 64 (max 1 (bitsOf v.toNat 0 32)))
  | 0x010008 => revokeLease s (v.setWidth 32)
  | 0x030000 => writeMasked s off (2 ^ 64 - 64) v
  | 0x030008 => match execQdoor (v.setWidth 18) s with
    | .next s => s
    | _ => s
  | 0x030010 => writeMasked s off 0xFFFF v
  | 0x030018 | 0x030020 => writeMasked s off 0xFFFFFFFF v
  | 0x030028 => match execTabort (v.setWidth 32) s with
    | .next s => s
    | _ => s
  | 0x030030 => match execPreqset (v.setWidth 32) s with
    | .next s => s
    | _ => s
  | 0x030038 => ctlSet s off 0
  | _ =>
    if regRview ≤ off ∧ off < regRview + 96 then (if (ctlGet s regMcfg).getLsbD 0 then s else ctlSet s off v)
    else if regKvdom ≤ off ∧ off < regKvdom + 768 then writeKvdom s ((off - regKvdom) / 8) v
    else s

/-- RW bits of a ring's base register: BASE and SZ. -/
def ringMask : Nat := 2 ^ 64 - 4096 + 31

/-- A write of translation control (Table 14-4). -/
def writeCtlTranslation (s : State) (off : Nat) (v : Word) : State :=
  match off with
  | 0x040000 => writeMasked s off (2 ^ 64 - 4096) v
  | 0x040008 => writeMasked s off (2 ^ 56 - 2 ^ 16) v
  | 0x040010 => startTlbinv s v
  | 0x040020 => if v.getLsbD 0 then invalidateIcaches s else s
  | 0x040028 | 0x040060 | 0x040080 => writeMasked s off ringMask v
  | 0x040038 | 0x040070 | 0x040090 => ctlSet s off v
  | 0x040040 => writeFsreply s v
  | 0x040048 => writeMasked s off (2 ^ 64 - 4) v
  | 0x040050 => writeMasked s off (2 ^ 62 - 1) v
  | 0x040058 => writeMasked s off 0xFFFF v
  | 0x040078 | 0x040098 => clearOnOne s off 0 v
  | _ => s

/-- A write of storage or link control or of the mailbox (Tables 15-4, 15-5, 15-7). -/
def writeCtlHigh (s : State) (off : Nat) (v : Word) : State :=
  if regDrv ≤ off ∧ off < regDrv + 128 then
    let n := (off - regDrv) / 32
    match (off - regDrv) % 32 with
    | 0 => writeDrvctl s n v
    | 8 => if drvBound s n then s else writeMasked s off (2 ^ 64 - 4096 + 15) v
    | 16 => if drvBound s n then s else writeMasked s off (2 ^ 64 - 4096) v
    | _ => if drvBound s n then s else writeMasked s off (2 ^ 24 - 1) v
  else if regLmode ≤ off ∧ off < regLmode + 32 then writeLmode s ((off - regLmode) / 8) v
  else if regHdma ≤ off ∧ off < regHdma + 256 then
    writeMasked s off ((if off % 16 = 0 then 2 ^ 63 else 0) + 2 ^ 51 - 2 ^ 21) v
  else if off = regUetab then writeMasked s off (2 ^ 64 - 4096) v
  else if s.hkc.busy.isSome then s
  else if off = regMbcmd then startMailbox s (v.setWidth 8)
  else if off = regMbbuf then writeMasked s off (2 ^ 64 - 4096) v
  else if off = regMblen then writeMasked s off 0xFFFFFFFF v
  else s

/-- An aligned write of BAR0; what Table 15-2 does not assign ignores it (R449). -/
def writeControl (s : State) (off : Nat) (v : Word) : State :=
  if off % 8 ≠ 0 then s
  else if off < 0x040000 then writeCtlLow s off v
  else if off < 0x050000 then writeCtlTranslation s off v
  else writeCtlHigh s off v

/-- What a register of BAR0 reads as: fused and derived ones, and those written (R449). DESIGN CHOICE (log 23): Table 3-7
gives the offsets 0x100 to 0x118 to RPRES8 to RPRES11 and to NLAT, PADM, MSTAT and MERR; they read as the latter. -/
def readControl (s : State) (off : Nat) : Word :=
  if regRpres ≤ off ∧ off < regNlat then
    BitVec.ofNat 64 ((List.range 64).foldl (fun x k => x + (regionPresent s (8 * (off - regRpres) + k)).toNat * 2 ^ k) 0)
  else if off = regLrevoke then
    BitVec.ofNat 64 (putBits (ctlGet s off).toNat 63 1 (!s.revoking.isEmpty).toNat)
  else if off = regDevid then devid s
  else if off = regFeat then feat
  else ctlGet s off

/-- Whether every byte of a range lies in memory that the host reaches, in the device or its own. -/
def hostReaches (s : State) (host : Bool) (p n : Nat) : Bool :=
  ((List.range n).map (p + ·)).all fun a => if host then isHost a else isDevice a && physPresent s a

/-- The device address of a host address in the HDM range; none below it (R446). -/
def hdmAddr (s : State) (h : Nat) : Option Nat := if s.hdmBase ≤ h then some (h - s.hdmBase) else none

/-- What the host's read of some places acquires, at .sys: none while what a release there carries cannot be performed yet
(R339, R350). -/
def hostAcquire (s : State) (ps : List Nat) : Option State := acquireFor .outside 5 ps s

/-- A host access that waits can be performed: its lines are free, memory is served, and a read finds what it acquires (R86,
R175, R339). -/
def postReady (s : State) (x : HostPost) : Bool :=
  !mustWait s (x.ws.map Prod.fst ++ (x.read.map Prod.fst).getD []) && (x.read.all fun r => (hostAcquire s r.1).isSome)

/-- A host read of device memory, after what commands have yet to write there: poison, or an abort with no data, of an
uncorrectable word (R446). -/
def hostLoad (s : State) (ps : List Nat) (cxl : Bool) : State :=
  let s := (hostAcquire s ps).getD s
  let bad := (firstUncorr s ps).isSome
  let s := quietTouch ps s
  let r : HostResponse :=
    if bad then (if cxl then .poison (List.replicate ps.length 0) else .abort) else .data (ps.map (memByte s))
  { s with hostResp := some r }

/-- A host write performed: at its lines' homes, whose L1 copies go first, each aligned 8-byte word at an instant of its
own (Table 11-2); in host memory, from which every device copy goes. A CXL.mem write then completes at the host (R350,
R351). -/
def hostStore (s : State) (x : HostPost) : State :=
  let ps := x.ws.map Prod.fst
  let s := performUnits (fun y => y.meets ps) s
  let s := landPlaces s .outside { split := true } x.ws
  let s := if x.toHost then l2Invalidate s ps else l2Touch s ps .normal .write
  if x.completes then { s with hostResp := some .written } else s

/-- A host access performed: a register write, a read or a write (R350, R446, R449). -/
def performPost (s : State) (x : HostPost) : State :=
  match x.reg, x.read with
  | some (off, v), _ => writeControl s off v
  | none, some (ps, cxl) => hostLoad s ps cxl
  | none, none => hostStore s x

/-- A posted write of requester and class `c` waits behind one of the same (R351). -/
def behind (blocked : List Nat) (x : HostPost) : Bool := x.order.any (blocked.contains ·)

/-- The waiting accesses that can be performed, in the order of their arrival; an ordered write follows the ones before it
of its requester and class (R351). -/
def flushPosts : List HostPost → List Nat → State → State
  | [], _, s => s
  | x :: xs, blocked, s =>
    if behind blocked x || !postReady s x then
      flushPosts xs (x.order.toList ++ blocked) { s with posted := s.posted ++ [x] }
    else flushPosts xs blocked (performPost s x)

/-- The host accesses that wait, as far as they can be performed. -/
def flushPosted (s : State) : State := if s.posted.isEmpty then s else flushPosts s.posted [] { s with posted := [] }

/-- A host write arrives: it is performed, or waits (R350, R351). -/
def arrive (s : State) (x : HostPost) : State := flushPosted { s with posted := s.posted ++ [x] }

/-- HOST_REG_WRITE, in the order of the posted writes (R351, R449). -/
def execHostRegWrite (off : BitVec 24) (v : Word) (s : State) : Answer :=
  .next (arrive s { ws := [], reg := some (off.toNat, v) })

/-- The order that a host write keeps, and whether it completes at the host (R351). -/
def wayOrder (way : HostWay) : Option Nat × Bool :=
  match way with
  | .posted c => (some c, false)
  | .relaxed => (none, false)
  | .cxlMem => (none, true)

/-- HOST_WRITE: a write of device memory at a host address, by one of the ways of R351 (R350, log 24). -/
def execHostWrite (h : HostPlace) (data : List Byte) (s : State) : Answer :=
  match hdmAddr s h.ha.toNat with
  | some p =>
    if hostReaches s false p data.length then
      .next (arrive s { ws := placed ((List.range data.length).map (p + ·)) data
                        order := (wayOrder h.way).1, completes := (wayOrder h.way).2 })
    else .fault .noSuchAddress
  | none => .fault .noSuchAddress

/-- HOST_MEMORY_WRITE: a host write of host memory removes every device copy of its lines (R350). -/
def execHostMemoryWrite (pa : BitVec 52) (data : List Byte) (s : State) : Answer :=
  if hostReaches s true pa.toNat data.length then
    .next (arrive s
      { ws := placed ((List.range data.length).map (pa.toNat + ·)) data, toHost := true, order := none })
  else .fault .noSuchAddress

/-- HOST_READ: device memory (R446), or by PCIe with bit 51 set a register of BAR0 at bits [23:0] (R449). -/
def execHostRead (ha : BitVec 52) (n : Nat) (cxl : Bool) (s : State) : Answer :=
  if ha.getLsbD 51 && !cxl then
    let off := ha.toNat % 2 ^ 24
    .next { s with hostResp := some (if n = 8 ∧ off % 8 = 0 then .data (bytesOfNat 8 (readControl s off).toNat)
      else .unsupported) }
  else match hdmAddr s ha.toNat with
    | some p =>
      if hostReaches s false p n then
        .next (arrive s { ws := [], read := some ((List.range n).map (p + ·), cxl), order := none })
      else .fault .noSuchAddress
    | none => .fault .noSuchAddress

/-! ### Function-level reset (R465) -/

/-- FLR: no task, command or queue is left; writes that have been committed or have arrived are performed. -/
def execFlr (s : State) : Answer :=
  let s := flushPosted (performAll { s with cmds := [] })
  .next { s with
    th := { id := s.th.id }, parked := [], tasks := [], colls := [], collEnds := [], nvme := [], sleepers := [], queues := []
    disp := [], endings := [], tlb := [], walks := [], fsRecs := [], portUp := 0, holdOut := false, revoking := [], invVa := 0
    marks := [], past := [], pending := [], posted := []
    hkc := { s.hkc with busy := none }, ctl := mergeKeys flrKeeps s.ctl ctlReset }

end Sys2Proof.Machine
end

