-- ==== Sys2Proof/Machine/Dispatch.lean ====
section
/-! DEFINITION. The meaning of each instruction and event: one arm per constructor of Instr. -/
namespace Sys2Proof.Machine

def exec (i : Instr) (s : State) : Host.Outcome State Fault Refusal :=
  match i with
  | .add d a b => Sys2Proof.Machine.execAdd d a b s
  | .sub d a b => Sys2Proof.Machine.execSub d a b s
  | .and d a b => Sys2Proof.Machine.execAnd d a b s
  | .or d a b => Sys2Proof.Machine.execOr d a b s
  | .xor d a b => Sys2Proof.Machine.execXor d a b s
  | .andn d a b => Sys2Proof.Machine.execAndn d a b s
  | .sll d a b => Sys2Proof.Machine.execSll d a b s
  | .srl d a b => Sys2Proof.Machine.execSrl d a b s
  | .sra d a b => Sys2Proof.Machine.execSra d a b s
  | .slt d a b => Sys2Proof.Machine.execSlt d a b s
  | .sltu d a b => Sys2Proof.Machine.execSltu d a b s
  | .min d a b => Sys2Proof.Machine.execMin d a b s
  | .max d a b => Sys2Proof.Machine.execMax d a b s
  | .minu d a b => Sys2Proof.Machine.execMinu d a b s
  | .maxu d a b => Sys2Proof.Machine.execMaxu d a b s
  | .mul d a b => Sys2Proof.Machine.execMul d a b s
  | .mulh d a b => Sys2Proof.Machine.execMulh d a b s
  | .mulhu d a b => Sys2Proof.Machine.execMulhu d a b s
  | .div d a b => Sys2Proof.Machine.execDiv d a b s
  | .divu d a b => Sys2Proof.Machine.execDivu d a b s
  | .rem d a b => Sys2Proof.Machine.execRem d a b s
  | .remu d a b => Sys2Proof.Machine.execRemu d a b s
  | .clz d a => Sys2Proof.Machine.execClz d a s
  | .ctz d a => Sys2Proof.Machine.execCtz d a s
  | .cpop d a => Sys2Proof.Machine.execCpop d a s
  | .addi d a imm => Sys2Proof.Machine.execAddi d a imm s
  | .andi d a imm => Sys2Proof.Machine.execAndi d a imm s
  | .ori d a imm => Sys2Proof.Machine.execOri d a imm s
  | .xori d a imm => Sys2Proof.Machine.execXori d a imm s
  | .slli d a n => Sys2Proof.Machine.execSlli d a n s
  | .srli d a n => Sys2Proof.Machine.execSrli d a n s
  | .srai d a n => Sys2Proof.Machine.execSrai d a n s
  | .slti d a imm => Sys2Proof.Machine.execSlti d a imm s
  | .sltiu d a imm => Sys2Proof.Machine.execSltiu d a imm s
  | .ldih d imm => Sys2Proof.Machine.execLdih d imm s
  | .addpc d imm => Sys2Proof.Machine.execAddpc d imm s
  | .beq a b o => Sys2Proof.Machine.execBeq a b o s
  | .bne a b o => Sys2Proof.Machine.execBne a b o s
  | .blt a b o => Sys2Proof.Machine.execBlt a b o s
  | .bge a b o => Sys2Proof.Machine.execBge a b o s
  | .bltu a b o => Sys2Proof.Machine.execBltu a b o s
  | .bgeu a b o => Sys2Proof.Machine.execBgeu a b o s
  | .j o => Sys2Proof.Machine.execJ o s
  | .jtab a n => Sys2Proof.Machine.execJtab a n s
  | .lb d a imm => Sys2Proof.Machine.execLb d a imm s
  | .lbu d a imm => Sys2Proof.Machine.execLbu d a imm s
  | .lh d a imm => Sys2Proof.Machine.execLh d a imm s
  | .lhu d a imm => Sys2Proof.Machine.execLhu d a imm s
  | .lw d a imm => Sys2Proof.Machine.execLw d a imm s
  | .lwu d a imm => Sys2Proof.Machine.execLwu d a imm s
  | .ld d a imm => Sys2Proof.Machine.execLd d a imm s
  | .ldaq d a scp => Sys2Proof.Machine.execLdaq d a scp s
  | .sb d a imm => Sys2Proof.Machine.execSb d a imm s
  | .sh d a imm => Sys2Proof.Machine.execSh d a imm s
  | .sw d a imm => Sys2Proof.Machine.execSw d a imm s
  | .sd d a imm => Sys2Proof.Machine.execSd d a imm s
  | .sdrl d a scp => Sys2Proof.Machine.execSdrl d a scp s
  | .amoadd d a b scp o => Sys2Proof.Machine.execAmoadd d a b scp o s
  | .amoswap d a b scp o => Sys2Proof.Machine.execAmoswap d a b scp o s
  | .amoand d a b scp o => Sys2Proof.Machine.execAmoand d a b scp o s
  | .amoor d a b scp o => Sys2Proof.Machine.execAmoor d a b scp o s
  | .amoxor d a b scp o => Sys2Proof.Machine.execAmoxor d a b scp o s
  | .amomax d a b scp o => Sys2Proof.Machine.execAmomax d a b scp o s
  | .amomin d a b scp o => Sys2Proof.Machine.execAmomin d a b scp o s
  | .amomaxu d a b scp o => Sys2Proof.Machine.execAmomaxu d a b scp o s
  | .amominu d a b scp o => Sys2Proof.Machine.execAmominu d a b scp o s
  | .cas d a b scp o => Sys2Proof.Machine.execCas d a b scp o s
  | .fence k sc scp => Sys2Proof.Machine.execFence k sc scp s
  | .barComplete t => Sys2Proof.Machine.execBarComplete t s
  | .waitc d a t => Sys2Proof.Machine.execWaitc d a t s
  | .waitv d t => Sys2Proof.Machine.execWaitv d t s
  | .waitq d q t => Sys2Proof.Machine.execWaitq d q t s
  | .waitReturn t => Sys2Proof.Machine.execWaitReturn t s
  | .waitTimeout t => Sys2Proof.Machine.execWaitTimeout t s
  | .spawn d q l => Sys2Proof.Machine.execSpawn d q l s
  | .csrr d c => Sys2Proof.Machine.execCsrr d c s
  | .csrw d a c => Sys2Proof.Machine.execCsrw d a c s
  | .csrs d a c => Sys2Proof.Machine.execCsrs d a c s
  | .csrc d a c => Sys2Proof.Machine.execCsrc d a c s
  | .trap imm => Sys2Proof.Machine.execTrap imm s
  | .brk imm => Sys2Proof.Machine.execBrk imm s
  | .convoy h ms => Sys2Proof.Machine.execConvoy h ms s
  | .setvl f => Sys2Proof.Machine.execSetvl f s
  | .setvlGrant t => Sys2Proof.Machine.execSetvlGrant t s
  | .setvt f => Sys2Proof.Machine.execSetvt f s
  | .vadd f => Sys2Proof.Machine.execVadd f s
  | .vsub f => Sys2Proof.Machine.execVsub f s
  | .vsadd f => Sys2Proof.Machine.execVsadd f s
  | .vssub f => Sys2Proof.Machine.execVssub f s
  | .vmin f => Sys2Proof.Machine.execVmin f s
  | .vmax f => Sys2Proof.Machine.execVmax f s
  | .vand f => Sys2Proof.Machine.execVand f s
  | .vor f => Sys2Proof.Machine.execVor f s
  | .vxor f => Sys2Proof.Machine.execVxor f s
  | .vandn f => Sys2Proof.Machine.execVandn f s
  | .vsll f => Sys2Proof.Machine.execVsll f s
  | .vsrl f => Sys2Proof.Machine.execVsrl f s
  | .vsra f => Sys2Proof.Machine.execVsra f s
  | .vshrr f => Sys2Proof.Machine.execVshrr f s
  | .vmul f => Sys2Proof.Machine.execVmul f s
  | .vmulh f => Sys2Proof.Machine.execVmulh f s
  | .vmacc f => Sys2Proof.Machine.execVmacc f s
  | .vabs f => Sys2Proof.Machine.execVabs f s
  | .vneg f => Sys2Proof.Machine.execVneg f s
  | .vclz f => Sys2Proof.Machine.execVclz f s
  | .vcpop f => Sys2Proof.Machine.execVcpop f s
  | .vcmp f => Sys2Proof.Machine.execVcmp f s
  | .vmerge f => Sys2Proof.Machine.execVmerge f s
  | .vmv f => Sys2Proof.Machine.execVmv f s
  | .vmvs f => Sys2Proof.Machine.execVmvs f s
  | .vslup f => Sys2Proof.Machine.execVslup f s
  | .vsldn f => Sys2Proof.Machine.execVsldn f s
  | .vperm f => Sys2Proof.Machine.execVperm f s
  | .vcompr f => Sys2Proof.Machine.execVcompr f s
  | .vexpnd f => Sys2Proof.Machine.execVexpnd f s
  | .vbfx f => Sys2Proof.Machine.execVbfx f s
  | .vbfi f => Sys2Proof.Machine.execVbfi f s
  | .vwid f => Sys2Proof.Machine.execVwid f s
  | .vnar f => Sys2Proof.Machine.execVnar f s
  | .vred f => Sys2Proof.Machine.execVred f s
  | .viota f => Sys2Proof.Machine.execViota f s
  | .kand f => Sys2Proof.Machine.execKand f s
  | .kor f => Sys2Proof.Machine.execKor f s
  | .kxor f => Sys2Proof.Machine.execKxor f s
  | .kandn f => Sys2Proof.Machine.execKandn f s
  | .knot f => Sys2Proof.Machine.execKnot f s
  | .kwhile f => Sys2Proof.Machine.execKwhile f s
  | .kbefore f => Sys2Proof.Machine.execKbefore f s
  | .kincl f => Sys2Proof.Machine.execKincl f s
  | .kfirst f => Sys2Proof.Machine.execKfirst f s
  | .kpopc f => Sys2Proof.Machine.execKpopc f s
  | .klast f => Sys2Proof.Machine.execKlast f s
  | .kmv f => Sys2Proof.Machine.execKmv f s
  | .vld f => Sys2Proof.Machine.execVld f s
  | .vlds f => Sys2Proof.Machine.execVlds f s
  | .vldx f => Sys2Proof.Machine.execVldx f s
  | .vldff f => Sys2Proof.Machine.execVldff f s
  | .vst f => Sys2Proof.Machine.execVst f s
  | .vsts f => Sys2Proof.Machine.execVsts f s
  | .vstx f => Sys2Proof.Machine.execVstx f s
  | .vldl f => Sys2Proof.Machine.execVldl f s
  | .vstl f => Sys2Proof.Machine.execVstl f s
  | .qld f => Sys2Proof.Machine.execQld f s
  | .qlds f => Sys2Proof.Machine.execQlds f s
  | .qgath f => Sys2Proof.Machine.execQgath f s
  | .qclr f => Sys2Proof.Machine.execQclr f s
  | .queueFillArrival t q => Sys2Proof.Machine.execQueueFillArrival t q s
  | .vamoadd f => Sys2Proof.Machine.execVamoadd f s
  | .vamomax f => Sys2Proof.Machine.execVamomax f s
  | .vamomin f => Sys2Proof.Machine.execVamomin f s
  | .vamoxchg f => Sys2Proof.Machine.execVamoxchg f s
  | .vcapp f => Sys2Proof.Machine.execVcapp f s
  | .vcappRoom t => Sys2Proof.Machine.execVcappRoom t s
  | .vconfl f => Sys2Proof.Machine.execVconfl f s
  | .lsync f => Sys2Proof.Machine.execLsync f s
  | .vpref f => Sys2Proof.Machine.execVpref f s
  | .vcvt src f => Sys2Proof.Machine.execVcvt src f s
  | .vqnt f => Sys2Proof.Machine.execVqnt f s
  | .vqntAmax f => Sys2Proof.Machine.execVqntAmax f s
  | .vdqnt f => Sys2Proof.Machine.execVdqnt f s
  | .vsclMxin f => Sys2Proof.Machine.execVsclMxin f s
  | .vsclMxout f => Sys2Proof.Machine.execVsclMxout f s
  | .vsclAdde f => Sys2Proof.Machine.execVsclAdde f s
  | .vsclMxe4m3 f => Sys2Proof.Machine.execVsclMxe4m3 f s
  | .vsclMxe5m2 f => Sys2Proof.Machine.execVsclMxe5m2 f s
  | .vhad f => Sys2Proof.Machine.execVhad f s
  | .vlmul f => Sys2Proof.Machine.execVlmul f s
  | .vldiv f => Sys2Proof.Machine.execVldiv f s
  | .vladd f => Sys2Proof.Machine.execVladd f s
  | .vlsub f => Sys2Proof.Machine.execVlsub f s
  | .vlexp f => Sys2Proof.Machine.execVlexp f s
  | .vllog f => Sys2Proof.Machine.execVllog f s
  | .vlcmp f => Sys2Proof.Machine.execVlcmp f s
  | .vtlu f => Sys2Proof.Machine.execVtlu f s
  | .vtld f => Sys2Proof.Machine.execVtld f s
  | .vrand f => Sys2Proof.Machine.execVrand f s
  | .seed f => Sys2Proof.Machine.execSeed f s
  | .vamax f => Sys2Proof.Machine.execVamax f s
  | .blease f => Sys2Proof.Machine.execBlease f s
  | .brels f => Sys2Proof.Machine.execBrels f s
  | .bstat f => Sys2Proof.Machine.execBstat f s
  | .cbld f => Sys2Proof.Machine.execCbld f s
  | .tload f => Sys2Proof.Machine.execTload f s
  | .tstore f => Sys2Proof.Machine.execTstore f s
  | .tbuild f => Sys2Proof.Machine.execTbuild f s
  | .tquery f => Sys2Proof.Machine.execTquery f s
  | .luacc f => Sys2Proof.Machine.execLuacc f s
  | .luaccKv f => Sys2Proof.Machine.execLuaccKv f s
  | .uadd f => Sys2Proof.Machine.execUadd f s
  | .usub f => Sys2Proof.Machine.execUsub f s
  | .umax f => Sys2Proof.Machine.execUmax f s
  | .umin f => Sys2Proof.Machine.execUmin f s
  | .ushl f => Sys2Proof.Machine.execUshl f s
  | .ushr f => Sys2Proof.Machine.execUshr f s
  | .umov f => Sys2Proof.Machine.execUmov f s
  | .uclr f => Sys2Proof.Machine.execUclr f s
  | .usat f => Sys2Proof.Machine.execUsat f s
  | .ucvt f => Sys2Proof.Machine.execUcvt f s
  | .bred f => Sys2Proof.Machine.execBred f s
  | .vtou f => Sys2Proof.Machine.execVtou f s
  | .utov f => Sys2Proof.Machine.execUtov f s
  | .xcopy f => Sys2Proof.Machine.execXcopy f s
  | .xcopym f => Sys2Proof.Machine.execXcopym f s
  | .xfill f => Sys2Proof.Machine.execXfill f s
  | .xstrm f => Sys2Proof.Machine.execXstrm f s
  | .xsclose f => Sys2Proof.Machine.execXsclose f s
  | .xstorRead f => Sys2Proof.Machine.execXstorRead f s
  | .xstorWrite f => Sys2Proof.Machine.execXstorWrite f s
  | .xstorFlush f => Sys2Proof.Machine.execXstorFlush f s
  | .xcoll f => Sys2Proof.Machine.execXcoll f s
  | .xcancel f => Sys2Proof.Machine.execXcancel f s
  | .engineAccept t => Sys2Proof.Machine.execEngineAccept t s
  | .commandCompletion c => Sys2Proof.Machine.execCommandCompletion c s
  | .streamBlock c => Sys2Proof.Machine.execStreamBlock c s
  | .collectiveMatch g => Sys2Proof.Machine.execCollectiveMatch g s
  | .kbindBind f => Sys2Proof.Machine.execKbindBind f s
  | .kbindUnbind f => Sys2Proof.Machine.execKbindUnbind f s
  | .kbindRebind f => Sys2Proof.Machine.execKbindRebind f s
  | .kcheck f => Sys2Proof.Machine.execKcheck f s
  | .kvWaitRelease t => Sys2Proof.Machine.execKvWaitRelease t s
  | .ksplice f => Sys2Proof.Machine.execKsplice f s
  | .spliceExecute c => Sys2Proof.Machine.execSpliceExecute c s
  | .kprobe f => Sys2Proof.Machine.execKprobe f s
  | .krepair f => Sys2Proof.Machine.execKrepair f s
  | .fidPlanStart m => Sys2Proof.Machine.execFidPlanStart m s
  | .fidMark c => Sys2Proof.Machine.execFidMark c s
  | .fidTaskSubmit c => Sys2Proof.Machine.execFidTaskSubmit c s
  | .fidSeal c => Sys2Proof.Machine.execFidSeal c s
  | .fidAbandon c => Sys2Proof.Machine.execFidAbandon c s
  | .kcommit f => Sys2Proof.Machine.execKcommit f s
  | .kstateRead f => Sys2Proof.Machine.execKstateRead f s
  | .kstateLoc f => Sys2Proof.Machine.execKstateLoc f s
  | .kstateFill f => Sys2Proof.Machine.execKstateFill f s
  | .kstateClean f => Sys2Proof.Machine.execKstateClean f s
  | .kstateReopen f => Sys2Proof.Machine.execKstateReopen f s
  | .krels f => Sys2Proof.Machine.execKrels f s
  | .faultServiceRecord t => Sys2Proof.Machine.execFaultServiceRecord t s
  | .watchdogExpiry t => Sys2Proof.Machine.execWatchdogExpiry t s
  | .dispatchRound m => Sys2Proof.Machine.execDispatchRound m s
  | .successorSubmit k => Sys2Proof.Machine.execSuccessorSubmit k s
  | .tabort k => Sys2Proof.Machine.execTabort k s
  | .vwait => Sys2Proof.Machine.execVwait s
  | .bar => Sys2Proof.Machine.execBar s
  | .nop => Sys2Proof.Machine.execNop s
  | .yield_ => Sys2Proof.Machine.execYield s
  | .halt => Sys2Proof.Machine.execHalt s
  | .tret => Sys2Proof.Machine.execTret s
  | .mcfgLock => Sys2Proof.Machine.execMcfgLock s
  | .memInitDone => Sys2Proof.Machine.execMemInitDone s
  | .merrClear => Sys2Proof.Machine.execMerrClear s
  | .leaseHoldExpiry => Sys2Proof.Machine.execLeaseHoldExpiry s
  | .gerrClear => Sys2Proof.Machine.execGerrClear s
  | .tlbinvComplete => Sys2Proof.Machine.execTlbinvComplete s
  | .icinvGo => Sys2Proof.Machine.execIcinvGo s
  | .mbSeal => Sys2Proof.Machine.execMbSeal s
  | .mbVerify => Sys2Proof.Machine.execMbVerify s
  | .mbAttest => Sys2Proof.Machine.execMbAttest s
  | .mbFwupdate => Sys2Proof.Machine.execMbFwupdate s
  | .mbRekey => Sys2Proof.Machine.execMbRekey s
  | .mbCompletion => Sys2Proof.Machine.execMbCompletion s
  | .ucieLinkFailure => Sys2Proof.Machine.execUcieLinkFailure s
  | .perst => Sys2Proof.Machine.execPerst s
  | .flr => Sys2Proof.Machine.execFlr s
  | .shutdownTemperature => Sys2Proof.Machine.execShutdownTemperature s
  | .driveCompletion c p sf data => Sys2Proof.Machine.execDriveCompletion c p sf data s
  | .driveTimeout n => Sys2Proof.Machine.execDriveTimeout n s
  | .pcBoundary p => Sys2Proof.Machine.execPcBoundary p s
  | .refreshInterval p => Sys2Proof.Machine.execRefreshInterval p s
  | .patrolScrub b r => Sys2Proof.Machine.execPatrolScrub b r s
  | .pgraceExpiry t => Sys2Proof.Machine.execPgraceExpiry t s
  | .lgraceExpiry t => Sys2Proof.Machine.execLgraceExpiry t s
  | .lrevoke k => Sys2Proof.Machine.execLrevoke k s
  | .qdoor q => Sys2Proof.Machine.execQdoor q s
  | .preqset k => Sys2Proof.Machine.execPreqset k s
  | .tlbinvWrite v => Sys2Proof.Machine.execTlbinvWrite v s
  | .fsreplyRetry tag => Sys2Proof.Machine.execFsreplyRetry tag s
  | .fsreplyFault tag => Sys2Proof.Machine.execFsreplyFault tag s
  | .fsreplyExhausted tag => Sys2Proof.Machine.execFsreplyExhausted tag s
  | .lmodeWrite n v => Sys2Proof.Machine.execLmodeWrite n v s
  | .drvctlBind n v => Sys2Proof.Machine.execDrvctlBind n v s
  | .drvctlUnbind n v => Sys2Proof.Machine.execDrvctlUnbind n v s
  | .mbBadCommand v => Sys2Proof.Machine.execMbBadCommand v s
  | .hostRegWrite off v => Sys2Proof.Machine.execHostRegWrite off v s
  | .hostWrite pa data => Sys2Proof.Machine.execHostWrite pa data s
  | .hostRead pa n cxl => Sys2Proof.Machine.execHostRead pa n cxl s
  | .hostMemoryWrite pa data => Sys2Proof.Machine.execHostMemoryWrite pa data s
  | .peerDataArrival c r data => Sys2Proof.Machine.execPeerDataArrival c r data s
  | .stackHot scp => Sys2Proof.Machine.execStackHot scp s
  | .thermalThrottle stack => Sys2Proof.Machine.execThermalThrottle stack s
  | .stackCool scp => Sys2Proof.Machine.execStackCool scp s
  | .driveLinkTrained n => Sys2Proof.Machine.execDriveLinkTrained n s
  | .portTrained n => Sys2Proof.Machine.execPortTrained n s
  | .peerUnreachable c => Sys2Proof.Machine.execPeerUnreachable c s
  | .firmwareHdmaDisable n => Sys2Proof.Machine.execFirmwareHdmaDisable n s

end Sys2Proof.Machine
end

