-- ==== Sys2Proof/Machine/Run.lean ====
section
/-! DEFINITION. How the machine moves: time, the watchdog, fetching and performing the instruction of a
thread (R45, R358, R360), and what moves when every thread waits (log 2). -/
namespace Sys2Proof.Machine

/-- The watchdog of a thread after some cycles of its core: one count per 1,024 of them, outside trap mode, and
due when it has counted down (R358). -/
def tickWatchdog (n : Nat) (th : Thread) : Thread :=
  if th.csr.wdog = 0 ∨ th.trap.mode ∨ th.task = none then th
  else
    let total := th.csr.wdogElapsed.toNat + n
    let left := th.csr.wdog.toNat - total / 1024
    { th with csr := { th.csr with
      wdog := BitVec.ofNat 32 left, wdogElapsed := BitVec.ofNat 10 total
      wdogDue := th.csr.wdogDue || decide (left = 0) } }

/-- What is left of a limited wait after some cycles of the core (R376). -/
def tickWait (n : Nat) (th : Thread) : Thread :=
  match th.wait with
  | some (.event (some left)) => { th with wait := some (.event (some (left - n))) }
  | _ => th

/-- A thread after the cycles that its core has counted. -/
def tickThread (n : Nat → Nat) (th : Thread) : Thread := tickWait (n (coreOf th)) (tickWatchdog (n (coreOf th)) th)

/-- Cycles pass, on each core its own number: CYCLE, the watchdogs and the limited waits advance; and host writes that
waited are performed if they can be (R6, R351, R358, R359, R376, log 10). -/
def tick (s : State) : State :=
  let n := Config.cycles s.free
  flushPosted { updThreads s (tickThread n) with
    cycles := Vector.ofFn fun k : Fin 64 => s.cycles[k] + BitVec.ofNat 64 (n k), free := s.free + 1, hostFills := [] }

/-- A thread that runs: it holds a task that has not ended and is not about to, neither it nor the package is held, and no storage of its gang
is still to be zeroed (R398). -/
def canRun (s : State) (th : Thread) : Bool :=
  match th.task.bind (findTask s) with
  | some t => t.status == .running && !t.aborting && !th.trap.frozen && !s.stopped && (gangOf s t.base).all fun k => k.zeroing.isEmpty
  | none => false

/-- The thread has not found that it must wait: its vector side has gone on. -/
def tryAgain (s : State) : State := updTh s fun th => { th with stall := false }

/-- The vector side of the thread moves on, when it can and is not left to its own turns (log 2). -/
def vectorMove (s : State) : Option State :=
  if s.vlag || vectorHeld s then none
  else
    let s' := drainTurn s
    if sameMachine s s' then none else some (tryAgain s')

/-- The grace of a pre-emption request has run out outside trap mode (R406). -/
def graceSpent (s : State) : Bool :=
  match curTask s with
  | some t => t.graceOut && !s.th.trap.mode
  | none => false

/-- An instruction in the VIQ has yet to write its scalar register (R195). -/
def scalarPending (s : State) : Bool := !s.th.trap.mode && s.th.viq.any fun e => writesScalar e.insn

/-- What comes before the thread's next instruction: the watchdog's trap (R358), a forced pre-emption
(R406), a move of the vector side, or the wait for a scalar result (R195). -/
def beforeFetch (s : State) : Option Answer :=
  if s.th.csr.wdogDue && !s.th.trap.mode then some (execWatchdogExpiry s.th.id s)
  else if graceSpent s then
    some (.next (match forcePreempt s with
      | some s' => s'
      | none => stallAt s))
  else match vectorMove s with
    | some s' => some (.next s')
    | none =>
      if scalarPending s then
        let s' := drainTurn s
        some (.next (if sameMachine s s' then stallAt s else tryAgain s'))
      else none

/-- A thread whose fetch went through: a wait of the fetch for fault service is over. -/
def fetched (th : Thread) : Thread :=
  { th with
    stall := false
    fsw := match th.fsw with
      | some w => if w.fetch then none else some w
      | none => none }

/-- The thread at its turn: what comes first, else the instruction at PC (R45). -/
def runThread (s : State) : Answer :=
  if !canRun s s.th then .next s
  else match beforeFetch s with
    | some r => r
    | none =>
      match fetchInstr s with
      | .ok i s' => exec i (updTh s' fetched)
      | .error e s' => .next (settle false s (.error e s'))

/-- An answer with its next state changed. -/
def thenDo (r : Answer) (f : State → State) : Answer :=
  match r with
  | .next s => .next (f s)
  | .fault x => .fault x
  | .refused x => .refused x

/-- What moves when the agenda names it. -/
def runTurn (t : Turn) (s : State) : Answer :=
  match t with
  | .thread n =>
    match switchTo s n with
    | some s' => runThread s'
    | none => .next s
  | .vector n => .next (onThread s n drainTurn)
  | .store n => .next (performOne s n)
  | .retire id => .next (retireAborted id s)
  | .event e => exec e s

/-- The turns and events of the device that may be enabled and that are no timeout (log 2). -/
def background (s : State) : List Turn :=
  ((threads s).flatMap fun t =>
    [.vector t.id, .event (.waitReturn t.id), .event (.barComplete t.id), .event (.setvlGrant t.id),
      .event (.engineAccept t.id), .event (.kvWaitRelease t.id), .event (.vcappRoom t.id)] ++
    (List.range 8).map fun q => .event (.queueFillArrival t.id (BitVec.ofNat 3 q))) ++
  (s.cmds.flatMap fun c =>
    [.event (.commandCompletion c.id), .event (.streamBlock c.id), .event (.spliceExecute c.id), .event (.fidMark c.id),
      .event (.fidTaskSubmit c.id), .event (.fidSeal c.id), .event (.fidAbandon c.id)] ++
    (match c.prog with
     | .coll g => [.event (.collectiveMatch g.group)]
     | _ => [])) ++
  ((threads s).map fun t => .event (.faultServiceRecord t.id)) ++
  (s.endings.map fun e => .event (.successorSubmit e.key)) ++
  ((s.debt.map Prod.fst ++ s.revoking.map Prod.snd ++ ((threads s).flatMap headRuns).map PcRun.pc).map fun p => .event (.pcBoundary (BitVec.ofNat 9 p))) ++
  (((s.pending.map PendingStore.thread).eraseDups).map fun n => .store n) ++
  ((s.tasks.filter Task.aborting).map fun t => .retire t.id) ++
  ((List.range 4).flatMap fun m =>
    [.event (.fidPlanStart (BitVec.ofNat 2 m)), .event (.dispatchRound (BitVec.ofNat 2 m))]) ++
  [.event .tlbinvComplete, .event .memInitDone, .event .mbCompletion]

/-- Those events, and the timeouts after them. -/
def candidates (s : State) : List Turn := background s ++ (threads s).map fun t => .event (.waitTimeout t.id)

/-- The first of some moves that changes the package, performed. -/
def firstMove (s : State) : List Turn → Answer
  | [] => .next s
  | t :: rest =>
    let r := runTurn t s
    match r with
    | .next s' => if sameMachine s s' then firstMove s rest else r
    | r => r

/-- No thread is marked as stalled. -/
def unstall (s : State) : State := updThreads s fun th => { th with stall := false }

/-- One turn in so many is the events' (log 2). -/
def turnLimit : Nat := 64

/-- The events' turn: every pending store is performed that can be, and the first enabled event; each time the search
begins one further on (log 2). -/
def eventTurn (s : State) : Answer :=
  let s := performAll { s with turns := s.turns + 1 }
  let es := background s
  firstMove s (es.rotateLeft (s.turns / turnLimit % (es.length + 1)))

/-- The thread whose issue turn it is, and the thread that issues at it: the next ready one of the same core when YIELD gave
the turn away (R360, R381). -/
def issuer (s : State) : Option (Nat × Nat) :=
  match (s.th :: s.parked).filter (canRun s) with
  | [] => none
  | t :: rest =>
    let heir := if t.yielded then rest.find? fun u => coreOf u == coreOf t && !u.stall else none
    some (t.id, (heir.getD t).id)

/-- A turn that YIELD gave away has passed. -/
def takeTurn (n : Nat) (th : Thread) : Thread := if th.id = n then { th with yielded := false } else th

/-- The turn of thread `t`, at which thread `u` issues. -/
def threadTurn (s : State) (t u : Nat) : Answer :=
  let s := updThreads { s with turns := s.turns + 1 } (takeTurn t)
  match switchTo s t with
  | none => .next s
  | some s =>
    if u = t then thenDo (runThread s) rotate
    else match switchTo s u with
      | none => .next s
      | some s' => thenDo (runThread s') fun r => rotate (reorder s r)

/-- Some thread can go on: it has not found at its last turn that it must wait. -/
def someReady (s : State) : Bool := (s.th :: s.parked).any fun t => canRun s t && !t.stall

/-- What moves when the agenda is empty: the threads in round robin, those that wait trying again (R360); the first
enabled event when every one of them waits, and at the events' turn. -/
def runIdle (s : State) : Answer :=
  if s.turns % turnLimit = turnLimit - 1 then eventTurn s
  else if someReady s then
    match issuer s with
    | some (t, u) => threadTurn s t u
    | none => .next s
  else thenDo (firstMove s (candidates s)) unstall

/-- One move of the machine. -/
def move (s : State) : Answer :=
  let s := tick s
  match s.agenda with
  | t :: rest => runTurn t { s with agenda := rest }
  | [] => runIdle s

/-! ### Placing one instruction (the host's check) -/

/-- The record of the task that runs a placed word: format 1, address space 1. -/
def placedRecord : BitVec 1024 := BitVec.ofNat 1024 (2 ^ (8 * 0x18 + 48) + 2 ^ (8 * 0x20 + 24))

/-- A page table that maps virtual addresses below 2^30 to region 1 with every permission: the entry of
address space 1, the root entry and the leaf, at physical 0x1000, 0x100000 and 0x200000. -/
def placedTables : List (Nat × Nat) :=
  [(0x1000 + 8, 0x100001), (0x100000, 0x200001), (0x200000, 0x40000000 + 0x3F)]

/-- Memory with a doubleword at an address. -/
def putDword (m : Memory) (p v : Nat) : Memory := memPut m p (bytesOfNat 8 v)

/-- The program counter of a placed word: a convoy's header stands at 4 modulo 8 (R66). -/
def placedPc (w : Nat) : Word := if w % 256 = 0xC0 then 4 else 0

/-- The package with an instruction where the next step fetches (log 13): memory served, address space 1
mapped, a task on the thread whose turn it is, the instruction's bytes at its PC. -/
def placeWord (s : State) (nbits w : Nat) : State :=
  let pc := placedPc w
  let m := placedTables.foldl (fun m e => putDword m e.1 e.2) s.mem
  let m := memPut m (2 ^ 30 + pc.toNat) (bytesOfNat (4 * maxParcels) (w % 2 ^ nbits))
  let s := ctlSet (ctlSet s regMcfg 3) regAstbase 0x1000
  { s with
    mem := m, uncorr := [], tlb := [], walks := [], l1i := [], l1d := [], agenda := [], turns := 0, stopped := false
    cmds := [], pending := [], marks := [], past := [], posted := [], revoking := [], group := {}
    tasks := [{ id := 1, base := 1, launch := placedRecord }]
    parked := []
    th := { s.th with
      task := some 1, pc := pc, viq := [], wait := none, fsw := none, vfsw := none, stall := false
      yielded := false, csr := { s.th.csr with wdogDue := false }
      trap := { s.th.trap with mode := false, frozen := false } } }

end Sys2Proof.Machine
end

