-- ==== Sys2Proof/Machine/Step.lean ====
section
/-! DEFINITION. One step of the machine. -/
namespace Sys2Proof.Machine

/-- One step: what the agenda names, or the next thread's instruction, or an enabled event (log 2). -/
def step (s : State) : Host.Outcome State Fault Refusal := move s

/-- The machine with an instruction placed where `step` fetches next (log 13). -/
def State.withFetchWord (s : State) (nbits w : Nat) : State := placeWord s nbits w

end Sys2Proof.Machine
end

