-- ==== Sys2Proof/Certificates/Slice0/Obligations.lean ====
section
/-! DEFINITION. The statements for the provers, and the vocabulary they are written in. -/
namespace Sys2Proof.Claims
open Sys2Proof.Machine

/-! ### Vocabulary -/

/-- Everything but the scalar registers (s62 in trap mode among them) and PC is unchanged. -/
def OnlyScalars (s t : State) : Prop :=
  t = { s with th := { s.th with sr := t.th.sr, pc := t.th.pc, trap := { s.th.trap with hs := t.th.trap.hs } } }

/-- Every scalar register but `d` is unchanged, and s0 reads 0. -/
def OtherRegs (d : Reg) (s t : State) : Prop := getR t 0 = 0 ∧ ∀ r, r ≠ d → getR t r = getR s r

/-- The integer a doubleword stands for in two's complement. -/
def signed (x : Word) : Int := x.toInt

/-- The quotient of R363, saturated where the exact one does not fit. -/
def divS (a b : Word) : Word :=
  if b = 0 then (if a = 0 then 0 else if signed a < 0 then BitVec.intMin 64 else BitVec.intMax 64)
  else if a = BitVec.intMin 64 ∧ b = BitVec.allOnes 64 then BitVec.intMax 64
  else BitVec.ofInt 64 ((signed a).tdiv (signed b))

/-- The unsigned quotient of R363. -/
def divU (a b : Word) : Word :=
  if b = 0 then (if a = 0 then 0 else BitVec.allOnes 64) else BitVec.ofNat 64 (a.toNat / b.toNat)

/-- The remainder of R363: 0 where the quotient has no ordinary value. -/
def remS (a b : Word) : Word :=
  if b = 0 then 0 else if a = BitVec.intMin 64 ∧ b = BitVec.allOnes 64 then 0
  else BitVec.ofInt 64 ((signed a).tmod (signed b))

/-- The unsigned remainder of R363. -/
def remU (a b : Word) : Word := if b = 0 then 0 else BitVec.ofNat 64 (a.toNat % b.toNat)

/-- A truth value as 1 or 0. -/
def bit (b : Bool) : Word := if b then 1 else 0

/-- What the register ALU instructions of Table 12-3 write, and where. -/
def aluValue (i : Instr) (s : State) : Option (Reg × Word) :=
  let x := getR s
  match i with
  | .add d a b => some (d, x a + x b)
  | .sub d a b => some (d, x a - x b)
  | .and d a b => some (d, x a &&& x b)
  | .or d a b => some (d, x a ||| x b)
  | .xor d a b => some (d, x a ^^^ x b)
  | .andn d a b => some (d, x a &&& ~~~ x b)
  | .sll d a b => some (d, x a <<< (x b % 64).toNat)
  | .srl d a b => some (d, x a >>> (x b % 64).toNat)
  | .sra d a b => some (d, (x a).sshiftRight (x b % 64).toNat)
  | .slt d a b => some (d, bit (decide (signed (x a) < signed (x b))))
  | .sltu d a b => some (d, bit (decide ((x a).toNat < (x b).toNat)))
  | .min d a b => some (d, BitVec.ofInt 64 (min (signed (x a)) (signed (x b))))
  | .max d a b => some (d, BitVec.ofInt 64 (max (signed (x a)) (signed (x b))))
  | .minu d a b => some (d, BitVec.ofNat 64 (min (x a).toNat (x b).toNat))
  | .maxu d a b => some (d, BitVec.ofNat 64 (max (x a).toNat (x b).toNat))
  | .mul d a b => some (d, BitVec.ofInt 64 (signed (x a) * signed (x b)))
  | .mulh d a b => some (d, (((x a).signExtend 128 * (x b).signExtend 128) >>> 64).setWidth 64)
  | .mulhu d a b => some (d, (((x a).setWidth 128 * (x b).setWidth 128) >>> 64).setWidth 64)
  | .div d a b => some (d, divS (x a) (x b))
  | .divu d a b => some (d, divU (x a) (x b))
  | .rem d a b => some (d, remS (x a) (x b))
  | .remu d a b => some (d, remU (x a) (x b))
  | _ => none

/-- What the immediate ALU instructions write, and where (R361, R364): immediates are sign-extended, LDIH
writes imm18 · 4096 and ADDPC the instruction's address + imm18 · 4. -/
def aluImmValue (i : Instr) (s : State) : Option (Reg × Word) :=
  let x := getR s
  let c (imm : BitVec 12) : Word := BitVec.ofInt 64 imm.toInt
  match i with
  | .addi d a imm => some (d, x a + c imm)
  | .andi d a imm => some (d, x a &&& c imm)
  | .ori d a imm => some (d, x a ||| c imm)
  | .xori d a imm => some (d, x a ^^^ c imm)
  | .slli d a n => some (d, x a <<< n.toNat)
  | .srli d a n => some (d, x a >>> n.toNat)
  | .srai d a n => some (d, (x a).sshiftRight n.toNat)
  | .slti d a imm => some (d, bit (decide (signed (x a) < imm.toInt)))
  | .sltiu d a imm => some (d, bit (decide ((x a).toNat < (c imm).toNat)))
  | .ldih d imm => some (d, BitVec.ofInt 64 (imm.toInt * 4096))
  | .addpc d imm => some (d, s.th.pc + BitVec.ofInt 64 (imm.toInt * 4))
  | _ => none

/-- Where a branch goes (R366, R367), from its own address. -/
def branchTarget (i : Instr) (s : State) : Option Word :=
  let x := getR s
  let go (b : Bool) (o : BitVec 12) := some (if b then s.th.pc + BitVec.ofInt 64 (o.toInt * 4) else s.th.pc + 4)
  match i with
  | .beq a b o => go (decide (x a = x b)) o
  | .bne a b o => go (decide (x a ≠ x b)) o
  | .blt a b o => go (decide (signed (x a) < signed (x b))) o
  | .bge a b o => go (decide (signed (x b) ≤ signed (x a))) o
  | .bltu a b o => go (decide ((x a).toNat < (x b).toNat)) o
  | .bgeu a b o => go (decide ((x b).toNat ≤ (x a).toNat)) o
  | .j o => some (s.th.pc + BitVec.ofInt 64 (o.toInt * 4))
  | .jtab a n => some (s.th.pc + 4 + BitVec.ofNat 64 (4 * min (x a).toNat n.toNat))
  | _ => none

/-- The access of a scalar load: destination, address, bytes, and whether the value is sign-extended (R368). -/
def loadOf (i : Instr) (s : State) : Option (Reg × Word × Nat × Bool) :=
  let ea (a : Reg) (imm : BitVec 12) : Word := getR s a + BitVec.ofInt 64 imm.toInt
  match i with
  | .lb d a imm => some (d, ea a imm, 1, true)
  | .lbu d a imm => some (d, ea a imm, 1, false)
  | .lh d a imm => some (d, ea a imm, 2, true)
  | .lhu d a imm => some (d, ea a imm, 2, false)
  | .lw d a imm => some (d, ea a imm, 4, true)
  | .lwu d a imm => some (d, ea a imm, 4, false)
  | .ld d a imm => some (d, ea a imm, 8, false)
  | .ldaq d a _ => some (d, getR s a, 8, false)
  | _ => none

/-- The access of a scalar store: source register, address, bytes (R368). -/
def storeOf (i : Instr) (s : State) : Option (Reg × Word × Nat) :=
  let ea (a : Reg) (imm : BitVec 12) : Word := getR s a + BitVec.ofInt 64 imm.toInt
  match i with
  | .sb d a imm => some (d, ea a imm, 1)
  | .sh d a imm => some (d, ea a imm, 2)
  | .sw d a imm => some (d, ea a imm, 4)
  | .sd d a imm => some (d, ea a imm, 8)
  | .sdrl d a _ => some (d, getR s a, 8)
  | _ => none

/-- The access of a scalar atomic: destination, address, the new doubleword from the old one, scope and
order (R371). -/
def atomicOf (i : Instr) (s : State) : Option (Reg × Word × (Word → Word) × BitVec 3 × BitVec 2) :=
  let x := getR s
  match i with
  | .amoadd d a b sc o => some (d, x a, fun old => old + x b, sc, o)
  | .amoswap d a b sc o => some (d, x a, fun _ => x b, sc, o)
  | .amoand d a b sc o => some (d, x a, fun old => old &&& x b, sc, o)
  | .amoor d a b sc o => some (d, x a, fun old => old ||| x b, sc, o)
  | .amoxor d a b sc o => some (d, x a, fun old => old ^^^ x b, sc, o)
  | .amomax d a b sc o => some (d, x a, fun old => BitVec.ofInt 64 (max (signed old) (signed (x b))), sc, o)
  | .amomin d a b sc o => some (d, x a, fun old => BitVec.ofInt 64 (min (signed old) (signed (x b))), sc, o)
  | .amomaxu d a b sc o => some (d, x a, fun old => BitVec.ofNat 64 (max old.toNat (x b).toNat), sc, o)
  | .amominu d a b sc o => some (d, x a, fun old => BitVec.ofNat 64 (min old.toNat (x b).toNat), sc, o)
  | .cas d a b sc o => some (d, x a, fun old => if old = x d then x b else old, sc, o)
  | _ => none

/-- Nothing about some places is open: no older byte of theirs may still be read, no store of the thread or of a command to
them waits to be performed, and no queue load of the thread has yet to read them (R175, R197, R335, R336). -/
def NothingOpen (s : State) (ps : List Nat) : Prop :=
  (∀ x ∈ s.past, x.p ∉ ps) ∧ (∀ x ∈ s.pending, x.thread = s.th.id ∨ x.cmd ≠ none → ∀ w ∈ x.ws, w.p ∉ ps) ∧
  ∀ q ∈ s.th.q.toList, ∀ e ∈ q, ∀ x ∈ e.src, ∀ p ∈ x.ps, p ∉ ps

/-- The access of `n` bytes at `va` by the thread whose turn it is goes through, at the given places: it is
aligned and translated, no engine owns its lines and memory is served, no word of it is uncorrectable, its
value is not to be logged, no access counter counts, and nothing about the places is open (R369, R86, R175, R101, R421,
R462). `s1` is the package after its translation. -/
def Reaches (s s1 : State) (va : Word) (n : Nat) (acc : Access) (ps : List Nat) : Prop :=
  resolve (curCtx s) va n n acc 0 s = .ok ps s1 ∧ ps.Nodup ∧ firstUncorr s1 ps = none ∧
  ps.any (isOwned s1) = false ∧ (memReady s1 = true ∨ ∀ p ∈ ps, isDevice p = false) ∧
  (∀ k, curTask s = some k → recRecord k.launch = false) ∧ ctlGet s regAcrange = 0 ∧ NothingOpen s ps

/-- No store of the thread waits to be performed (R336). -/
def NoOwnStores (s : State) : Prop := ∀ x ∈ s.pending, x.thread ≠ s.th.id

/-- No write of a command waits to be performed (R175). -/
def NoCommandWrites (s : State) : Prop := ∀ x ∈ s.pending, x.cmd = none

/-- No release of the places has earlier stores that an acquire would have to find performed (R339). -/
def NoMarks (s : State) (ps : List Nat) : Prop := ∀ k ∈ s.marks, ∀ p ∈ ps, p ∉ k.places

/-- No queue load has elements still to read, so that a store need not wait for it (R340). -/
def FillsRead (s : State) : Prop := ∀ q ∈ s.th.q.toList, ∀ e ∈ q, e.src = []

/-- None of the places is a controlled byte of a KV header (R299). -/
def PlainPlaces (s1 : State) (ps : List Nat) : Prop := ∀ p ∈ ps, isControlled s1 p = false

/-- The number some places of memory hold, little-endian. -/
def valueAt (s : State) (ps : List Nat) : Nat := natOfBytes (ps.map (memByte s))

/-- What an access that went through may change beside the thread and the bytes it stores: the caches, the TLBs and
walkers, the count of corrected errors, the marks of lines written from outside, of errors that a whole write ended and
of releases, the record of past bytes, the stores that wait, and the numbering of stores and free values. -/
def SameButCaches (s t : State) : Prop :=
  (∀ o, o ≠ regMerr → ctlGet t o = ctlGet s o) ∧ (∀ u ∈ t.uncorr, u ∈ s.uncorr) ∧
  t = { s with th := t.th, mem := t.mem, l2 := t.l2, l1d := t.l1d, tlb := t.tlb, walks := t.walks, ctl := t.ctl,
               free := t.free, hostLines := t.hostLines, hostFills := t.hostFills, corr := t.corr, uncorr := t.uncorr
               past := t.past, now := t.now, marks := t.marks, pending := t.pending, nextStore := t.nextStore }

/-- No store has been made or performed, and no byte of memory changed. -/
def NoStore (s t : State) : Prop :=
  t.pending = s.pending ∧ t.nextStore = s.nextStore ∧ ∀ p, memByte t p = memByte s p

/-- The stores that waited still do, but for any that had the number of a new one (no run leaves one). -/
def StillWaiting (s t : State) : Prop :=
  (∀ x ∈ t.pending, x ∈ s.pending) ∧ ∀ x ∈ s.pending, x.serial < s.nextStore → x ∈ t.pending

/-- The thread has stored the given bytes, in order: the stores wait to be performed where the model holds stores back,
and are in memory where it does not; nothing else is stored (R336, R344). `release` is the scope of a release. -/
def Stored (s t : State) (release : Option (BitVec 3)) (ws : List ByteWrite) : Prop :=
  (s.weak = true → (∀ p, memByte t p = memByte s p) ∧ ∃ ys, t.pending = s.pending ++ ys ∧
    ys.flatMap PendingStore.ws = ws ∧ ∀ y ∈ ys, y.thread = s.th.id ∧ y.release = release) ∧
  (s.weak = false → StillWaiting s t ∧ t.mem = ws.foldl putByte s.mem)

/-- The thread apart from its scalar registers, PC and marks is unchanged. -/
def ThreadScalars (s t : State) : Prop :=
  t.th = { s.th with sr := t.th.sr, pc := t.th.pc, trap := { s.th.trap with hs := t.th.trap.hs }
                     stall := t.th.stall, fsw := t.th.fsw, wait := t.th.wait, order := t.th.order }

/-- The trap sequence of R426 has been taken from `s`: the saved registers of Table 14-7, trap mode, PC at TVEC;
the scalar registers, the CSRs outside trap mode, lanes, queues and event latch are kept, and the VIQ with every entry
as it stands at a stop (Table 14-6). -/
def TrapTaken (s t : State) (cause : BitVec 8) (faddr finfo : Word) (tstatus : BitVec 11) : Prop :=
  t.th.trap.mode = true ∧ t.th.trap.frozen = s.th.trap.frozen ∧ t.th.trap.cause = cause ∧ t.th.trap.faddr = faddr ∧
  t.th.trap.finfo = finfo ∧ t.th.trap.cause2 = 0 ∧ t.th.trap.faddr2 = 0 ∧
  t.th.trap.tpc = s.th.pc.setWidth 56 ∧ t.th.trap.vcp = vcpOf s.th ∧ t.th.trap.tstatus = tstatus ∧
  t.th.trap.hs = s.th.trap.tstack ∧ t.th.trap.tvec = s.th.trap.tvec ∧ t.th.trap.tstack = s.th.trap.tstack ∧
  t.th.pc = s.th.trap.tvec.setWidth 64 ∧ t.th.sr = s.th.sr ∧ t.th.csr = s.th.csr ∧ t.th.lanes = s.th.lanes ∧
  t.th.viq = s.th.viq.map stopEntry ∧ t.th.q = s.th.q ∧ t.th.latch = s.th.latch ∧ t.th.task = s.th.task ∧ t.th.id = s.th.id

/-- The VIQ's head has to come to an end before the thread stops: an append that has reserved its ring entries, or a bank
instruction inside a restart unit, one of whose runs has started (R126, Table 14-6). -/
def MustEnd (e : VEntry) : Prop := e.reserved ≠ none ∨ ∃ r ∈ e.runs, r.started = true

/-- A thread that may take a trap: it is outside trap mode, its TVEC is a multiple of 4 (R426), and nothing in progress
has to come to its end first (Table 14-6). -/
def CanTrap (s : State) : Prop :=
  s.th.trap.mode = false ∧ s.th.trap.tvec.toNat % 4 = 0 ∧ ∀ e, s.th.viq.head? = some e → ¬ MustEnd e

/-- Nothing the thread made or posted is outstanding: the VIQ is empty, its queue loads have read, its stores are
performed, no command of its task is in flight, and what its commands wrote is performed (R341). -/
def NothingPending (s : State) : Prop :=
  s.th.viq = [] ∧ FillsRead s ∧ NoOwnStores s ∧ (∀ c ∈ s.cmds, s.th.task ≠ some c.task) ∧
  (∀ x ∈ s.pending, ∀ c, x.cmd = some c → s.th.task ≠ some c.task) ∧
  (∀ r, s.th.order.lastScalar = some r → NoMarks s r.places) ∧ ∀ r, s.th.order.lastVector = some r → NoMarks s r.places

/-- The scalar side of the thread, in order `o`, follows its vector side (R213 item 3): later scalar reads find no older byte
than the vector side's last access and what each lane group found of that byte, and scalar stores and loads come after its
vector stores to the byte, which carry lower numbers than `o.joined`. -/
def VectorJoined (s : State) (o : Order) : Prop :=
  { o with scalar := s.th.order.scalar, read := s.th.order.read, joined := s.th.order.joined } = s.th.order ∧
  s.th.order.scalar ≤ o.scalar ∧ (∀ p, smGet s.th.order.read p ≤ smGet o.read p) ∧
  (s.weak = true → s.th.order.last ≤ o.scalar ∧ o.joined = s.nextStore ∧
    (∀ x ∈ s.th.order.laneSeen ++ s.th.order.laneNext, x.2 ≤ smGet o.read (x.1 / 16)) ∧
    ∀ x ∈ s.th.order.vecSeen, x.2 ≤ smGet o.read x.1)

/-- What a fence of some kinds leaves of the thread's order: from now on its accesses of those kinds follow all that has been
performed, its scalar and vector accesses after kind e too, and those of the other kinds what they followed before; nothing
else of the package changes but the record of past bytes, which keeps no byte it had not, and the marks of releases (R341,
Table 11-10). Where there is no past byte, only what its scalar accesses follow of its vector ones is kept. -/
def FenceOrdered (kinds : BitVec 4) (s t : State) : Prop :=
  t = { s with th := { s.th with order := t.th.order }, past := t.past, marks := t.marks } ∧
  (∀ x ∈ t.past, ∃ y ∈ s.past, x = { y with soft := x.soft }) ∧ (∀ k ∈ t.marks, k ∈ s.marks) ∧
  (t.past ≠ [] →
    (if kinds.getLsbD 0 || kinds.getLsbD 2 then t.th.order.scalar = s.now else s.th.order.scalar ≤ t.th.order.scalar) ∧
    (if kinds.getLsbD 1 || kinds.getLsbD 2 then t.th.order.vector = s.now else s.th.order.vector ≤ t.th.order.vector) ∧
    (if kinds.getLsbD 3 then t.th.order.bank = s.now ∧ t.th.order.rows = []
      else t.th.order.bank = s.th.order.bank ∧ t.th.order.rows = s.th.order.rows)) ∧
  (s.past = [] → if kinds.getLsbD 1 then VectorJoined s t.th.order else t.th.order = s.th.order)

/-- PC past `n` bytes, the thread neither waiting nor stalled; nothing else changed. -/
def Passed (s : State) (n : Nat) : State :=
  { s with th := { s.th with pc := s.th.pc + BitVec.ofNat 64 n, wait := none, stall := false, fsw := none } }

end Sys2Proof.Claims

open Sys2Proof Sys2Proof.Machine Sys2Proof.Claims

/-! ### Words -/

/-- Decoding the words the encoder gives a well-formed instruction gives it back, every operand included: no bit
of an encoding is dropped. -/
def Obligations.DecodeOfEncode : Prop :=
  ∀ (i : Instr) (ps : List Parcel), i.wf = true → encode i = some ps → decode ps = .ok i

/-- Parcels that decode to an instruction begin with that instruction's own words, and it is well formed: each
word has one meaning, and reserved bits are refused. -/
def Obligations.EncodeOfDecode : Prop :=
  ∀ (ps : List Parcel) (i : Instr), decode ps = .ok i →
    i.wf = true ∧ i.isEvent = false ∧ ∃ qs rest, encode i = some qs ∧ ps = qs ++ rest

/-- Words written out from Tables 2-1 to 2-12 decode to what they stand for: NOP, YIELD, HALT and TRET (R381, R384), LDIH
and SLLI (R364), and at least one word of every major group and of every unit. -/
def Sys2Proof.Claims.WorkedWords : Prop :=
  decode [0x000000BE] = .ok .nop ∧ decode [0x040000BE] = .ok .yield_ ∧ decode [0x080000BE] = .ok .halt ∧
  decode [0x0C0000BE] = .ok .tret ∧ decode [0x3FFFC532] = .ok (.ldih 5 65535) ∧
  decode [0x01C14528] = .ok (.slli 5 5 28) ∧
  decode [0xFFF14320] = .ok (.addi 3 5 0xFFF) ∧ decode [0x0021436C] = .ok (.ld 3 5 2) ∧ decode [0x00214340] = .ok (.beq 3 5 2) ∧
  decode [0x4CC2CE00] = .ok (.div 14 11 12) ∧ decode [0x0032804E] = .ok (.jtab 10 3) ∧
  decode [0x71035192] = .ok (.cas 17 13 16 4 3) ∧ decode [0x004003A0] = .ok (.fence 3 false 4) ∧
  decode [0x00401FA0] = .ok (.fence 15 true 4) ∧
  decode [0x030841E1, 0x00040008] = .ok (.vmul (W64.unpack 0x00040008030841E1)) ∧
  decode [0x86144013, 0x00200100] = .ok (.vlds (W64.unpack 0x0020010086144013)) ∧
  decode [0x001C3103, 0x000000C0] = .ok (.qld (W64.unpack 0x000000C0001C3103)) ∧
  decode [0x0B28701B, 0x20000002] = .ok (.kcheck (W64.unpack 0x200000020B28701B)) ∧
  (W64.unpack 0x00040008030841E1).vd = 4 ∧ (W64.unpack 0x00040008030841E1).vs1 = 2 ∧ (W64.unpack 0x00040008030841E1).vs2 = 3 ∧
  (W64.unpack 0x0020010086144013).mask = 2 ∧ (W64.unpack 0x0020010086144013).x16 = 0x20

/-- The majors of the blank cells of Table 2-2 (R51). -/
def Sys2Proof.Claims.blankMajor (m : Nat) : Prop :=
  (0x01 ≤ m ∧ m ≤ 0x0F) ∨ (0x1B ≤ m ∧ m ≤ 0x1F) ∨ (0x28 ≤ m ∧ m ≤ 0x2F) ∨ (0x3D ≤ m ∧ m ≤ 0x3F) ∨
  (0x4A ≤ m ∧ m ≤ 0x4F) ∨ m = 0x5D ∨ m = 0x5E ∨ (0x61 ≤ m ∧ m ≤ 0x7F)

/-- A parcel whose bit 0 is 0 and whose major is a blank cell of Table 2-2 is refused by name, whatever follows it (R45, R51,
R71). -/
def Sys2Proof.Claims.ReservedMajorsRefused : Prop :=
  ∀ (w : Parcel) (rest : List Parcel), w.getLsbD 0 = false → blankMajor (w.extractLsb' 1 7).toNat →
    decode (w :: rest) = .error .unassignedMajor

/-! ### Scalar arithmetic and branches -/

/-- The register ALU instructions write what Table 12-4, R362 and R363 give, and PC moves on; s0 discards. -/
def Sys2Proof.Claims.AluRegister : Prop :=
  ∀ (i : Instr) (s : State) (d : Reg) (v : Word), aluValue i s = some (d, v) →
    ∃ t, exec i s = .next t ∧ getR t d = (if d = 0 then 0 else v) ∧ t.th.pc = s.th.pc + 4 ∧ OtherRegs d s t ∧ OnlyScalars s t

/-- CLZ, CTZ and CPOP (R361): the number of leading and of trailing zeros, 64 for 0, and of 1 bits. -/
def Sys2Proof.Claims.AluCounts : Prop :=
  ∀ (d a : Reg) (s : State), d ≠ 0 →
    (∃ t n, exec (.clz d a) s = .next t ∧ getR t d = BitVec.ofNat 64 n ∧ n ≤ 64 ∧ (getR s a).toNat < 2 ^ (64 - n) ∧
      (n < 64 → 2 ^ (63 - n) ≤ (getR s a).toNat) ∧ t.th.pc = s.th.pc + 4 ∧ OtherRegs d s t ∧ OnlyScalars s t) ∧
    (∃ t n, exec (.ctz d a) s = .next t ∧ getR t d = BitVec.ofNat 64 n ∧ n ≤ 64 ∧ (∀ j, j < n → (getR s a).getLsbD j = false) ∧
      (n < 64 → (getR s a).getLsbD n = true) ∧ t.th.pc = s.th.pc + 4 ∧ OtherRegs d s t ∧ OnlyScalars s t) ∧
    (∃ t, exec (.cpop d a) s = .next t ∧
      getR t d = BitVec.ofNat 64 ((List.range 64).filter fun j => (getR s a).getLsbD j).length ∧
      t.th.pc = s.th.pc + 4 ∧ OtherRegs d s t ∧ OnlyScalars s t)

/-- Every form of CLZ, CTZ and CPOP with destination s0 writes nothing (R75). -/
def Sys2Proof.Claims.AluCountsToZero : Prop :=
  ∀ (a : Reg) (s : State), exec (.clz 0 a) s = .next (advance s 4) ∧ exec (.ctz 0 a) s = .next (advance s 4) ∧
    exec (.cpop 0 a) s = .next (advance s 4)

/-- The immediate forms, LDIH and ADDPC write what R361 and R364 give, and PC moves on; s0 discards. -/
def Sys2Proof.Claims.AluImmediate : Prop :=
  ∀ (i : Instr) (s : State) (d : Reg) (v : Word), aluImmValue i s = some (d, v) →
    ∃ t, exec i s = .next t ∧ getR t d = (if d = 0 then 0 else v) ∧ t.th.pc = s.th.pc + 4 ∧ OtherRegs d s t ∧ OnlyScalars s t

/-- Branches, J and JTAB set PC as R366 and R367 give and change nothing else. -/
def Obligations.Branches : Prop :=
  ∀ (i : Instr) (s : State) (pc : Word), branchTarget i s = some pc →
    exec i s = .next { s with th := { s.th with pc := pc } }

/-! ### Scalar memory -/

/-- A scalar load whose access goes through writes the value, extended as R368 gives, and changes no memory. -/
def Obligations.ScalarLoads : Prop :=
  ∀ (i : Instr) (s s1 : State) (d : Reg) (va : Word) (n : Nat) (sg : Bool) (ps : List Nat),
    loadOf i s = some (d, va, n, sg) → Reaches s s1 va n .read ps →
    ((∃ e a sc, i = .ldaq e a sc) → NoMarks s ps) →
    ∃ t, exec i s = .next t ∧
      getR t d = (if d = 0 then 0 else if sg then BitVec.ofInt 64 (sextNat (valueAt s ps) (8 * n)) else BitVec.ofNat 64 (valueAt s ps)) ∧
      t.th.pc = s.th.pc + 4 ∧ OtherRegs d s t ∧ ThreadScalars s t ∧ SameButCaches s t ∧ NoStore s t

/-- A scalar store whose access goes through stores the low bytes of its register at the places of its address: they
wait to be performed, SDRL's as a release at its scope, or are in memory at once where the model holds no store back;
no other byte and no register changes (R336, R344, R368, R370). -/
def Sys2Proof.Claims.StoresCommit : Prop :=
  ∀ (i : Instr) (s s1 : State) (d : Reg) (va : Word) (n : Nat) (ps : List Nat),
    storeOf i s = some (d, va, n) → Reaches s s1 va n .write ps → PlainPlaces s1 ps → FillsRead s → s.group = {} →
    ∃ t, exec i s = .next t ∧
      Stored s t (match i with
        | .sdrl _ _ sc => some sc
        | _ => none) (byteWrites (placed ps (bytesOfNat n (getR s d).toNat))) ∧
      (∀ p, p ∉ ps → memByte t p = memByte s p) ∧
      t.th.pc = s.th.pc + 4 ∧ (∀ r, getR t r = getR s r) ∧ ThreadScalars s t ∧ SameButCaches s t

/-- A store performed at its home writes its bytes in memory, bit for bit, and no other; it waits no longer (R336). So does a
write of a command that is the only one left (R175). A store of whose words one is uncorrectable, that meets controlled bytes,
or that comes after a command's write of one of its bytes, is not meant (R102, R175, R299). -/
def Sys2Proof.Claims.StorePerformed : Prop :=
  ∀ (s : State) (y : PendingStore), firstUncorr s y.places = none → PlainPlaces s y.places → ctlGet s regAcrange = 0 →
    (if y.cmd = none then ∀ x ∈ s.pending, x.cmd ≠ none → ∀ w ∈ x.ws, w.p ∉ y.places
      else (s.pending.filter fun x => x.cmd.isSome) = [y]) →
    (performStore s y).mem = y.ws.foldl putByte s.mem ∧
    (∀ p, p ∉ y.places → memByte (performStore s y) p = memByte s p) ∧
    (performStore s y).pending = s.pending.filter fun x => x.serial != y.serial

/-- Where an atomic's access begins: one ordered .ar at .pkg or .sys after its fence of all four kinds (R342). -/
def Sys2Proof.Claims.orderedFrom (sc : BitVec 3) (o : BitVec 2) (s : State) : State :=
  if o = 3 ∧ 4 ≤ sc.toNat then
    (match fenceAcquire 15 sc (joinVector (publish true s)) with
      | .ok _ t => fenceOrder 15 t
      | .error _ _ => s)
  else s

/-- A scalar atomic whose access goes through: the doubleword becomes what Table 12-5 gives, and the destination
receives the old one. One that releases leaves the thread's scalar stores to wait, and one ordered .ar at .pkg or .sys
finds everything the thread made or posted performed (R339, R342). -/
def Obligations.ScalarAtomics : Prop :=
  ∀ (i : Instr) (s s1 : State) (d : Reg) (va : Word) (f : Word → Word) (sc : BitVec 3) (o : BitVec 2) (ps : List Nat),
    atomicOf i s = some (d, va, f, sc, o) → Reaches (orderedFrom sc o s) s1 va 8 .atomic ps → PlainPlaces s1 ps →
    FillsRead s → (o.getLsbD 0 = true → NoMarks s ps) →
    (o = 3 ∧ 4 ≤ sc.toNat → NothingPending s) →
    ∃ t, exec i s = .next t ∧ valueAt t ps = (f (BitVec.ofNat 64 (valueAt s ps))).toNat ∧
      getR t d = (if d = 0 then 0 else BitVec.ofNat 64 (valueAt s ps)) ∧ (∀ p, p ∉ ps → memByte t p = memByte s p) ∧
      t.th.pc = s.th.pc + 4 ∧ OtherRegs d s t ∧ ThreadScalars s t ∧ SameButCaches s t ∧ t.pending = s.pending

/-- Every byte that an access of `n` bytes reaches in the windows is one of its thread's to access (R163). -/
def Sys2Proof.Claims.WindowOpen (s : State) (va : Word) (n : Nat) : Prop :=
  windowBase < va.toNat + n →
    ∃ ps, windowAccess s (curCtx s) (max va.toNat windowBase) (va.toNat + n - max va.toNat windowBase) = .ok ps

/-- A scalar access to page-mapped memory or to a window at an address that is no multiple of its size, and an atomic that
spans two chunks of swizzle mode X4, take cause 0x06 with the address in FADDR and 0 in FINFO: no store is made, none is
performed, and nothing is loaded (R163, R165, R369). An atomic ordered .ar at .pkg or .sys is meant where its fence passes
(R342). -/
def Obligations.ScalarMisaligned : Prop :=
  ∀ (i : Instr) (s : State) (va : Word) (n : Nat),
    ((va.toNat % n ≠ 0 ∧ ((∃ d sg, loadOf i s = some (d, va, n, sg)) ∨ ∃ d, storeOf i s = some (d, va, n))) ∨
      (n = 8 ∧ (va.toNat % 8 ≠ 0 ∨ (windowBase ≤ va.toNat ∧ va.toNat / 2 ^ 30 % 4 = 3)) ∧
        ∃ d f sc o, atomicOf i s = some (d, va, f, sc, o) ∧ (o = 3 ∧ 4 ≤ sc.toNat → NothingPending s))) →
    va.toNat < 2 ^ 56 → WindowOpen s va n → CanTrap s →
    ∃ t, exec i s = .next t ∧ TrapTaken s t 0x06 va 0 0 ∧ NoStore s t

/-! ### Fences, waits and control -/

/-- A FENCE with nothing outstanding passes at once; the thread's later accesses of its kinds follow all that has been
performed, and nothing else changes but PC (R341). -/
def Sys2Proof.Claims.FencesPass : Prop :=
  ∀ (s : State) (k : BitVec 4) (sc : Bool) (scp : BitVec 3), NothingPending s →
    ∃ t, exec (.fence k sc scp) s = .next t ∧ FenceOrdered (if sc then 15 else k) (Passed s 4) t

/-- VWAIT with the VIQ empty passes at once, whatever stores of the thread still wait; the thread's later scalar accesses
follow its earlier vector accesses, and nothing else changes but PC (R213, R344, R374). -/
def Sys2Proof.Claims.VwaitPasses : Prop :=
  ∀ s : State, s.th.viq = [] →
    ∃ t o, exec .vwait s = .next t ∧ VectorJoined s o ∧ t = { Passed s 4 with th := { (Passed s 4).th with order := o } }

/-- A FENCE of kinds s or v does not pass while a store of that side of the thread cannot be performed, as one whose
lines a command owns (R175, R341): only the thread's stall mark changes. That it does so at every scope, the narrow ones
too, is the model's choice (log 14): R341 asks for performance with respect to the scope's agents alone. -/
def Sys2Proof.Claims.FenceHoldsForStores : Prop :=
  ∀ (s : State) (k : BitVec 4) (scp : BitVec 3) (y : PendingStore), s.th.viq = [] → FillsRead s →
    k.getLsbD 2 = false → s.pending = [y] → y.thread = s.th.id → y.cmd = none →
    (if y.lane = none then k.getLsbD 0 = true else k.getLsbD 1 = true) → y.places.any (isOwned s) = true →
    exec (.fence k false scp) s = .next { s with th := { s.th with stall := true } }

/-- A FENCE of kind e, and any FENCE.sc, with a command of the thread's task in flight does not pass: only the
thread's stall mark changes (R341, kind e). -/
def Sys2Proof.Claims.FenceHoldsForCommands : Prop :=
  ∀ (s : State) (k : BitVec 4) (sc : Bool) (scp : BitVec 3), s.th.viq = [] → (sc = true ∨ k.getLsbD 2 = true) →
    (∃ c ∈ s.cmds, s.th.task = some c.task) →
    exec (.fence k sc scp) s = .next { s with th := { s.th with stall := true } }

/-- NOP changes nothing but PC; YIELD without a request pending also gives the thread's next issue turn to the next
ready thread of its core (R381). -/
def Sys2Proof.Claims.NopAndYield : Prop :=
  ∀ s : State, exec .nop s = .next { s with th := { s.th with pc := s.th.pc + 4 } } ∧
    ((s.th.trap.mode = true ∨ ∀ k, curTask s = some k → k.pend = false) →
      exec .yield_ s = .next { s with th := { s.th with pc := s.th.pc + 4, yielded := true } })

/-- TRAP takes cause 0x12 and BRK takes cause 0x11, with TPC and FADDR at the instruction and imm12 in FINFO
(R383). -/
def Sys2Proof.Claims.ProgramTraps : Prop :=
  ∀ (imm : BitVec 12) (s : State), CanTrap s →
    (∃ t, exec (.trap imm) s = .next t ∧ TrapTaken s t 0x12 s.th.pc (imm.setWidth 64) 0 ∧ ∀ p, memByte t p = memByte s p) ∧
    (∃ t, exec (.brk imm) s = .next t ∧ TrapTaken s t 0x11 s.th.pc (imm.setWidth 64) 0 ∧ ∀ p, memByte t p = memByte s p)

/-- TRET in trap mode with an aligned TPC: trap mode is left, PC is TPC, s62 is the ordinary register again with
its value kept, and without kept entries nothing else changes (R384, R432, R75). -/
def Sys2Proof.Claims.TretReturns : Prop :=
  ∀ s : State, s.th.trap.mode = true → s.th.trap.tpc.toNat % 4 = 0 → s.th.viq = [] →
    exec .tret s = .next { s with th := { s.th with pc := s.th.trap.tpc.setWidth 64, trap := { s.th.trap with mode := false } } }

/-- TRET outside trap mode is cause 0x04 at its own address (R384). -/
def Sys2Proof.Claims.TretOutsideTrapMode : Prop :=
  ∀ s : State, CanTrap s → ∃ t, exec .tret s = .next t ∧ TrapTaken s t 0x04 s.th.pc 0x2000 0 ∧ ∀ p, memByte t p = memByte s p

/-- A trap condition met outside trap mode: the entry sequence of R426. -/
def Sys2Proof.Claims.TrapEntry : Prop :=
  ∀ (s : State) (x : Machine.Trap) (vside resume : Bool), CanTrap s →
    TrapTaken s (takeTrap s x vside resume) x.cause x.faddr x.finfo (tstatusOf s.th x vside resume) ∧
    (takeTrap s x vside resume).mem = s.mem ∧ (takeTrap s x vside resume).tasks = s.tasks

/-- A stop of the scalar side waits for an append at the VIQ's head that has reserved its ring entries, and for the unit
that a bank instruction there is inside (R126, Table 14-6). -/
def Sys2Proof.Claims.TrapWaitsForAppend : Prop :=
  ∀ (s : State) (x : Machine.Trap) (resume : Bool) (e : VEntry) (es : List VEntry),
    s.th.trap.mode = false → s.th.viq = e :: es → MustEnd e →
    takeTrap s x false resume =
      { s with free := s.free + 1, sleepers := s.sleepers.filter fun n => n != s.th.id, th := { s.th with stall := true } }

/-- A trap condition met in trap mode freezes the thread: the first trap's registers stay, CAUSE2 and FADDR2 tell
the second, and no scalar register changes (R434). -/
def Sys2Proof.Claims.DoubleFault : Prop :=
  ∀ (s : State) (x : Machine.Trap) (vside resume : Bool), s.th.trap.mode = true →
    let t := takeTrap s x vside resume
    t.th.trap = { s.th.trap with frozen := true, cause2 := x.cause, faddr2 := x.faddr } ∧
      t.th.pc = s.th.pc ∧ t.th.sr = s.th.sr ∧ t.th.viq = s.th.viq ∧ t.th.lanes = s.th.lanes

namespace Sys2Proof.Claims

/-! ### Vector-class instructions -/

/-- The load queue an instruction consumes holds, at its head, an unclaimed entry that has arrived with the thread's
VL and SEW (R198, R199); nothing is asked of an instruction without a queue source. -/
def QueueReady (i : Instr) (s : State) : Prop :=
  match queueOf i with
  | none => True
  | some q => ∃ e rest, s.th.q[q.toNat] = e :: rest ∧ e.claimed = false ∧ e.arrived = true ∧ e.failed = false ∧
      e.vl = s.th.lanes.vl ∧ e.sew = s.th.lanes.sew

/-- The thread can post the instruction and perform it: outside trap mode, its VIQ empty, the instruction's unit
present, no forward-only result outside a convoy, its queue source ready (R4, R70, R72, R194, R427). -/
def VecReady (i : Instr) (s : State) : Prop :=
  s.th.viq = [] ∧ s.th.trap.mode = false ∧ s.stopped = false ∧ absentUnit s i = none ∧ isForward i = false ∧ QueueReady i s

/-- The instruction answers a next state in which, once the vector side has worked off the VIQ, `P` holds. -/
def Executes (i : Instr) (s : State) (P : State → Prop) : Prop := ∃ t, exec i s = .next t ∧ P (drain t)

/-- The queues once a source entry is consumed (R198). -/
def queuesAfter (i : Instr) (s : State) : Vector (List QEntry) 8 :=
  match queueOf i with
  | none => s.th.q
  | some q => s.th.q.set q.toNat (s.th.q[q.toNat].drop 1)

/-- The thread after a standalone vector-class instruction: PC past it, the VIQ empty, VSTART consumed, one counter
value consumed when it rounds stochastically (R39, R55, R194). -/
def doneThread (i : Instr) (s : State) : Thread :=
  { s.th with
    pc := s.th.pc + 8, viq := [], stall := false, fsw := none, vfsw := none, q := queuesAfter i s
    csr := { s.th.csr with
      vstart := 0, gcnt := s.th.csr.gcnt + (if usesCounter i s.th.csr.rmode.toNat then 1 else 0) } }

/-- The state in which a standalone instruction without a queue source comes to be performed: posted, alone in the
VIQ (R55, R194). -/
def postedOf (i : Instr) (s : State) : State :=
  { s with th := { doneThread i s with viq := [entryOf i s.th.pc s], vfsw := s.th.vfsw } }

/-- An instruction that waits at the head of the VIQ in state `p` of the thread whose turn it is, with no thread beside it, is
completed by an event of its thread, and then `P` holds. -/
def Resumes (event : Nat → Instr) (p : State) (P : State → Prop) : Prop :=
  p.th.task.isSome = true → p.parked = [] → ∃ t, exec (event p.th.id) p = .next t ∧ P t

/-- Only lower vector registers and SFLAGS changed, beside what every vector-class instruction does. -/
def VecFrame (i : Instr) (s t : State) : Prop :=
  t = { s with th := { doneThread i s with
    lanes := { s.th.lanes with v := t.th.lanes.v }
    csr := { (doneThread i s).csr with sflags := t.th.csr.sflags } } }

/-- Only mask registers changed, beside what every vector-class instruction does. -/
def MaskFrame (i : Instr) (s t : State) : Prop :=
  t = { s with th := { doneThread i s with lanes := { s.th.lanes with k := t.th.lanes.k } } }

/-- SEW is legal (R233). -/
def SewOk (s : State) : Prop := 1 ≤ sewOf s ∧ sewOf s ≤ 32

/-- The width field is at most SEW, and lower registers that hold operands wider than 16 bits are even: the widths
of the first source, of the second and of the destination (R59, R240). -/
def RegsOk (f : W64) (s : State) (w1 w2 wd : Nat) : Prop :=
  (f.form = 2 ∨ bitsOf f.x16.toNat 0 5 ≤ sewOf s) ∧ (w1 ≤ 16 ∨ f.vs1.toNat % 2 = 0) ∧
  (f.form ≠ 0 ∨ w2 ≤ 16 ∨ f.vs2.toNat % 2 = 0) ∧ (wd ≤ 16 ∨ f.vd.toNat % 2 = 0)

/-- Element `e` of the first source. -/
def opA (f : W64) (s : State) (e : Nat) : Nat := elemOf s.th.lanes f.vs1.toNat (sewOf s) e

/-- Element `e` of the second source at width `w`, by form: a register, a scalar, an immediate, or the head of a
load queue (R245). -/
def opB (i : Instr) (f : W64) (s : State) (w e : Nat) : Nat :=
  match f.form.toNat with
  | 0 => elemOf s.th.lanes f.vs2.toNat w e
  | 1 => (getR s f.rs).toNat % 2 ^ w
  | 2 => (f.x16.signExtend 32).toNat % 2 ^ w
  | _ => match queueOf i with
    | none => 0
    | some q => ((s.th.q[q.toNat].head?.map QEntry.data).getD []).getD e 0 % 2 ^ w

/-- Element `e` is active: below VL, and under the mask unless the mask field is 0 (R231). -/
def isActive (f : W64) (s : State) (e : Nat) : Bool :=
  decide (e < s.th.lanes.vl.toNat) && (f.mask == 0 || maskBit s.th.lanes f.mask.toNat e)

/-- The active elements, ascending. -/
def activeOf (f : W64) (s : State) : List Nat := (List.range s.th.lanes.vl.toNat).filter (isActive f s)

/-- Lower register vd at width `w` holds the given results where there are any, 0 in the tail when the tail bit is
1, and what it held elsewhere; the planes above `w` and every other register are unchanged (R228, R232, R57). -/
def WritesVd (f : W64) (w : Nat) (s t : State) (res : Nat → Option Nat) : Prop :=
  ∀ e, e < vlmaxOf s.th.lanes →
    elemOf t.th.lanes f.vd.toNat w e = (match res e with
      | some r => r
      | none => if f.tail = true ∧ s.th.lanes.vl.toNat ≤ e then 0 else elemOf s.th.lanes f.vd.toNat w e) ∧
    (w ≤ 16 → planesOf t.th.lanes f.vd.toNat e / 2 ^ w = planesOf s.th.lanes f.vd.toNat e / 2 ^ w) ∧
    (16 < w → planesOf t.th.lanes (f.vd.toNat + 1) e / 2 ^ (w - 16) = planesOf s.th.lanes (f.vd.toNat + 1) e / 2 ^ (w - 16)) ∧
    ∀ r, r ≠ f.vd.toNat → (w ≤ 16 ∨ r ≠ f.vd.toNat + 1) → planesOf t.th.lanes r e = planesOf s.th.lanes r e

/-- SFLAGS after an instruction that raises some of its bits (R43). -/
def flagsWith (s : State) (fl : Nat) : Word := s.th.csr.sflags ||| BitVec.ofNat 64 fl

/-- Bits as a two's-complement or unsigned integer. -/
def asInt (u : Bool) (w a : Nat) : Int := if u || a < 2 ^ (w - 1) then (a : Int) else (a : Int) - 2 ^ w

/-- An integer clamped to the signed or unsigned range of `w` bits. -/
def clampTo (u : Bool) (w : Nat) (x : Int) : Int :=
  if u then max 0 (min x (2 ^ w - 1)) else max (-2 ^ (w - 1)) (min x (2 ^ (w - 1) - 1))

/-- The low `w` bits of an integer. -/
def cut (w : Nat) (x : Int) : Nat := (x % 2 ^ w).toNat

/-- The U modifier (Table 2-6). -/
def uBit (f : W64) : Bool := f.form != 2 && f.x16.getLsbD 10

/-- The SAT modifier (Table 2-6). -/
def satBit (f : W64) : Bool := f.form != 2 && f.x16.getLsbD 11

/-- An element of the lane arithmetic of Table 8-6 at width `w`, with whether it saturated (R245, R250). -/
def laneOut (i : Instr) (f : W64) (w a b : Nat) : Option (Nat × Bool) :=
  let u := uBit f
  let x := asInt u w a
  let y := asInt u w b
  let z := asInt false w a
  let wrap (v : Int) := some (cut w v, false)
  let clamp (u : Bool) (v : Int) := some (cut w (clampTo u w v), decide (clampTo u w v ≠ v))
  let pick (u : Bool) (v : Int) := if satBit f then clamp u v else wrap v
  match i with
  | .vadd _ => wrap (x + y)
  | .vsub _ => wrap (x - y)
  | .vsadd _ => clamp u (x + y)
  | .vssub _ => clamp u (x - y)
  | .vmin _ => wrap (min x y)
  | .vmax _ => wrap (max x y)
  | .vand _ => some (a &&& b, false)
  | .vor _ => some (a ||| b, false)
  | .vxor _ => some (a ^^^ b, false)
  | .vandn _ => some (a &&& (2 ^ w - 1 - b), false)
  | .vsll _ => pick u (x * 2 ^ (b % 64))
  | .vsrl _ => some (a / 2 ^ (b % 64), false)
  | .vsra _ => wrap (z / 2 ^ (b % 64))
  | .vabs _ => pick false (if z < 0 then -z else z)
  | .vneg _ => pick false (-z)
  | .vclz _ => some (w - bitLen a, false)
  | .vcpop _ => some (((List.range w).filter fun j => a.testBit j).length, false)
  | _ => none

/-- The rounding mode of an ext16 with an RM field (R32, R35). -/
def rmOf (f : W64) (s : State) : Rounding :=
  roundingOf (if f.form = 2 then 0 else bitsOf f.x16.toNat 12 3) s.th.csr.rmode.toNat

/-- The generator's output for an element (R37, R38). -/
def drawOf (stream : Nat) (s : State) (e : Nat) : Nat := generator s.th.csr.gkey s.th.csr.gcnt.toNat stream e

/-- The width field W, 0 meaning SEW (R252). -/
def wOf (f : W64) (s : State) : Nat := if f.form = 2 ∨ bitsOf f.x16.toNat 0 5 = 0 then sewOf s else bitsOf f.x16.toNat 0 5

/-- The exact result, before it is cut or saturated, of VMUL, VMULH, VMACC and VSHRR at element `e` (R251, R252). -/
def mulExact (i : Instr) (f : W64) (s : State) (e : Nat) : Option Int :=
  let u := uBit f
  let sew := sewOf s
  let w := wOf f s
  let x := asInt u sew (opA f s e)
  let p := x * asInt u w (opB i f s w e)
  let draw := drawOf (if f.form = 2 then 0 else bitsOf f.x16.toNat 5 5) s e
  match i with
  | .vmul _ => some p
  | .vmulh _ => some (roundShift (rmOf f s) p (if u then w else (w - 1 : Nat)) draw)
  | .vmacc _ => some (asInt u sew (elemOf s.th.lanes f.vd.toNat sew e) + p)
  | .vshrr _ => some (roundShift (rmOf f s) x (opB i f s sew e % 64 : Nat) draw)
  | _ => none

/-- The multiplications saturate when SAT is 1; VSHRR has no SAT (Table 8-6). -/
def saturates (i : Instr) (f : W64) : Bool :=
  satBit f && match i with
    | .vshrr _ => false
    | _ => true

/-- The uniform amount of a slide or VMVS (R255, R256). -/
def amountOf (f : W64) (s : State) : Nat := if f.form = 1 then (getR s f.rs).toNat else f.x16.toNat

/-- What the moves and permutations write at element `e`, where they write (R254, R255, R257, R258). -/
def moveOut (i : Instr) (f : W64) (s : State) (e : Nat) : Option Nat :=
  let vl := s.th.lanes.vl.toNat
  let sew := sewOf s
  let act := isActive f s e
  let rank := ((List.range e).filter (isActive f s)).length
  let n := amountOf f s
  match i with
  | .vmerge _ => if e < vl then some (if maskBit s.th.lanes f.mask.toNat e then opA f s e else opB i f s sew e) else none
  | .vmv _ => if act then some (opB i f s sew e) else none
  | .vslup _ => if act ∧ n ≤ e then some (opA f s (e - n)) else none
  | .vsldn _ => if act then some (if e + n < vl then opA f s (e + n) else 0) else none
  | .vperm _ => if act then some (if opB i f s sew e < vl then opA f s (opB i f s sew e) else 0) else none
  | .vcompr _ => if e < (activeOf f s).length then some (opA f s ((activeOf f s).getD e 0)) else none
  | .vexpnd _ => if act then some (opA f s rank) else none
  | .viota _ => if act then some (rank % 2 ^ sew) else none
  | _ => none

/-- The instructions `moveOut` is about. -/
def isMove (i : Instr) : Bool :=
  match i with
  | .vmerge _ | .vmv _ | .vslup _ | .vsldn _ | .vperm _ | .vcompr _ | .vexpnd _ | .viota _ => true
  | _ => false

/-- Comparison `cc` of VCMP (R253). -/
def cmpOut (cc : Nat) (x y : Int) : Bool :=
  match cc with
  | 0 => decide (x = y)
  | 1 => decide (x ≠ y)
  | 2 => decide (x < y)
  | 3 => decide (x ≤ y)
  | 4 => decide (y < x)
  | _ => decide (y ≤ x)

/-- The place of an LNS16 code in the order of the values it denotes: 0 for zero, and greater codes for greater
magnitudes (R27, R282). -/
def lnsOrder (a : Nat) : Int :=
  if a % 2 ^ 15 = 2 ^ 14 then 0
  else
    let m : Int := asInt false 15 (a % 2 ^ 15) + 2 ^ 14
    if a.testBit 15 then -m else m

/-- What the instructions with a mask destination write at an active element (R253, R263, R264). -/
def maskOut (i : Instr) (f : W64) (s : State) (e : Nat) : Option Bool :=
  let a := maskBit s.th.lanes f.vs1.toNat e
  let b := maskBit s.th.lanes f.vs2.toNat e
  let first := (((activeOf f s).filter (maskBit s.th.lanes f.vs1.toNat)).head?).getD s.th.lanes.vl.toNat
  match i with
  | .vcmp _ => some (cmpOut f.fn4.toNat (asInt (uBit f) (sewOf s) (opA f s e)) (asInt (uBit f) (sewOf s) (opB i f s (sewOf s) e)))
  | .vlcmp _ => some (cmpOut f.fn4.toNat (lnsOrder (elemOf s.th.lanes f.vs1.toNat 16 e)) (lnsOrder (opB i f s 16 e)))
  | .kand _ => some (a && b)
  | .kor _ => some (a || b)
  | .kxor _ => some (a != b)
  | .kandn _ => some (a && !b)
  | .knot _ => some (!a)
  | .kmv _ => some (if f.form = 2 then f.x16.getLsbD 0 else a)
  | .kwhile _ => some (decide ((e : Int) < if f.form = 2 then f.x16.toInt else (getR s f.rs).toInt))
  | .kbefore _ => some (decide (e < first))
  | .kincl _ => some (decide (e ≤ first))
  | .kfirst _ => some (decide (e = first))
  | _ => none

/-- What the instructions with a scalar destination of the lanes write (R256, R265). -/
def scalarOut (i : Instr) (f : W64) (s : State) : Option Word :=
  let set := (activeOf f s).filter (maskBit s.th.lanes f.vs1.toNat)
  match i with
  | .vmvs _ => some (if amountOf f s < s.th.lanes.vl.toNat then
      BitVec.ofInt 64 (asInt (uBit f) (sewOf s) (opA f s (amountOf f s))) else 0)
  | .kpopc _ => some (BitVec.ofNat 64 set.length)
  | .klast _ => some (match set.reverse with
      | e :: _ => BitVec.ofNat 64 e
      | [] => BitVec.allOnes 64)
  | _ => none

end Sys2Proof.Claims

/-- The lane arithmetic writes, at every active element, the result of Table 8-6 cut or clamped to SEW, raises SAT
when an element saturated, and changes nothing else (R245, R250, R232). -/
def Obligations.LaneArithmetic : Prop :=
  ∀ (i : Instr) (op : BitVec 8) (f : W64) (s : State),
    vecKey i = some (0, op, f) → (laneOut i f 1 0 0).isSome = true → VecReady i s → SewOk s →
    RegsOk f s (sewOf s) (sewOf s) (sewOf s) →
    Executes i s fun t => VecFrame i s t ∧
      WritesVd f (sewOf s) s t (fun e =>
        if isActive f s e then (laneOut i f (sewOf s) (opA f s e) (opB i f s (sewOf s) e)).map Prod.fst else none) ∧
      t.th.csr.sflags = flagsWith s (if (activeOf f s).any fun e =>
        ((laneOut i f (sewOf s) (opA f s e) (opB i f s (sewOf s) e)).map Prod.snd).getD false then 1 else 0)

/-- VMUL, VMULH, VMACC and VSHRR: the exact product, shifted and rounded where the instruction says so, then cut to
SEW, or clamped when SAT is 1 (R251, R252). -/
def Obligations.LaneMultiply : Prop :=
  ∀ (i : Instr) (op : BitVec 8) (f : W64) (s : State),
    vecKey i = some (0, op, f) → (mulExact i f s 0).isSome = true → VecReady i s → SewOk s →
    RegsOk f s (sewOf s) (match i with
      | .vshrr _ => sewOf s
      | _ => wOf f s) (sewOf s) →
    ((∃ g, i = .vmulh g) → uBit f = true ∨ wOf f s ≠ 1) →
    Executes i s fun t => VecFrame i s t ∧
      WritesVd f (sewOf s) s t (fun e => if isActive f s e then
        (mulExact i f s e).map fun x => cut (sewOf s) (if saturates i f then clampTo (uBit f) (sewOf s) x else x) else none) ∧
      t.th.csr.sflags = flagsWith s (if saturates i f && (activeOf f s).any (fun e =>
        match mulExact i f s e with
        | some x => decide (clampTo (uBit f) (sewOf s) x ≠ x)
        | none => false) then 1 else 0)

/-- VMERGE, VMV, the slides, VPERM, VCOMPR, VEXPND and VIOTA move elements as R254, R255, R257 and R258 give and
raise no flag. -/
def Obligations.LaneMoves : Prop :=
  ∀ (i : Instr) (op : BitVec 8) (f : W64) (s : State),
    vecKey i = some (0, op, f) → isMove i = true → VecReady i s → SewOk s →
    RegsOk f s (sewOf s) (sewOf s) (sewOf s) →
    Executes i s fun t => VecFrame i s t ∧ WritesVd f (sewOf s) s t (moveOut i f s) ∧ t.th.csr.sflags = s.th.csr.sflags

/-- VCMP, VLCMP and the mask instructions write mask vd at the active elements, 0 in the tail when the tail bit is 1,
and nothing else (R253, R263, R264, R282). -/
def Obligations.MaskResults : Prop :=
  ∀ (i : Instr) (u : BitVec 3) (op : BitVec 8) (f : W64) (s : State),
    vecKey i = some (u, op, f) → (maskOut i f s 0).isSome = true → VecReady i s → SewOk s →
    ((∃ g, i = .vcmp g) → RegsOk f s (sewOf s) (sewOf s) 0) →
    Executes i s fun t => MaskFrame i s t ∧ ∀ e, e < vlmaxOf s.th.lanes →
      (maskBit t.th.lanes f.vd.toNat e = if isActive f s e then (maskOut i f s e).getD false
        else if f.tail = true ∧ s.th.lanes.vl.toNat ≤ e then false else maskBit s.th.lanes f.vd.toNat e) ∧
      ∀ k, k ≠ f.vd.toNat → maskBit t.th.lanes k e = maskBit s.th.lanes k e

/-- VMVS, KPOPC and KLAST write their scalar register once performed, and nothing else changes (R195, R256, R265). -/
def Sys2Proof.Claims.LaneScalarResults : Prop :=
  ∀ (i : Instr) (op : BitVec 8) (f : W64) (s : State) (v : Word),
    vecKey i = some (0, op, f) → scalarOut i f s = some v → VecReady i s → SewOk s →
    ((∃ g, i = .vmvs g) → RegsOk f s (sewOf s) 0 0) →
    Executes i s fun t => t = setR { s with th := doneThread i s } f.vd v

/-- SETVT writes VL to its scalar when posted and SEW when performed (R239). -/
def Sys2Proof.Claims.SetvtSetsSew : Prop :=
  ∀ (f : W64) (s : State), VecReady (.setvt f) s →
    Executes (.setvt f) s fun t =>
      t = setR { s with th := { doneThread (.setvt f) s with lanes := { s.th.lanes with sew := f.x16.setWidth 6 } } } f.vd
        (s.th.lanes.vl.setWidth 64)

namespace Sys2Proof.Claims

/-- The destination width of VNAR: [10:6] + 1 of the immediate, or W (R261). -/
def narWidth (f : W64) : Nat := if f.form = 2 then bitsOf f.x16.toNat 6 5 + 1 else bitsOf f.x16.toNat 0 5

/-- The width a bit-field or width instruction writes at: VNAR its own, the others SEW. -/
def fieldWidth (i : Instr) (f : W64) (s : State) : Nat :=
  match i with
  | .vnar _ => narWidth f
  | _ => sewOf s

/-- Position and length of a bit field (R259). -/
def fieldAt (i : Instr) (f : W64) (s : State) (e : Nat) : Nat × Nat :=
  if f.form = 2 then (bitsOf f.x16.toNat 0 6, bitsOf f.x16.toNat 6 5 + 1) else (opB i f s (sewOf s) e % 64, wOf f s)

/-- What VBFX, VBFI, VWID and VNAR write at element `e`, with whether it saturated (R259-R261). -/
def fieldsOut (i : Instr) (f : W64) (s : State) (e : Nat) : Option (Nat × Bool) :=
  let sew := sewOf s
  let x := f.x16.toNat
  let (pos, len) := fieldAt i f s e
  let a := opA f s e
  let d := elemOf s.th.lanes f.vd.toNat sew e
  match i with
  | .vbfx _ => some (cut sew (asInt (uBit f) len (a / 2 ^ pos % 2 ^ len)), false)
  | .vbfi _ => some ((d % 2 ^ pos + a % 2 ^ len * 2 ^ pos + d / 2 ^ (pos + len) * 2 ^ (pos + len)) % 2 ^ sew, false)
  | .vwid _ => some (cut sew (asInt (uBit f) (bitsOf x 0 5) (elemOf s.th.lanes f.vs1.toNat (bitsOf x 0 5) e)), false)
  | .vnar _ =>
    let imm := f.form = 2
    let u := if imm then f.x16.getLsbD 12 else uBit f
    let sat := if imm then f.x16.getLsbD 11 else satBit f
    let rm := roundingOf (if imm then bitsOf x 13 3 else bitsOf x 12 3) s.th.csr.rmode.toNat
    let n : Nat := if imm then bitsOf x 0 6 else opB i f s sew e % 64
    let y := roundShift rm (asInt u sew a) n (drawOf (if imm then 0 else bitsOf x 5 5) s e)
    let z := clampTo u (narWidth f) y
    some (cut (narWidth f) (if sat then z else y), sat && decide (z ≠ y))
  | _ => none

/-- The operand I of VRED: a scalar, or element 0 of vs2 (R262). -/
def redStart (f : W64) (s : State) : Nat :=
  if f.form = 1 then (getR s f.rs).toNat % 2 ^ sewOf s else elemOf s.th.lanes f.vs2.toNat (sewOf s) 0

/-- What VRED writes to element 0, with whether it saturated (R262). -/
def redOut (f : W64) (s : State) : Nat × Bool :=
  let sew := sewOf s
  let x := asInt (uBit f) sew
  let as := (activeOf f s).map (opA f s)
  let sum := as.foldl (fun y a => y + x a) (x (redStart f s))
  match f.fn4.toNat with
  | 0 => (cut sew sum, false)
  | 1 => (cut sew (clampTo (uBit f) sew sum), decide (clampTo (uBit f) sew sum ≠ sum))
  | 2 => (cut sew (as.foldl (fun y a => min y (x a)) (x (redStart f s))), false)
  | 3 => (cut sew (as.foldl (fun y a => max y (x a)) (x (redStart f s))), false)
  | 4 => (as.foldl (fun y a => y &&& a) (redStart f s), false)
  | 5 => (as.foldl (fun y a => y ||| a) (redStart f s), false)
  | _ => (as.foldl (fun y a => y ^^^ a) (redStart f s), false)

/-- The lane groups of the thread's core that no other thread holds: what SETVL may grant (R235). -/
def openLanes (s : State) : BitVec 16 := freeLanes (updLanes s fun l => { l with gmap := 0 }) (coreOf s.th)

/-- The lane groups a SETVL of AVL elements needs (R235). -/
def lanesWanted (s : State) (k : Task) (avl : Nat) : Nat :=
  if avl = 0 then 0
  else min (min ((avl + 1023) / 1024) (recReq k.launch))
    (if s.th.lanes.shrink then max s.th.lanes.share.toNat (recMin k.launch) else 16)

/-- The thread asleep in a SETVL that it has posted and that needs some lane groups (R235). -/
def asleepAt (i : Instr) (s : State) (need : Nat) : State :=
  { postedOf i s with
    th := { (postedOf i s).th with wait := some .setvl, viq := [{ entryOf i s.th.pc s with need := some need }] }
    sleepers := [s.th.id] }

/-- What no lane instruction, SETVL included, touches. -/
def BesideLanes (s t : State) : Prop :=
  t.mem = s.mem ∧ t.tasks = s.tasks ∧ t.banks = s.banks ∧ t.ctl = s.ctl ∧ t.cmds = s.cmds ∧ t.th.trap = s.th.trap ∧
  t.th.q = s.th.q ∧ t.th.latch = s.th.latch ∧ t.th.task = s.th.task ∧ t.th.id = s.th.id ∧
  t.parked.map Thread.id = s.parked.map Thread.id

end Sys2Proof.Claims

/-- VBFX, VBFI, VWID and VNAR each complete: they write the fields of R259 to R261 at the active elements, VNAR at its
own width, and raise SAT when VNAR saturated an element. -/
def Obligations.LaneFields : Prop :=
  ∀ (i : Instr) (op : BitVec 8) (f : W64) (s : State),
    vecKey i = some (0, op, f) → (i = .vbfx f ∨ i = .vbfi f ∨ i = .vwid f ∨ i = .vnar f) → VecReady i s → SewOk s →
    (match i with
      | .vwid _ => RegsOk f s (bitsOf f.x16.toNat 0 5) 0 (sewOf s) ∧ f.form ≠ 2
      | .vnar _ => RegsOk f s (sewOf s) (sewOf s) (narWidth f) ∧ 1 ≤ narWidth f ∧ narWidth f ≤ sewOf s
      | _ => RegsOk f s (sewOf s) (sewOf s) (sewOf s)) →
    Executes i s fun t => VecFrame i s t ∧
      WritesVd f (fieldWidth i f s) s t (fun e => if isActive f s e then (fieldsOut i f s e).map Prod.fst else none) ∧
      t.th.csr.sflags = flagsWith s (if (activeOf f s).any fun e => ((fieldsOut i f s e).map Prod.snd).getD false then 1 else 0)

/-- VRED folds the active elements into its start value, writes element 0 alone, active or not, and the tail; with
VL 0 it writes nothing (R262). -/
def Obligations.Reductions : Prop :=
  ∀ (f : W64) (s : State), VecReady (.vred f) s → SewOk s → RegsOk f s (sewOf s) (sewOf s) (sewOf s) →
    Executes (.vred f) s fun t => VecFrame (.vred f) s t ∧
      (s.th.lanes.vl ≠ 0 → WritesVd f (sewOf s) s t (fun e => if e = 0 then some (redOut f s).1 else none) ∧
        t.th.csr.sflags = flagsWith s (if (redOut f s).2 then 1 else 0)) ∧
      (s.th.lanes.vl = 0 → t.th.lanes = s.th.lanes ∧ t.th.csr.sflags = s.th.csr.sflags)

/-- SETVL of a task with no request pending, when no thread sleeps and as many lane groups as it must have are free:
it receives the lowest free ones up to its need, VL is the lesser of AVL and what they hold, SEW and the scalar
register are written, and lane tables lt4 to lt7 hold their defaults (R235, R287). SETVL_GRANT gives the same to a thread
that has slept in it, unless its watchdog's trap is due (R358). -/
def Obligations.SetvlGrants : Prop :=
  ∀ (f : W64) (s : State) (k : Task), VecReady (.setvl f) s → f.form = 1 → curTask s = some k → k.pend = false →
    s.sleepers = [] →
    (let avl := (getR s f.rs).toNat
     let g := min (lanesWanted s k avl) (laneCount (openLanes s))
     min (recMin k.launch) (lanesWanted s k avl) ≤ g →
     let granted := fun t : State =>
      laneCount t.th.lanes.gmap = g ∧ t.th.lanes.gmap &&& ~~~ openLanes s = 0 ∧
      (∀ a b, a < 16 → b < 16 → t.th.lanes.gmap.getLsbD a = true → (openLanes s).getLsbD b = true →
        t.th.lanes.gmap.getLsbD b = false → a < b) ∧
      t.th.lanes.vl = BitVec.ofNat 15 (min avl (1024 * g)) ∧ t.th.lanes.sew = f.x16.setWidth 6 ∧
      getR t f.vd = (if f.vd = 0 then 0 else BitVec.ofNat 64 (min avl (1024 * g))) ∧ OtherRegs f.vd s t ∧
      (∀ n h j, 4 ≤ n → n < 8 → h < 16 → j < 256 → laneTable t.th.lanes n h j = defaultTable n j) ∧
      t.th.pc = s.th.pc + 8 ∧ t.th.viq = [] ∧ t.th.csr = { s.th.csr with vstart := 0 } ∧ BesideLanes s t
     Executes (.setvl f) s granted ∧
       (s.th.csr.wdogDue = false → Resumes .setvlGrant (asleepAt (.setvl f) s (lanesWanted s k avl)) granted))

namespace Sys2Proof.Claims

/-- The scalar operand of a conversion; 0 outside form 01 (R266). -/
def convScalar (f : W64) (s : State) : Nat := if f.form = 1 then (getR s f.rs).toNat else 0

/-- A signed byte of the scalar operand (Table 9-4). -/
def convByte (f : W64) (s : State) (lo : Nat) : Int := asInt false 8 (convScalar f s / 2 ^ lo % 2 ^ 8)

/-- The generator's output for a conversion (R37, R38, Table 2-6). -/
def convDraw (f : W64) (s : State) (e : Nat) : Nat := drawOf (bitsOf f.x16.toNat 0 8) s e

/-- Element width of a block-scaled operand by N (R267). -/
def blockBits (f : W64) : Nat := if f.x16.getLsbD 8 then 4 else 8

/-- The widths of the source and of the destination of an element-wise conversion. -/
def convWidths (i : Instr) (f : W64) (s : State) : Nat × Nat :=
  let sew := sewOf s
  match i with
  | .vcvt src _ => (fmtWidth src.toNat sew, fmtWidth f.fn4.toNat sew)
  | .vdqnt _ => (blockBits f, fmtWidth f.fn4.toNat sew)
  | .vsclMxe4m3 _ | .vsclMxe5m2 _ => (8, 32)
  | .vlexp _ => (sew, 16)
  | .vllog _ => (16, sew)
  | .vlmul _ | .vldiv _ | .vladd _ | .vlsub _ => (16, 16)
  | .vrand _ => (0, sew)
  | _ => (sew, sew)

/-- VHAD of one element: the butterfly's sum or difference, halved where the operand says so (R279). -/
def hadamard (f : W64) (s : State) (e : Nat) : Nat × Nat :=
  let sew := sewOf s
  let d := 2 ^ (convScalar f s % 16)
  let lo := e / d % 2 = 0
  let p := if lo then e + d else e - d
  let a := asInt false sew (opA f s e)
  let b := asInt false sew (opA f s p)
  let y := if s.th.lanes.vl.toNat ≤ p then a else if lo then a + b else b - a
  let z := roundShift (rmOf f s) y (convScalar f s / 16 % 2 : Nat) (convDraw f s e)
  let c := if satBit f then clampTo false sew z else z
  (cut sew c, if c = z then 0 else flagSat)

/-- What the element-wise conversions write at element `e`, with their events (R271, R274, R278-R286, R288). -/
def convOut (i : Instr) (f : W64) (s : State) (e : Nat) : Option (Nat × Nat) :=
  let sew := sewOf s
  let rm := rmOf f s
  let sat := satBit f
  let xs := convByte f s 0
  let xd := convByte f s 8
  let a := elemOf s.th.lanes f.vs1.toNat (convWidths i f s).1 e
  let b := opB i f s 16 e
  let draw := convDraw f s e
  let mx (code : Nat) :=
    let x := scaleOf s.th.lanes f.vs1.toNat (2 * (e / 32))
    some (encodeFmt 5 32 (if x = 255 then .nan else (decodeFmt code 8 a 0).scale ((x : Int) - 127)) rm sat 0 draw)
  match i with
  | .vcvt src _ => some (convert src.toNat f.fn4.toNat sew a xs xd rm sat draw)
  | .vdqnt _ => some (encodeFmt f.fn4.toNat sew (bsiValue a (scaleOf s.th.lanes f.vs1.toNat (e / 16)) (blockBits f)) rm sat xd draw)
  | .vsclMxe4m3 _ => mx 8
  | .vsclMxe5m2 _ => mx 9
  | .vhad _ => some (hadamard f s e)
  | .vlmul _ => some (lnsMul a b)
  | .vldiv _ => some (lnsDiv a b)
  | .vladd _ => some (lnsAdd a b)
  | .vlsub _ => some (lnsSub a b)
  | .vlexp _ => some (lnsPack false (roundShift rm (asInt false sew a) (-(xs + 8)) draw))
  | .vllog _ =>
    let y := roundShift rm (lnsCode a) (8 + xd) draw
    some (if lnsZero a then (2 ^ (sew - 1), flagSat)
      else (cut sew (clampTo false sew y), if clampTo false sew y = y then 0 else flagSat))
  | .vtlu _ =>
    let o := convScalar f s
    let n := a / 2 ^ (o % 32)
    let j := if o / 32 % 2 = 1 then min n 255 else n % 256
    let x := laneTable s.th.lanes (bitsOf f.x16.toNat 8 3) (posOf s.th.lanes.gmap e / 1024) j
    some (if o / 64 % 2 = 1 then cut sew (asInt false 16 x) else x % 2 ^ sew, 0)
  | .vrand _ => some (draw % 2 ^ sew, 0)
  | _ => none

/-- The active elements of a block of `m` positions. -/
def blockActives (f : W64) (s : State) (m n : Nat) : List Nat := ((List.range m).map (m * n + ·)).filter (isActive f s)

/-- The E that VQNT gives block `n` of 16: from its decoded active elements, or from the amax word (R272, R273). -/
def blockScale (i : Instr) (f : W64) (s : State) (n : Nat) : Nat :=
  let sew := sewOf s
  match i with
  | .vqntAmax _ => bsiScale (decodeFmt 5 32 (convScalar f s % 2 ^ 31) 0) (blockBits f)
  | _ => bsiScale (amaxOf ((blockActives f s 16 n).map fun e =>
      decodeFmt f.fn4.toNat sew (elemOf s.th.lanes f.vs1.toNat (fmtWidth f.fn4.toNat sew) e) (convByte f s 0))) (blockBits f)

/-- Positions of a block of the block-wise conversions. -/
def blockSize (i : Instr) : Nat :=
  match i with
  | .vsclMxin _ | .vsclMxout _ => 32
  | _ => 16

/-- The width a block-wise conversion writes at. -/
def blockWide (i : Instr) (f : W64) (s : State) : Nat :=
  match i with
  | .vqnt _ | .vqntAmax _ => blockBits f
  | .vsclMxin _ | .vsclMxout _ => 8
  | _ => sewOf s

/-- The scale byte a block-wise conversion writes for block `n` of 16 (R272, R273, R278). -/
def scaleOut (i : Instr) (f : W64) (s : State) (n : Nat) : Option Nat :=
  let z := scaleOf s.th.lanes f.vs1.toNat
  match i with
  | .vqnt _ | .vqntAmax _ => some (blockScale i f s n)
  | .vsclMxin _ => some (if z (2 * (n / 2)) = 255 then 255 else z (2 * (n / 2)) - 6)
  | .vsclMxout _ =>
    let a := z (2 * (n / 2))
    let b := z (2 * (n / 2) + 1)
    some (if a = 255 ∨ b = 255 then 255 else min (max a b + 6) 254)
  | .vsclAdde _ => some (if z n = 255 then 255 else (max 0 (min 254 ((z n : Int) + asInt false 9 (convScalar f s % 2 ^ 9)))).toNat)
  | _ => none

/-- The element a block-wise conversion writes, with its events. -/
def blockOut (i : Instr) (f : W64) (s : State) (e : Nat) : Option (Nat × Nat) :=
  let sew := sewOf s
  let z := scaleOf s.th.lanes f.vs1.toNat
  let a8 := asInt false 8 (elemOf s.th.lanes f.vs1.toNat 8 e)
  let draw := convDraw f s e
  let p := z (2 * (e / 32))
  let q := z (2 * (e / 32) + 1)
  match i with
  | .vqnt _ =>
    let xs := convByte f s 0
    some (bsiElem (decodeFmt f.fn4.toNat sew (elemOf s.th.lanes f.vs1.toNat (fmtWidth f.fn4.toNat sew) e) xs)
      (blockScale i f s (e / 16)) (blockBits f) (rmOf f s) draw)
  | .vqntAmax _ =>
    let xs := convByte f s 32
    some (bsiElem (decodeFmt f.fn4.toNat sew (elemOf s.th.lanes f.vs1.toNat (fmtWidth f.fn4.toNat sew) e) xs)
      (blockScale i f s (e / 16)) (blockBits f) (rmOf f s) draw)
  | .vsclMxin _ =>
    some (if p = 255 then (0, flagInval) else (cut 8 (roundShift (rmOf f s) a8 (6 - p : Nat) draw), 0))
  | .vsclMxout _ =>
    let y := roundShift (rmOf f s) a8 ((min (max p q + 6) 254 : Nat) - z (e / 16) - 6 : Int) draw
    some (if p = 255 ∨ q = 255 then (0, if z (e / 16) = 255 then flagInval else 0)
      else (cut 8 (clampTo false 8 y), if clampTo false 8 y = y then 0 else flagSat))
  | .vsclAdde _ =>
    let y := (z (e / 16) : Int) + asInt false 9 (convScalar f s % 2 ^ 9)
    some (opA f s e, if z (e / 16) = 255 ∨ (0 ≤ y ∧ y ≤ 254) then 0 else flagSat)
  | _ => none

/-- The scale companion of vd holds the given bytes where there are any, 0 in the tail's blocks when the tail bit is
1, and what it held elsewhere; those of the other registers are unchanged (R229, R272). -/
def WritesScales (f : W64) (s t : State) (res : Nat → Option Nat) : Prop :=
  ∀ n, 16 * n < vlmaxOf s.th.lanes →
    scaleOf t.th.lanes f.vd.toNat n = (match res n with
      | some x => x % 256
      | none => if f.tail = true ∧ (s.th.lanes.vl.toNat + 15) / 16 ≤ n then 0 else scaleOf s.th.lanes f.vd.toNat n) ∧
    ∀ r, r ≠ f.vd.toNat → scaleOf t.th.lanes r n = scaleOf s.th.lanes r n

/-- Only lower vector registers, scale companions and SFLAGS changed, beside what every vector instruction does. -/
def ScaleFrame (i : Instr) (s t : State) : Prop :=
  t = { s with th := { doneThread i s with
    lanes := { s.th.lanes with v := t.th.lanes.v, z := t.th.lanes.z }
    csr := { (doneThread i s).csr with sflags := t.th.csr.sflags } } }

/-- The events of some elements together, as SFLAGS bits. -/
def allFlags (es : List Nat) (g : Nat → Option (Nat × Nat)) : Nat :=
  es.foldl (fun x e => x ||| ((g e).map Prod.snd).getD 0) 0 % 16

/-- The task of the thread, if any, does not record or replay (R462). -/
def NotRecording (s : State) : Prop := ∀ k, curTask s = some k → recRecord k.launch = false

end Sys2Proof.Claims

/-- The element-wise conversions write, at every active element, the value of the formats' own functions at the
widths of Table 9-1, and raise the events of those elements (R43, R231, R271, R274, R278-R286, R288). -/
def Sys2Proof.Claims.ConvElementsWrite : Prop :=
  ∀ (i : Instr) (op : BitVec 8) (f : W64) (s : State),
    vecKey i = some (2, op, f) → f.form ≠ 2 → (convOut i f s 0).isSome = true → VecReady i s → SewOk s →
    ((convWidths i f s).1 ≤ 16 ∨ f.vs1.toNat % 2 = 0) → ((convWidths i f s).2 ≤ 16 ∨ f.vd.toNat % 2 = 0) →
    ((∃ g, i = .vhad g) → convScalar f s % 16 ≤ 13) →
    Executes i s fun t => VecFrame i s t ∧
      WritesVd f (convWidths i f s).2 s t (fun e => if isActive f s e then
        (convOut i f s e).map fun x => x.1 % 2 ^ (convWidths i f s).2 else none) ∧
      t.th.csr.sflags = flagsWith s (allFlags (activeOf f s) (convOut i f s))

/-- VQNT, VQNT.amax and VSCL's block forms write each block with an active element: its scale byte, and its active
elements, with their events (R18-R21, R272, R273, R278). That elements governed by a scale byte of 255 become 0 with INVAL
in VSCL.mxin and VSCL.mxout, and which scale bytes the tail clears, is the model's reading (log 26). -/
def Sys2Proof.Claims.ConvBlocksWrite : Prop :=
  ∀ (i : Instr) (op : BitVec 8) (f : W64) (s : State),
    vecKey i = some (2, op, f) → f.form ≠ 2 → (scaleOut i f s 0).isSome = true → VecReady i s → SewOk s →
    ((match i with
      | .vqnt _ | .vqntAmax _ => fmtWidth f.fn4.toNat (sewOf s)
      | _ => blockWide i f s) ≤ 16 ∨ f.vs1.toNat % 2 = 0) → (blockWide i f s ≤ 16 ∨ f.vd.toNat % 2 = 0) →
    Executes i s fun t => ScaleFrame i s t ∧
      WritesVd f (blockWide i f s) s t (fun e => if isActive f s e then
        (blockOut i f s e).map fun x => x.1 % 2 ^ blockWide i f s else none) ∧
      WritesScales f s t (fun n => if s.th.lanes.vl.toNat ≤ 16 * n ∨ blockActives f s (blockSize i) (16 * n / blockSize i) = [] then none
        else scaleOut i f s n) ∧
      t.th.csr.sflags = flagsWith s (allFlags (activeOf f s) (blockOut i f s))

/-- VTLD loads its lane table in every lane group the task holds and no other table, and SEED sets the generator's
key and counter when posted (R285, R286, R289). -/
def Sys2Proof.Claims.TablesAndSeed : Prop :=
  (∀ (f : W64) (s : State), VecReady (.vtld f) s → SewOk s → f.form ≠ 2 → (sewOf s ≤ 16 ∨ f.vs1.toNat % 2 = 0) →
    Executes (.vtld f) s fun t =>
      t = { s with th := { doneThread (.vtld f) s with lanes := { s.th.lanes with lt := t.th.lanes.lt } } } ∧
      ∀ n h j, n < 8 → h < 16 → j < 256 → laneTable t.th.lanes n h j =
        if n = bitsOf f.x16.toNat 8 3 ∧ s.th.lanes.gmap.getLsbD h = true then
          (if j < s.th.lanes.vl.toNat then opA f s j % 2 ^ 16 else 0)
        else laneTable s.th.lanes n h j) ∧
  (∀ (f : W64) (s : State), VecReady (.seed f) s → f.form = 1 → NotRecording s →
    Executes (.seed f) s fun t => t = { s with th := { doneThread (.seed f) s with
      csr := { (doneThread (.seed f) s).csr with gkey := getR s f.rs, gcnt := 0 } } })

namespace Sys2Proof.Claims

/-! ### Rounding and the number formats, in the rules' own terms -/

/-- The magnitude num / d rounds to `r` in a mode, for a value of the given sign and the generator's output `x` (R33,
Table 1-9). -/
def RoundedTo (m : Rounding) (neg : Bool) (num d x r : Nat) : Prop :=
  let down := r * d ≤ num ∧ num < (r + 1) * d
  let up := num ≤ r * d ∧ r * d < num + d
  match m with
  | .rne => 2 * num ≤ (2 * r + 1) * d ∧ 2 * r * d ≤ 2 * num + d ∧
      (2 * num = (2 * r + 1) * d ∨ 2 * r * d = 2 * num + d → r % 2 = 0)
  | .rna => 2 * r * d ≤ 2 * num + d ∧ 2 * num < (2 * r + 1) * d
  | .rtz => down
  | .rup => if neg then down else up
  | .rdn => if neg then up else down
  | .sr => r = num / d + if 2 ^ 16 ≤ num % d * 2 ^ 16 / d + x % 2 ^ 16 then 1 else 0

/-- The value m · 2^e rounds to a multiple of the quantum 2^q, whose magnitude is `r` quanta (R33). -/
def RoundsTo (rm : Rounding) (m e q : Int) (x r : Nat) : Prop :=
  RoundedTo rm (decide (m < 0)) (m.natAbs * 2 ^ (e - q).toNat) (2 ^ (q - e).toNat) x r

/-- A magnitude with the sign of `m`. -/
def likeSign (m : Int) (r : Nat) : Int := if m < 0 then -(r : Int) else r

/-- floor(log2 |m · 2^e|) is `k`. -/
def Binade (m e k : Int) : Prop := e ≤ k ∧ 2 ^ (k - e).toNat ≤ m.natAbs ∧ m.natAbs < 2 * 2 ^ (k - e).toNat

/-- Exponent bits, fraction bits and bias of the floating-point formats by their codes (Table 1-3, Table 9-1). -/
def floatShape (code : Nat) : Option (Nat × Nat × Int) :=
  match code with
  | 5 => some (8, 23, 127)
  | 6 => some (5, 10, 15)
  | 7 => some (8, 7, 127)
  | 8 => some (4, 3, 7)
  | 9 => some (5, 2, 15)
  | _ => none

/-- The canonical NaN of a format (R24). -/
def canonicalNan (code : Nat) : Nat :=
  match code with
  | 5 => 0x7FC00000
  | 6 => 0x7E00
  | 7 => 0x7FC0
  | 8 => 0x7F
  | _ => 0x7E

/-- The greatest finite magnitude of a format as M · 2^f: 448 in E4M3, else (2 - 2^-p) · 2^bias, and its code (Table 1-3). -/
def maxFinite (code eb p : Nat) (bias : Int) : Nat × Int × Nat :=
  if code = 8 then (7, 6, 0x7E) else (2 ^ (p + 1) - 1, bias - p, (2 ^ eb - 2) * 2 ^ p + (2 ^ p - 1))

/-- The code `c` denotes a sign and the magnitude r · 2^q (R22). -/
def FloatDenotes (eb p : Nat) (bias : Int) (c : Nat) (neg : Bool) (r : Nat) (q : Int) : Prop :=
  let f := c % 2 ^ p
  let e := c / 2 ^ p % 2 ^ eb
  c / 2 ^ (p + eb) = neg.toNat ∧
  if e = 0 then f = r ∧ q = 1 - bias - p else ∃ j : Nat, j ≤ 1 ∧ (2 ^ p + f) * 2 ^ j = r ∧ (e : Int) - bias - p = q + j

/-- An LNS16 code of R27: whether it is zero, its sign, its logarithm. -/
def isLnsZero (a : Nat) : Bool := a % 2 ^ 15 == 0x4000
/-- The sign of an LNS16 value. -/
def signBit (a : Nat) : Bool := a / 2 ^ 15 % 2 == 1
/-- code(a) of R29. -/
def logOf (a : Nat) : Int := asInt false 15 (a % 2 ^ 15)

/-- What lns_pack gives for a sign and an unbounded code, with its events (R29). -/
def LnsPacked (neg : Bool) (l : Int) (r : Nat × Nat) : Prop :=
  (16383 < l → r = (neg.toNat * 2 ^ 15 + 0x3FFF, 1)) ∧ (l < -16383 → r = (0x4000, 4)) ∧
  (-16383 ≤ l → l ≤ 16383 → r.2 = 0 ∧ r.1 < 2 ^ 16 ∧ signBit r.1 = neg ∧ logOf r.1 = l)

/-- Field `i` of the index `x` of a table entry (R114). -/
def weightOf (b x i : Nat) : Nat := x / 2 ^ (b * i) % 2 ^ b

/-- The weight of a field in linear mode: -1 and +1 for one bit, else two's complement (Table 1-1). -/
def linWeight (b w : Nat) : Int := if b = 1 then 2 * (w : Int) - 1 else asInt false b w

/-- tofix of R119: an LNS16 product as a multiple of 2^texp, and whether it saturated. -/
def FixOf (p : Nat) (texp : Int) (y : Int × Bool) : Prop :=
  (isLnsZero p = true → y = (0, false)) ∧
  ∀ r, isLnsZero p = false → RoundsTo .rne (exp2Table (logOf p % 256).toNat) (logOf p / 256 - 15) texp 0 r →
    y = ((if signBit p then -(min r (2 ^ 31 - 1) : Int) else (min r (2 ^ 31 - 1) : Int)), decide (2 ^ 31 - 1 < r))

/-- Four bits of a byte at an offset of a block, as a signed element (R294, R323). -/
def nibbleAt (img : Nat → Nat) (o d : Nat) : Int := asInt false 4 (img o / 16 ^ (d % 2) % 16)

/-- K element `d` of slot `t` of a block, V element, and their scale bytes by groups of 16 (R294). -/
def kElem (img : Nat → Nat) (t d : Nat) : Int := nibbleAt img (d / 32 * 4096 + 256 * (d / 2 % 16) + t) d
/-- V element `d` of slot `t`. -/
def vElem (img : Nat → Nat) (t d : Nat) : Int := nibbleAt img ((4 + t / 64) * 4096 + 64 * (t % 64) + d / 2) d
/-- The K scale of group `c` of slot `t`. -/
def kScale (img : Nat → Nat) (t c : Nat) : Nat := img (8 * 4096 + 256 * c + t)
/-- The V scale of group `c` of slot `t`. -/
def vScale (img : Nat → Nat) (t c : Nat) : Nat := img (8 * 4096 + 2048 + 8 * t + c)

/-- Two scaled elements' distance (R323). -/
def apart (a : Int) (i : Nat) (b : Int) (j : Nat) : Nat := (a * 2 ^ i - b * 2 ^ j).natAbs

end Sys2Proof.Claims

/-- A number is rounded to the integer that its mode's condition gives (R33, Table 1-9). -/
def Sys2Proof.Claims.RoundsByMode : Prop :=
  ∀ (rm : Rounding) (v n : Int) (x r : Nat), RoundsTo rm v 0 n x r → roundShift rm v n x = likeSign v r

/-- What the codes of the formats denote: floating point by sign, exponent and fraction, subnormal numbers included, integers
and FIX16 in two's complement, LNS16 through EXP2, LNS8 widened exactly (R22, R23, R26-R28, R271). -/
def Sys2Proof.Claims.FormatsDecode : Prop :=
  (∀ (code eb p sew : Nat) (bias xs : Int) (a : Nat), floatShape code = some (eb, p, bias) → a < 2 ^ (1 + eb + p) →
    (let f := a % 2 ^ p
     let e := a / 2 ^ p % 2 ^ eb
     let neg := decide (2 ^ (eb + p) ≤ a)
     let v := decodeFmt code sew a xs
     (code ≠ 8 → e = 2 ^ eb - 1 → v = if f = 0 then .inf neg else .nan) ∧ (code = 8 → e = 15 → f = 7 → v = .nan) ∧
     (e = 0 → f = 0 → v = .zero neg) ∧
     ((e < 2 ^ eb - 1 ∨ (code = 8 ∧ f < 7)) → e ≠ 0 ∨ f ≠ 0 → ∃ m k, v = .fin m k ∧
       FloatDenotes eb p bias a (decide (m < 0)) m.natAbs k))) ∧
  (∀ (code sew a : Nat) (xs : Int), code ≤ 2 → (code = 2 ∨ sew ∈ [4, 8, 16, 32]) →
    (let n := if code = 2 then 16 else sew
     a < 2 ^ n → asInt (code == 1) n a ≠ 0 → decodeFmt code sew a xs = .fin (asInt (code == 1) n a) xs)) ∧
  (∀ (code sew : Nat) (xs : Int), code ≤ 2 → decodeFmt code sew 0 xs = .zero false) ∧
  (∀ (sew a : Nat) (xs : Int), a < 2 ^ 16 → decodeFmt 10 sew a xs =
    if isLnsZero a then .zero false
    else .fin ((if signBit a then -1 else 1) * exp2Table (logOf a % 256).toNat) (logOf a / 256 - 15)) ∧
  ∀ a, a < 2 ^ 8 → (a % 2 ^ 7 = 0x40 → lnsWiden a = 0x4000) ∧ (a % 2 ^ 7 ≠ 0x40 → lnsWiden a < 2 ^ 16 ∧
    signBit (lnsWiden a) = decide (2 ^ 7 ≤ a) ∧ logOf (lnsWiden a) = 32 * asInt false 7 (a % 2 ^ 7))

/-- A value rounded into a floating-point format, overflow, underflow and the special values (R23-R26), into an integer format
(R26, R33), and into the logarithmic formats (R26, R28, R270). -/
def Sys2Proof.Claims.FormatsEncode : Prop :=
  (∀ (code eb p sew : Nat) (bias xd : Int) (rm : Rounding) (sat : Bool) (x : Nat), floatShape code = some (eb, p, bias) →
    (let out (v : Val) := encodeFmt code sew v rm sat xd x
     let (big, shift, top) := maxFinite code eb p bias
     let sign (neg : Bool) := neg.toNat * 2 ^ (eb + p)
     let past (neg carried : Bool) : Nat × Nat := if sat then (sign neg + top, 1)
       else if code = 8 then (0x7F, 8) else (sign neg + (2 ^ eb - 1) * 2 ^ p, if carried then 0 else 8)
     out .nan = (canonicalNan code, 0) ∧ (∀ neg, out (.zero neg) = (sign neg, 0) ∧ out (.inf neg) = past neg true) ∧
     ∀ (m e k : Int) (r : Nat), m ≠ 0 → Binade m e k →
       (let q := max k (1 - bias) - p
        RoundsTo rm m e q x r →
        (r = 0 → out (.fin m e) = (sign (decide (m < 0)), 4)) ∧
        (big * 2 ^ (shift - q).toNat < r * 2 ^ (q - shift).toNat → out (.fin m e) = past (decide (m < 0)) false) ∧
        (r ≠ 0 → r * 2 ^ (q - shift).toNat ≤ big * 2 ^ (shift - q).toNat →
          (out (.fin m e)).2 = 0 ∧ FloatDenotes eb p bias (out (.fin m e)).1 (decide (m < 0)) r q)))) ∧
  (∀ (code sew : Nat) (xd : Int) (rm : Rounding) (sat : Bool) (x : Nat), code ≤ 2 → 0 < sew →
    (let n := if code = 2 then 16 else sew
     let u := code == 1
     let out (v : Val) := encodeFmt code sew v rm sat xd x
     out .nan = (0, 2) ∧ (∀ neg, out (.zero neg) = (0, 0) ∧
       out (.inf neg) = (cut n (clampTo u n (if neg then -2 ^ n else 2 ^ n)), 1)) ∧
     ∀ (m e : Int) (r : Nat), RoundsTo rm m e xd x r →
       (let y := clampTo u n (likeSign m r)
        out (.fin m e) = (cut n y, if y = likeSign m r then 0 else 1)))) ∧
  (∀ (sew : Nat) (xd : Int) (rm : Rounding) (sat : Bool) (x : Nat),
    (let out (v : Val) := encodeFmt 10 sew v rm sat xd x
     out .nan = (0x4000, 2) ∧ (∀ neg, out (.zero neg) = (0x4000, 0) ∧ out (.inf neg) = (neg.toNat * 2 ^ 15 + 0x3FFF, 1)) ∧
     ∀ (m e k : Int) (j : Nat), m ≠ 0 → Binade m e k → 2 ^ (k - e).toNat * (256 + j) ≤ 256 * m.natAbs →
       256 * m.natAbs < 2 ^ (k - e).toNat * (257 + j) → LnsPacked (decide (m < 0)) (256 * k + log2Table j) (out (.fin m e)))) ∧
  (∀ (rm : Rounding) (a x : Nat), (isLnsZero a = true → lnsNarrow rm a x = (0x40, 0)) ∧
    ∀ r, a < 2 ^ 16 → isLnsZero a = false → RoundsTo rm (logOf a) 0 5 x r →
      (let c := likeSign (logOf a) r
       let s := if signBit a then 2 ^ 7 else 0
       lnsNarrow rm a x = if 63 < c then (s + 63, 1) else if c < -63 then (0x40, 4) else (s + cut 7 c, 0))) ∧
  ∀ (sew a x : Nat) (xs xd : Int) (rm : Rounding) (sat : Bool),
    convert 11 10 sew a xs xd rm sat x = (lnsWiden a, 0) ∧ convert 10 11 sew a xs xd rm sat x = lnsNarrow rm a x ∧
    ∀ src dst, ¬ (src = 11 ∧ dst = 10) → ¬ (src = 10 ∧ dst = 11) →
      convert src dst sew a xs xd rm sat x = encodeFmt dst sew (decodeFmt src sew a xs) rm sat xd x

/-- The product, the quotient, the sum and the difference of LNS16 (R29, R281, Table 9-7), and the sample entries of PHI and PSI
(Table 1-5). That a zero operand of the sum gives the other unchanged, 0xC000 too, is the model's reading (log 25). -/
def Sys2Proof.Claims.LnsArithmetic : Prop :=
  (∀ a b : Nat, a < 2 ^ 16 → b < 2 ^ 16 →
    (isLnsZero a = true ∨ isLnsZero b = true → lnsMul a b = (0x4000, 0)) ∧
    (isLnsZero b = true → lnsDiv a b = if isLnsZero a then (0x4000, 2)
      else ((if signBit a = signBit b then 0 else 2 ^ 15) + 0x3FFF, 1)) ∧
    (isLnsZero a = true → (isLnsZero b = false → lnsDiv a b = (0x4000, 0)) ∧ lnsAdd a b = (b, 0)) ∧
    (isLnsZero a = false → isLnsZero b = true → lnsAdd a b = (a, 0)) ∧
    (isLnsZero a = false → isLnsZero b = false →
      LnsPacked (signBit a != signBit b) (logOf a + logOf b) (lnsMul a b) ∧
      LnsPacked (signBit a != signBit b) (logOf a - logOf b) (lnsDiv a b) ∧
      (let hi := if logOf b ≤ logOf a then a else b
       let lo := if logOf b ≤ logOf a then b else a
       let d := (logOf hi - logOf lo).toNat
       let i := min (d / 16) 255
       (signBit a = signBit b → LnsPacked (signBit hi) (logOf hi + phiTable i) (lnsAdd a b)) ∧
       (signBit a ≠ signBit b → if d = 0 then lnsAdd a b = (0x4000, 0)
         else LnsPacked (signBit hi) (logOf hi + psiTable i) (lnsAdd a b)))) ∧
    ∀ b', b' < 2 ^ 16 → b' % 2 ^ 15 = b % 2 ^ 15 → signBit b' ≠ signBit b → lnsSub a b = lnsAdd a b') ∧
  [0, 16, 41, 64, 255].map phiTable = [252, 147, 57, 22, 0] ∧ [0, 16, 41, 64, 255].map psiTable = [-1419, -248, -67, -23, 0] ∧
  [0, 128, 255].map log2Table = [1, 150, 256] ∧ [0, 128, 255].map exp2Table = [32768, 46341, 65359]

/-- Block quantisation: the scale of a block from the largest magnitude, and each element rounded to the scale's step and
saturated (R18, R20). That a value rounded past the range saturates is R20's own text, followed where an example differs
(log 42). -/
def Sys2Proof.Claims.BlockQuantised : Prop :=
  (∀ n : Nat, bsiScale (.zero false) n = 0 ∧ (∀ neg, bsiScale (.inf neg) n = 254) ∧
    ∀ (m e k : Int), m ≠ 0 → Binade m e k → (bsiScale (.fin m e) n : Int) = max 0 (min 254 (k - ((n : Int) - 2) + 127))) ∧
  (∀ vs : List Val, ((∃ v ∈ vs, ∃ neg, v = .inf neg) → amaxOf vs = .inf false) ∧
    ((∀ v ∈ vs, v = .nan ∨ ∃ neg, v = .zero neg) → ∃ neg, amaxOf vs = .zero neg) ∧
    ∀ m e, (∃ v ∈ vs, v = .fin m e) → (∀ v ∈ vs, v = .nan ∨ (∃ neg, v = .zero neg) ∨ ∃ m' e', v = .fin m' e' ∧
      (v ≠ .fin m e → magLess m' e' m e = true)) → m ≠ 0 → amaxOf vs = .fin m e) ∧
  ∀ (e n x : Nat) (rm : Rounding), e < 256 → 0 < n →
    (∀ v, bsiElem v 255 n rm x = (0, 2)) ∧
    (e ≠ 255 → bsiElem .nan e n rm x = (0, 2) ∧ (∀ neg, bsiElem (.zero neg) e n rm x = (0, 0)) ∧
      (∀ neg, bsiElem (.inf neg) e n rm x = (cut n (if neg then -2 ^ (n - 1) else 2 ^ (n - 1) - 1), 1)) ∧
      ∀ (m k : Int) (r : Nat), RoundsTo rm m k ((e : Int) - 127) x r →
        (let y := clampTo false n (likeSign m r)
         bsiElem (.fin m k) e n rm x = (cut n y, if y = likeSign m r then 0 else 1)))

/-- An entry of a table: in linear mode the exact sum of weights times activations; in LNS mode the sum of the products made
fixed, saturated, with TSAT for every saturation on the way (R114, R118, R119). -/
def Sys2Proof.Claims.TableEntries : Prop :=
  (∀ (b g x : Nat) (texp : Int) (a : Nat → Nat), 1 ≤ b → (∀ i, a i < 2 ^ 16) →
    tableEntry b g none texp a x = (((List.range g).map fun i => linWeight b (weightOf b x i) * asInt false 16 (a i)).sum, false)) ∧
  ∀ (b g x : Nat) (texp : Int) (a w : Nat → Nat) (ys : Nat → Int × Bool),
    (let prod (i : Nat) := lnsMul (w (weightOf b x i)) (a i)
     let sum := ((List.range g).map fun i => (ys i).1).sum
     (∀ i, a i < 2 ^ 16 ∧ w i < 2 ^ 16) → (∀ i, i < g → FixOf (prod i).1 texp (ys i)) →
     tableEntry b g (some w) texp a x = (clampTo false 32 sum,
       ((List.range g).any fun i => (ys i).2 || (prod i).2 == 1) || decide (clampTo false 32 sum ≠ sum)))

/-- The deviation of a slot: 0xFFFF where a scale byte of it is 255, else the sum of the distances of its elements in the two
images, in units of the greatest stored K scale, rounded to nearest even and limited (R294, R323). -/
def Sys2Proof.Claims.SlotDeviations : Prop :=
  ∀ (stored staged : Nat → Nat) (t : Nat), t < 256 → (∀ o, stored o < 256 ∧ staged o < 256) →
    (let worn := ∃ c < 8, kScale stored t c = 255 ∨ vScale stored t c = 255 ∨ kScale staged t c = 255 ∨ vScale staged t c = 255
     (worn → deviation stored staged t = 0xFFFF) ∧
     ∀ (top r : Nat), ¬ worn → (∀ c < 8, kScale stored t c ≤ top) → (∃ c < 8, kScale stored t c = top) →
       RoundedTo .rne false (((List.range 128).map fun d =>
           apart (kElem stored t d) (kScale stored t (d / 16)) (kElem staged t d) (kScale staged t (d / 16)) +
           apart (vElem stored t d) (vScale stored t (d / 16)) (vElem staged t d) (vScale staged t (d / 16))).sum) (2 ^ top) 0 r →
       deviation stored staged t = min r 65535)

namespace Sys2Proof.Claims

/-! ### Vector memory -/

/-- The state in which the places were found lets a thread's accesses through: no uncorrectable word, no line that a
command owns, device memory served; nothing is logged or counted, no convoy is in progress, and nothing about the places
is open (R86, R101, R175, R335, R421, R462). -/
def Open (s s1 : State) (ps : List Nat) : Prop :=
  firstUncorr s1 ps = none ∧ ps.any (isOwned s1) = false ∧ (memReady s1 = true ∨ ∀ p ∈ ps, isDevice p = false) ∧
  NotRecording s ∧ ctlGet s regAcrange = 0 ∧ s.group = {} ∧ NothingOpen s ps

/-- Width of an element in memory (R203). -/
def elemWidth (f : W64) (s : State) : Nat :=
  match f.fn4.toNat with
  | 0 => sewOf s
  | 1 => 1
  | 2 => 4
  | 3 => 8
  | 4 => 16
  | _ => 32

/-- The effective base sb + sext(off16) (R204). -/
def vecBase (f : W64) (s : State) : Word := getR s f.vs1 + BitVec.ofInt 64 f.x16.toInt

/-- The index of element `e` as an integer, shifted by IXC.SHIFT (R205). -/
def vecIndex (f : W64) (s : State) (e : Nat) : Int :=
  let x := (getR s f.rs).toNat
  asInt (!x.testBit 3) (sewOf s) (elemOf s.th.lanes f.vs2.toNat (sewOf s) e) * 2 ^ (x % 8)

/-- How a VMEM instruction addresses its elements: unit stride, strided or indexed (Table 7-4). -/
inductive VecForm where
  | unit | strided | indexed
  deriving DecidableEq, Repr

/-- The form of the loads, stores and atomics of memory. -/
def vecForm (i : Instr) : Option VecForm :=
  match i with
  | .vld _ | .vst _ | .vldff _ | .qld _ => some .unit
  | .vlds _ | .vsts _ | .qlds _ => some .strided
  | .vldx _ | .vstx _ | .vamoadd _ | .vamomax _ | .vamomin _ | .vamoxchg _ | .qgath _ => some .indexed
  | _ => none

/-- Address, bytes, low bit and misalignment of element `e` (R206). -/
def vecAddr (m : VecForm) (f : W64) (s : State) (e : Nat) : ElemAddr :=
  let w := elemWidth f s
  let own (va : Word) : ElemAddr := { va := va, n := w / 8, sh := 0, bad := decide (va.toNat % (w / 8) ≠ 0) }
  match m with
  | .strided => own (vecBase f s + BitVec.ofNat 64 e * getR s f.vs2)
  | .indexed => own (vecBase f s + BitVec.ofInt 64 (vecIndex f s e))
  | .unit =>
    let va := vecBase f s + BitVec.ofNat 64 (w * e / 8)
    { va := va, n := (w * e % 8 + w + 7) / 8, sh := w * e % 8
      bad := if w = 8 ∨ w = 16 ∨ w = 32 then decide (va.toNat % (w / 8) ≠ 0) else decide ((vecBase f s).toNat % 4 ≠ 0) }

/-- The widths and registers of a VMEM instruction are legal at SEW (R59, R203). -/
def VecWidthsOk (m : VecForm) (i : Instr) (f : W64) (s : State) : Prop :=
  elemWidth f s ≤ sewOf s ∧ (m = .unit ∨ elemWidth f s = 8 ∨ elemWidth f s = 16 ∨ elemWidth f s = 32) ∧
  (sewOf s ≤ 16 ∨ ((queueLoads i = true ∨ f.vd.toNat % 2 = 0) ∧ (m ≠ .indexed ∨ f.vs2.toNat % 2 = 0)))
where
  /-- vd of a queue load names a queue. -/
  queueLoads (i : Instr) : Bool :=
    match i with
    | .qld _ | .qlds _ | .qgath _ => true
    | _ => false

/-- The active elements from VSTART on (R215). -/
def fromStart (f : W64) (s : State) : List Nat := (activeOf f s).filter fun e => s.th.csr.vstart.toNat ≤ e

/-- Every element of a list is reached, the lowest first, and its access goes through (R208, R209). -/
def ReachesAll (i : Instr) (m : VecForm) (f : W64) (s s1 : State) (acc : Access) (es : List Nat) (els : List Elem) : Prop :=
  probe (vecCtx (postedOf i s)) acc (vecAddr m f s) es (postedOf i s) = .ok els s1 ∧ Open s s1 (els.flatMap Elem.ps)

/-- The bits of an element in memory. -/
def bitsAt (s : State) (el : Elem) (w : Nat) : Nat := valueAt s el.ps / 2 ^ el.sh % 2 ^ w

/-- What an instruction that reaches memory may change: its thread as every vector instruction does, with its lower
vector registers and what it is ordered after, the bytes it stores, and the caches' own. -/
def MemFrame (i : Instr) (s t : State) : Prop :=
  SameButCaches s t ∧ t.th = { doneThread i s with lanes := { s.th.lanes with v := t.th.lanes.v }, order := t.th.order }

/-- Memory and the old values after read-modify-writes in element order (R220). -/
def atomicFold (w : Nat) (g : Nat → Nat → Nat) : List (Elem × Nat) → Memory → Memory × List (Nat × Nat)
  | [], m => (m, [])
  | (el, d) :: es, m =>
    let old := natOfBytes (el.ps.map (smGet m))
    let r := atomicFold w g es ((placed el.ps (bytesOfNat (w / 8) (g old d % 2 ^ w))).foldl (fun m p => smSet m p.1 p.2) m)
    (r.1, (el.e, old) :: r.2)

/-- The new element of a vector atomic from the old one and the operand (R220). -/
def vecAtomic (i : Instr) (f : W64) (s : State) (w old d : Nat) : Option Nat :=
  let u := (getR s f.rs).toNat.testBit 4
  match i with
  | .vamoadd _ => some (old + d)
  | .vamomax _ => some (if asInt u w old < asInt u w d then d else old)
  | .vamomin _ => some (if asInt u w d < asInt u w old then d else old)
  | .vamoxchg _ => some d
  | _ => none

/-- The value a list of pairs gives an element. -/
def lookup (xs : List (Nat × Nat)) (e : Nat) : Option Nat := (xs.find? fun x => x.1 == e).map Prod.snd

/-- Bit offset of an element in its lane group's private memory (R217). -/
def laneAt (f : W64) (s : State) (e : Nat) : Nat :=
  (getR s f.vs1).toNat + elemOf s.th.lanes f.vs2.toNat (sewOf s) e

/-- The lanes after VSTL: each active element from VSTART on stored in its lane group, the lowest first (R217). A byte of
lane-private memory is keyed by its lane group and its offset, 32768 bytes to a group (R161). -/
def lanesStored (f : W64) (s : State) : Lanes :=
  { s.th.lanes with
    lp := ((fromStart f s).flatMap fun e => laneWrites s (elemWidth f s) e (laneAt f s e)
        (elemOf s.th.lanes f.vd.toNat (sewOf s) e)).foldl
      (fun m w => smSet m (w.p - placeLp (coreOf s.th) 0 0) (mergeByte (smGet m (w.p - placeLp (coreOf s.th) 0 0)) w))
      s.th.lanes.lp }

/-- The bytes a vector store writes, bit for bit: element by element, the low `w` bits of each value (R206, R207). -/
def vecWrites (w : Nat) (els : List Elem) (v : Nat → Nat) : List ByteWrite := els.flatMap fun el => elemWrites w el (v el.e)

/-- The FP32 pattern of the greatest magnitude among the active elements, rounded up; 0 when all are NaN (R275). -/
def amaxBits (f : W64) (s : State) : Nat :=
  let w := fmtWidth f.fn4.toNat (sewOf s)
  match amaxOf ((activeOf f s).map fun e => decodeFmt f.fn4.toNat (sewOf s) (elemOf s.th.lanes f.vs1.toNat w e) 0) with
  | .inf _ => 0x7F800000
  | .fin a e => (encodeFmt 5 32 (.fin a.natAbs e) .rup false 0 0).1
  | _ => 0

/-- The scalar side may issue a queue load at once: the checks of issue pass, and queue and share have room (R4, R72,
R197, R200). -/
def QueueRoom (i : Instr) (q : Nat) (s : State) : Prop :=
  s.th.trap.mode = false ∧ absentUnit s i = none ∧ (∀ h : q < 8, (s.th.q[q]).length < s.th.csr.rad.toNat) ∧
  unitsUsed s.th + entryUnits s.th.lanes.vl.toNat (programSew s.th) ≤ 1024

/-- A queue entry without the place of its data. -/
def unplaced (e : QEntry) : QEntry := { e with doff := 0 }

end Sys2Proof.Claims

/-- VLD, VLDS and VLDX whose elements are all reached write each active element from VSTART on, zero-extended to SEW,
and change no memory (R206, R208, R215). -/
def Obligations.VectorLoads : Prop :=
  ∀ (i : Instr) (m : VecForm) (op : BitVec 8) (f : W64) (s s1 : State) (els : List Elem),
    vecKey i = some (1, op, f) → vecForm i = some m → (match i with
      | .vld _ | .vlds _ | .vldx _ => True
      | _ => False) →
    VecReady i s → SewOk s → VecWidthsOk m i f s → ReachesAll i m f s s1 .read (fromStart f s) els →
    Executes i s fun t => MemFrame i s t ∧ NoStore s t ∧
      WritesVd f (sewOf s) s t (fun e => (els.find? fun el => el.e == e).map fun el => bitsAt s el (elemWidth f s))

/-- VST, VSTS and VSTX whose elements are all reached store the low bits of each active element from VSTART on, in
ascending order, keeping the other bits of a byte they share, and change no other byte and no register; the stores wait
in their lane groups' queues, or are in memory at once where the model holds none back (R206, R207, R215, R344). -/
def Obligations.VectorStores : Prop :=
  ∀ (i : Instr) (m : VecForm) (op : BitVec 8) (f : W64) (s s1 : State) (els : List Elem),
    vecKey i = some (1, op, f) → vecForm i = some m → (match i with
      | .vst _ | .vsts _ | .vstx _ => True
      | _ => False) →
    VecReady i s → SewOk s → VecWidthsOk m i f s → ReachesAll i m f s s1 .write (fromStart f s) els →
    PlainPlaces s1 (els.flatMap Elem.ps) →
    Executes i s fun t => SameButCaches s t ∧ t.th = { doneThread i s with order := t.th.order } ∧
      (∀ p, p ∉ els.flatMap Elem.ps → memByte t p = memByte s p) ∧
      Stored s t none (vecWrites (elemWidth f s) els fun e => elemOf s.th.lanes f.vd.toNat (sewOf s) e)

/-- A vector atomic whose elements are all reached performs each active element's read-modify-write in ascending
order and writes the old elements to vd (R220). -/
def Obligations.VectorAtomics : Prop :=
  ∀ (i : Instr) (op : BitVec 8) (f : W64) (s s1 : State) (els : List Elem) (g : Nat → Nat → Nat),
    vecKey i = some (1, op, f) → (∀ old d, vecAtomic i f s (elemWidth f s) old d = some (g old d)) →
    VecReady i s → SewOk s → VecWidthsOk .indexed i f s → (elemWidth f s = 16 ∨ elemWidth f s = 32) →
    ReachesAll i .indexed f s s1 .atomic (fromStart f s) els → PlainPlaces s1 (els.flatMap Elem.ps) →
    (let r := atomicFold (elemWidth f s) g
        (els.map fun el => (el, elemOf s.th.lanes f.vd.toNat (sewOf s) el.e % 2 ^ elemWidth f s)) s.mem
     Executes i s fun t => MemFrame i s t ∧ t.pending = s.pending ∧ (∀ p, memByte t p = smGet r.1 p) ∧
       WritesVd f (sewOf s) s t (lookup r.2))

/-- What VLDFF leaves when it loads the elements `xs` and `cut` is the element and cause that trimmed it, if any: those
elements in vd, FTR, and no byte of memory changed (R216). -/
def Sys2Proof.Claims.Trimmed (f : W64) (s t : State) (xs : List (Nat × Nat)) (cut : Option (Nat × BitVec 8)) : Prop :=
  t.th = { doneThread (.vldff f) s with
    lanes := { s.th.lanes with v := t.th.lanes.v }, order := t.th.order
    csr := { (doneThread (.vldff f) s).csr with ftr := match cut with
      | some (e, cause) => BitVec.ofNat 64 (2 ^ 63 + cause.toNat * 2 ^ 48 + e)
      | none => s.th.lanes.vl.setWidth 64 } } ∧
  NoStore s t ∧ WritesVd f (sewOf s) s t (lookup xs) ∧
  (cut = none → xs.map Prod.fst = fromStart f s) ∧
  ∀ e cause, cut = some (e, cause) → e ∈ fromStart f s ∧ xs.map Prod.fst = (fromStart f s).filter (· < e)

/-- VLDFF whose first active element is reached, or that has none, completes: the elements before the first that fails
are written, and FTR holds the element count, or the failing element and its cause (R216). -/
def Sys2Proof.Claims.FirstFaultCompletes : Prop :=
  ∀ (f : W64) (s s1 : State) (els : List Elem),
    VecReady (.vldff f) s → SewOk s → VecWidthsOk .unit (.vldff f) f s →
    ReachesAll (.vldff f) .unit f s s1 .read ((fromStart f s).take 1) els →
    s.cmds = [] → NoCommandWrites s → memReady s = true → FillsRead s → NoOwnStores s →
    Executes (.vldff f) s fun t => ∃ xs cut, Trimmed f s t xs cut ∧
      ∀ el ∈ els, lookup xs el.e = some (bitsAt s el (elemWidth f s))

/-- VLDFF writes exactly the elements that its probes and reads give, one element after the other; a failure of the
first active element traps instead (R216). -/
def Sys2Proof.Claims.FirstFaultResult : Prop :=
  ∀ (f : W64) (s s1 : State) (xs : List (Nat × Nat)) (cut : Option (Nat × BitVec 8)),
    VecReady (.vldff f) s → SewOk s → VecWidthsOk .unit (.vldff f) f s → NotRecording s → ctlGet s regAcrange = 0 →
    NoOwnStores s → NoCommandWrites s →
    firstFault (vecCtx (postedOf (.vldff f) s)) (elemWidth f s) ((s.th.pc.setWidth 56).setWidth 64) (vecAddr .unit f s) true
      (fromStart f s) (nextVector (postedOf (.vldff f) s)) = .ok (xs, cut) s1 →
    Executes (.vldff f) s fun t => Trimmed f s t xs cut

/-- VLDL and VSTL move each active element from VSTART on between vd and the private memory of its lane group, at the
bit offset the base and the index give; no other memory changes (R161, R217). -/
def Sys2Proof.Claims.LanePrivate : Prop :=
  ∀ (f : W64) (s : State), SewOk s → VecWidthsOk .unit (.vldl f) f s → (sewOf s ≤ 16 ∨ f.vs2.toNat % 2 = 0) →
    s.uncorr = [] → (∀ e ∈ fromStart f s, laneAt f s e + elemWidth f s ≤ 262144) →
    (VecReady (.vldl f) s → Executes (.vldl f) s fun t => MemFrame (.vldl f) s t ∧ t.mem = s.mem ∧
      WritesVd f (sewOf s) s t (fun e => if e ∈ fromStart f s then
        some (laneBits s.th.lanes (posOf s.th.lanes.gmap e / 1024) (laneAt f s e) (elemWidth f s)) else none)) ∧
    (VecReady (.vstl f) s → Executes (.vstl f) s fun t =>
      (∀ c ∈ t.corr, c ∈ s.corr) ∧
      t = { s with th := { doneThread (.vstl f) s with lanes := lanesStored f s }, corr := t.corr })

/-- What LSYNC leaves once no store of the thread's lane groups waits: its later vector accesses follow all that has been
performed, and nothing else of the package changes but the record of past bytes, which keeps no byte it had not, and the
marks of releases (R225). -/
def Sys2Proof.Claims.LanesSynced (s t : State) : Prop :=
  t = { s with th := { s.th with order := t.th.order }, past := t.past, marks := t.marks } ∧
  (∀ x ∈ t.past, ∃ y ∈ s.past, x = { y with soft := x.soft }) ∧ (∀ k ∈ t.marks, k ∈ s.marks) ∧
  (t.past ≠ [] → s.now ≤ t.th.order.vector ∧ s.th.order.vector ≤ t.th.order.vector ∧ t.th.order.scalar = s.th.order.scalar)

/-- VCONFL counts the lower active elements at the same address for the elements from VSTART on, which is how the model
reads VSTART there (log 21); LSYNC passes once the thread has no lane group's store that waits, and at once when it has
none; VPREF changes no register and no memory (R221, R225, R226, R345, R356). -/
def Sys2Proof.Claims.ConflictsAndPrefetch : Prop :=
  (∀ (f : W64) (s : State), VecReady (.vconfl f) s → SewOk s →
    (sewOf s ≤ 16 ∨ (f.vd.toNat % 2 = 0 ∧ f.vs2.toNat % 2 = 0)) →
    Executes (.vconfl f) s fun t => VecFrame (.vconfl f) s t ∧ t.th.csr.sflags = s.th.csr.sflags ∧
      WritesVd f (sewOf s) s t (fun e => if e ∈ fromStart f s then
        some (min (((activeOf f s).filter fun d => decide (d < e) &&
          decide (BitVec.ofInt 64 (vecIndex f s d) = BitVec.ofInt 64 (vecIndex f s e))).length) (2 ^ sewOf s - 1)) else none)) ∧
  (∀ (f : W64) (s : State), VecReady (.lsync f) s → (∀ x ∈ s.pending, x.thread = s.th.id → x.lane = none) →
    Executes (.lsync f) s fun t => LanesSynced { s with th := doneThread (.lsync f) s } t) ∧
  (∀ (f : W64) (s s1 : State), VecReady (.lsync f) s → forceStores laneStore (postedOf (.lsync f) s) = .ok () s1 →
    Executes (.lsync f) s fun t => LanesSynced { s1 with th := { s1.th with viq := [], vfsw := none } } t ∧
      ∀ x ∈ t.pending, x.thread = s.th.id → x.lane = none) ∧
  (∀ (f : W64) (s : State), VecReady (.vpref f) s → elemWidth f s ≤ sewOf s → ctlGet s regAcrange = 0 →
    Executes (.vpref f) s fun t => t.th = doneThread (.vpref f) s ∧ t.mem = s.mem ∧ t.tasks = s.tasks ∧
      t.banks = s.banks ∧ t.cmds = s.cmds ∧ ∀ o, o ≠ regMerr → o ≠ regMelast → ctlGet t o = ctlGet s o)

/-- VCAPP with room in its ring, its TAIL within one chunk of a window: TAIL moves by the number of active elements from
VSTART on, one entry with bit 31 set stands for each of them, and when the append completes a vector's worth its entries are
performed and an event is latched (R165, R222-R224). That the elements below VSTART take no entry is the model's reading
(log 21). -/
def Sys2Proof.Claims.AppendsEntries : Prop :=
  ∀ (f : W64) (s s1 s2 s3 : State) (ps : List Nat) (bs : List Byte) (els : List Elem),
    VecReady (.vcapp f) s → s.group = {} → fromStart f s ≠ [] → NoOwnStores s → NoMarks s ps →
    ¬ (windowBase ≤ (getR s f.vs1).toNat ∧ (getR s f.vs1).toNat / 2 ^ 30 % 4 = 3) →
    resolveWith (vecCtx (postedOf (.vcapp f) s)) (getR s f.vs1) 64 (decide ((getR s f.vs1).toNat % 64 ≠ 0)) .atomic 0 false
      (postedOf (.vcapp f) s) = .ok ps s1 →
    readBytes ps (getR s f.vs1) 0 s1 = .ok bs s2 →
    (let n := (fromStart f s).length
     let sz := dwordOf bs 1
     let tail := dwordOf bs 2
     let rank := fun e => ((fromStart f s).filter (· < e)).length
     let ring := BitVec.ofNat 64 (dwordOf bs 0)
     let crosses := tail / vlmaxOf s.th.lanes < (tail + n) / vlmaxOf s.th.lanes
     let ws := vecWrites 32 els fun e => 2 ^ 31 + ((getR s f.rs).toNat + e) % 2 ^ 31
     4 ≤ sz → sz ≤ 24 → ring.toNat % 4 = 0 → (∀ b ∈ bs.drop 32, b = 0) → n ≤ 2 ^ sz →
     (tail + n - dwordOf bs 3) % 2 ^ 64 ≤ 2 ^ sz →
     probe (vecCtx (postedOf (.vcapp f) s)) .write
       (fun e => ownAddr (ring + BitVec.ofNat 64 (4 * ((tail + rank e) % 2 ^ sz))) 32) (fromStart f s) s2 = .ok els s3 →
     Open s s3 (ps ++ els.flatMap Elem.ps) → PlainPlaces s3 (ps ++ els.flatMap Elem.ps) →
     (∀ p ∈ els.flatMap Elem.ps, p ∉ ps) → ps.Nodup →
     let appended := fun t : State =>
       (∀ r, getR t r = getR s r) ∧ t.th.pc = s.th.pc + 8 ∧ t.th.viq = [] ∧ t.th.lanes = s.th.lanes ∧
       valueAt t ((ps.drop 16).take 8) = (tail + n) % 2 ^ 64 ∧
       (∀ p, p ∉ (ps.drop 16).take 8 → p ∉ els.flatMap Elem.ps → memByte t p = memByte s p) ∧
       (crosses ∨ s.weak = false →
         StillWaiting s t ∧ ∀ p ∈ els.flatMap Elem.ps, memByte t p = smGet (ws.foldl putByte s.mem) p) ∧
       (¬ crosses ∧ s.weak = true → (∀ p ∈ els.flatMap Elem.ps, memByte t p = memByte s p) ∧
         ∃ ys, t.pending = s.pending ++ ys ∧ ys.flatMap PendingStore.ws = ws ∧ ∀ y ∈ ys, y.thread = s.th.id) ∧
       t.th.latch = (if crosses then (postEvent (getR s f.vs1) s.th).latch else s.th.latch)
     Executes (.vcapp f) s appended ∧ Resumes .vcappRoom (postedOf (.vcapp f) s) appended)

/-- VCAPP without an element from VSTART on to append completes and changes nothing (R223, log 21). -/
def Sys2Proof.Claims.AppendsNothing : Prop :=
  ∀ (f : W64) (s : State), VecReady (.vcapp f) s → fromStart f s = [] →
    Executes (.vcapp f) s fun t => t = { s with th := doneThread (.vcapp f) s }

/-- QLD, QLDS and, with the VIQ empty, QGATH whose elements are all reached append one entry to their queue: it holds
VL, SEW and every element's value, those below VSTART too, and has not arrived yet; VSTART becomes 0, which is the model's
reading (R196-R200, R218, log 21). -/
def Sys2Proof.Claims.QueueLoads : Prop :=
  ∀ (i : Instr) (m : VecForm) (op : BitVec 8) (f : W64) (s s1 : State) (els : List Elem) (q : Fin 8),
    vecKey i = some (1, op, f) → vecForm i = some m → (match i with
      | .qld _ | .qlds _ | .qgath _ => True
      | _ => False) →
    q.val = f.vd.toNat % 8 → QueueRoom i q s → s.th.viq = [] → SewOk s → VecWidthsOk m i f s →
    probe (curCtx s) .read (vecAddr m f s) (List.range s.th.lanes.vl.toNat) s = .ok els s1 →
    Open s s1 (els.flatMap Elem.ps) →
    ∃ t, exec i s = .next t ∧ SameButCaches s t ∧ NoStore s t ∧
      t.th = { s.th with pc := s.th.pc + 8, q := t.th.q, stall := false, fsw := none, order := t.th.order
                         csr := { s.th.csr with vstart := 0 } } ∧
      ∀ r : Fin 8, (t.th.q[r]).map unplaced = (s.th.q[r]).map unplaced ++ (if r = q then
        [{ vl := s.th.lanes.vl, sew := s.th.lanes.sew, arrived := false, doff := 0, width := elemWidth f s, pc := s.th.pc,
           data := els.map fun el => bitsAt s el (elemWidth f s) }] else [])

/-- QCLR with nothing posted empties its queue and changes nothing else but that VSTART becomes 0, which is the model's
reading (R219, R356, log 21). -/
def Sys2Proof.Claims.QueueClears : Prop :=
  ∀ (f : W64) (s : State) (q : Fin 8), q.val = f.vd.toNat % 8 → s.th.trap.mode = false → absentUnit s (.qclr f) = none →
    s.th.viq = [] →
    exec (.qclr f) s = .next { s with th := { s.th with
      pc := s.th.pc + 8, q := s.th.q.set q [], stall := false, fsw := none, csr := { s.th.csr with vstart := 0 } } }

/-- VAMAX raises its word to the FP32 pattern of the greatest active magnitude, rounded up, and changes nothing else;
with no active element it changes nothing (R275). -/
def Sys2Proof.Claims.AmaxWord : Prop :=
  ∀ (f : W64) (s s1 : State) (ps : List Nat),
    VecReady (.vamax f) s → SewOk s → f.form = 1 → (fmtWidth f.fn4.toNat (sewOf s) ≤ 16 ∨ f.vs1.toNat % 2 = 0) →
    (activeOf f s = [] → Executes (.vamax f) s fun t => t = { s with th := doneThread (.vamax f) s }) ∧
    (activeOf f s ≠ [] →
      resolve (vecCtx (postedOf (.vamax f) s)) (getR s f.rs) 4 4 .atomic 0 (postedOf (.vamax f) s) = .ok ps s1 →
      Open s s1 ps → ps.Nodup → PlainPlaces s1 ps →
      Executes (.vamax f) s fun t => SameButCaches s t ∧ t.th = { doneThread (.vamax f) s with order := t.th.order } ∧
        valueAt t ps = max (valueAt s ps) (amaxBits f s) ∧ t.pending = s.pending ∧ ∀ p, p ∉ ps → memByte t p = memByte s p)

namespace Sys2Proof.Claims

/-! ### Banks -/

/-- The thread's task holds the lease, which is not revoked (R127). -/
def Leased (s : State) (k : Task) : Prop := curTask s = some k ∧ k.lease.active = true ∧ k.lease.rev = false

/-- The bank is selected: it is of a pseudo-channel PFIRST to PLAST of the lease and its bit of BMASK is 1 (R106,
R108). -/
def Chosen (s : State) (k : Task) (b : Nat) : Prop :=
  ∃ i j, i < k.lease.npc ∧ bitsOf s.th.csr.bmask.toNat 16 8 ≤ i ∧ i ≤ bitsOf s.th.csr.bmask.toNat 24 8 ∧ j < 16 ∧
    s.th.csr.bmask.getLsbD j = true ∧ b = 16 * (k.lease.p0 + i) + j

/-- The selected banks in the order of their selection indices (R106). -/
def chosenBanks (s : State) (k : Task) : List Nat := selectedBanks k.lease s.th.csr.bmask

/-- Only selected banks changed, beside what every vector-class instruction does. -/
def BankFrame (i : Instr) (s t : State) (k : Task) : Prop :=
  t = { s with th := doneThread i s, banks := t.banks } ∧ ∀ b, ¬ Chosen s k b → bankAt t b = bankAt s b

/-- Only selected banks and the bound bits of the task's lease changed, beside what every vector-class instruction
does. -/
def BindFrame (i : Instr) (s t : State) (k : Task) (bind : Lease → Lease) : Prop :=
  t = { s with th := doneThread i s, banks := t.banks, tasks := t.tasks } ∧ (∀ b, ¬ Chosen s k b → bankAt t b = bankAt s b) ∧
  t.tasks = (updTask s k.id fun u => { u with lease := bind u.lease }).tasks

/-- No error that cannot be corrected lies in the logic-layer storage of the selected banks (R127 item 6). -/
def SoundLogic (s : State) (k : Task) : Prop := ∀ b, Chosen s k b → (bankAt s b).bad = []

/-- Beside what every vector-class instruction does, only banks and tasks changed, and what reading rows changes: the
count of corrected errors, what the thread's bank reads are ordered after with the past bytes, and the numbering of free
values (R89, R100, R341). -/
def RunFrame (i : Instr) (s t : State) : Prop :=
  (∀ o, o ≠ regMerr → ctlGet t o = ctlGet s o) ∧
  t = { s with th := { doneThread i s with order := t.th.order }, banks := t.banks, tasks := t.tasks, ctl := t.ctl
               past := t.past, free := t.free }

/-- Upper register vd of a bank holds the given elements as 40 bits, and OV the given bit; every other register, table
and codebook of the bank is unchanged. -/
def UpperDone (f : W64) (a b : Bank) (ys : Nat → Int) (ov : Bool) : Prop :=
  (∀ e, e < 256 → upper b f.vd.toNat e = asInt false 40 (cut 40 (ys e))) ∧ ovOf b f.vd.toNat = ov ∧
  (∀ r, 32 ≤ r → r < 64 → r ≠ f.vd.toNat → ovOf b r = ovOf a r ∧ ∀ e, e < 256 → upper b r e = upper a r e) ∧
  b.t = a.t ∧ b.texp = a.texp ∧ b.tsat = a.tsat ∧ b.cb = a.cb

/-- Outside the 40-bit range (R121). -/
def beyond40 (y : Int) : Bool := decide (clampTo false 40 y ≠ y)

/-- An element of the operations on upper registers, and whether it raises OV (R140, Table 4-13). -/
def upperOut (i : Instr) (f : W64) (s : State) (k : Bank) (e : Nat) : Option (Int × Bool) :=
  let x := upper k f.vs1.toNat e
  let rs := (getR s f.rs).toNat
  let d := if f.form = 0 then upper k f.vs2.toNat e else asInt false 40 (rs % 2 ^ 40)
  let n := (d % 64).toNat
  let sum (y : Int) := some (y, beyond40 y)
  match i with
  | .uadd _ => sum (x + d)
  | .usub _ => sum (x - d)
  | .umax _ => some (max x d, false)
  | .umin _ => some (min x d, false)
  | .ushl _ => sum (x * 2 ^ n)
  | .ushr _ => some (if 40 ≤ n then 0 else rneShift x n, false)
  | .umov _ => some (x, false)
  | .uclr _ => some (0, false)
  | .usat _ => some (clampTo false 32 x, decide (clampTo false 32 x ≠ x))
  | .ucvt _ =>
    let y := rneShift x (asInt false 8 (rs % 2 ^ 8))
    some (clampTo false 16 y, decide (clampTo false 16 y ≠ y))
  | _ => none

/-- OV of vd before the elements count: that of the sources, none for UCLR (Table 4-13). -/
def sourceOv (i : Instr) (f : W64) (k : Bank) : Bool :=
  match i with
  | .uclr _ => false
  | .uadd _ | .usub _ | .umax _ | .umin _ => ovOf k f.vs1.toNat || (f.form == 0 && ovOf k f.vs2.toNat)
  | _ => ovOf k f.vs1.toNat

/-- The span of a bank for BRED: its pseudo-channel, channel, layer or the whole selection (R141). -/
def spanOf (f : W64) (s : State) (b : Nat) : Nat :=
  match if f.form = 1 then (getR s f.rs).toNat % 4 else 0 with
  | 0 => b / 16
  | 1 => b / 32
  | 2 => b / 64
  | _ => 0

/-- The selected banks of a bank's span. -/
def spanBanks (f : W64) (s : State) (k : Task) (b : Nat) : List Nat :=
  (chosenBanks s k).filter fun c => spanOf f s c == spanOf f s b

/-- A field of the scalar operand of VTOU and UTOV; 0 in form 00 (Table 4-14). -/
def moveField (f : W64) (s : State) (lo w : Nat) : Nat := if f.form = 1 then bitsOf (getR s f.rs).toNat lo w else 0

/-- What VTOU writes to element `e` of the bank at position β. -/
def toUpper (f : W64) (s : State) (β e : Nat) : Int :=
  let j := moveField f s 0 14 + e + if moveField f s 16 1 = 1 then 256 * β else 0
  if j < s.th.lanes.vl.toNat then asInt (moveField f s 17 1 == 1) (sewOf s) (opA f s j) else 0

/-- What UTOV writes to element `j` (R142). -/
def toLower (f : W64) (s : State) (k : Task) (j : Nat) : Option Nat :=
  let b0 := moveField f s 0 14
  let n := if moveField f s 16 1 = 1 then (chosenBanks s k).length else min 1 (chosenBanks s k).length
  let u := moveField f s 17 1 == 1
  if b0 ≤ j ∧ j < b0 + 256 * n ∧ j < s.th.lanes.vl.toNat then
    let y := upper (bankAt s ((chosenBanks s k).getD ((j - b0) / 256) 0)) f.vs1.toNat ((j - b0) % 256)
    some (cut (sewOf s) (if moveField f s 18 1 = 1 then clampTo u (sewOf s) y else y))
  else none

/-- The row and the byte in it where TLOAD and TSTORE find slot TS + j (Table 4-9). -/
def slotPlace (f : W64) (s : State) (j : Nat) : Nat × Nat :=
  let o := (getR s f.rs).toNat
  let q := o / 2 ^ 16 % 4 + j
  (o % 2 ^ 15 + q / 4, q % 4 * 1024)

/-- Slots of TLOAD and TSTORE. -/
def slotCount (f : W64) (s : State) : Nat := bitsOf (getR s f.rs).toNat 24 6

/-- The rows an instruction reads from a bank are pinned. -/
def Pinned (s : State) (k : Task) (rows : List Nat) : Prop :=
  ∀ b, Chosen s k b → ∀ r ∈ rows, (leaseRow k.lease b r).isSome = true

/-- Physical address of a lease row of a bank (R131). -/
def rowAt (k : Task) (b r : Nat) : Nat := ((leaseRow k.lease b r).map Prod.snd).getD 0

/-- Runs on the selected pseudo-channels start at once: no refresh is overdue, no revocation is under way, no other thread
holds or awaits a run, and the power cap admits as many pseudo-channels as are selected (R95, R97, R111). -/
def RunsFree (s : State) (k : Task) : Prop :=
  (∀ p, smGet s.debt p < 8) ∧ s.revoking = [] ∧ (∀ th ∈ s.parked, headRuns th = []) ∧
  ∀ b ∈ chosenBanks s k, ((chosenBanks s k).map (· / 16)).eraseDups.length ≤ admitLimit s (b / 2048)

/-- Runs of bank instructions go through: they start at once, no command owns lines or has writes to perform, no word is uncorrectable, device
memory is served, and no row of the lease has an older byte that a bank may still read (R86, R89, R95, R101, R175). -/
def RunsOpen (s : State) (k : Task) : Prop :=
  RunsFree s k ∧ s.cmds = [] ∧ NoCommandWrites s ∧ s.uncorr = [] ∧ memReady s = true ∧ SoundLogic s k ∧
  ∀ x ∈ s.past, ∀ p ∈ k.lease.pins, x.p < p.pa ∨ p.pa + 2 ^ 21 ≤ x.p

/-- The pages of the lease are frames of 2 MiB, each pinned once (R131). -/
def PinsApart (k : Task) : Prop := (k.lease.pins.map Pin.pa).Nodup ∧ ∀ p ∈ k.lease.pins, p.pa % 2 ^ 21 = 0

/-- Bound bits `a` to `b` set. -/
def withBound (m : BitVec 32) (a b : Nat) : BitVec 32 :=
  m ||| BitVec.ofNat 32 (((List.range 32).filter fun j => decide (a ≤ j) && decide (j ≤ b)).foldl (fun x j => x + 2 ^ j) 0)

/-- A lease with slots `a` to `b` bound as well. -/
def bindTo (a b : Nat) (l : Lease) : Lease := { l with tbound := withBound l.tbound a b }

/-- The fields of TBUILD's scalar operand: groups, texp, first group, first element (Table 4-10). -/
def buildField (f : W64) (s : State) (lo w : Nat) : Nat := bitsOf (getR s f.rs).toNat lo w

/-- The number of the table that unit `u` of TBUILD builds, and its slot and first entry (R115, R136). -/
def tablePlace (f : W64) (s : State) (u : Nat) : Nat × Nat :=
  let n := 2 ^ (bG f * bB f)
  let m := buildField f s 24 12 * bT f + u
  (bTs f + m / (256 / n), m % (256 / n) * n)

/-- Entry `x` of the table that unit `u` builds in a bank (R118, R119, R136). -/
def builtEntry (f : W64) (s : State) (k : Bank) (u x : Nat) : Int × Bool :=
  let a := fun i => (upper k (f.vs1.toNat + u % bT f) (buildField f s 36 8 + u / bT f * bG f + i) % 2 ^ 16).toNat
  tableEntry (bB f) (bG f) (if f.fn4.getLsbD 0 then some fun w => (smGet k.cb (16 * bCb f + w)).toNat else none)
    (asInt false 8 (buildField f s 16 8)) a x

/-- Slots of the tables LUACC reads: the first and the last. -/
def luSlots (f : W64) (s : State) : Nat × Nat :=
  let sub := 256 / 2 ^ (bG f * bB f)
  let q0 := buildField f s 48 12
  (bTs f + q0 * bT f / sub, bTs f + ((q0 + buildField f s 16 15 * (32768 / (bO f * bK f))) * bT f - 1) / sub)

/-- The number a row of 4 KiB holds. -/
def rowNumber (s : State) (pa : Nat) : Nat := natOfBytes (memBytes s pa 4096)

/-- What an accumulation reads: the first group, the first input, the number that key row `i` holds, the scale byte of input
x and output o where it is scaled, and which keys it takes, by row, group and output. -/
structure RowSource where
  q0 : Nat
  x0 : Nat
  row : Nat → Nat
  scale : Option (Nat → Nat → Nat)
  take : Nat → Nat → Nat → Bool

/-- Groups of a key row (R113, R116). -/
def groupsOf (f : W64) : Nat := 32768 / (bO f * bK f)

/-- The key of group `q` for output `o` in a row (R116). -/
def keyAt (f : W64) (row q o : Nat) : Nat := row / 2 ^ ((q * bO f + o) * bK f) % 2 ^ bK f

/-- The entry that a key selects (R114). -/
def keyIndex (f : W64) (key : Nat) : Nat :=
  (List.range (bG f)).foldl (fun x i => x + key / 2 ^ (bK f / bG f * i) % 2 ^ bB f * 2 ^ (bB f * i)) 0

/-- Entry `x` of table `n` of the instruction (R115). -/
def entryAt (k : Bank) (f : W64) (n x : Nat) : Int :=
  let sub := 256 / 2 ^ (bG f * bB f)
  asInt false 32 (slotEntry k (bTs f + n / sub) (n % sub * 2 ^ (bG f * bB f) + x))

/-- What group `q` of row `i` gives token `t` and output `o`: the entry its key selects, scaled; and whether its scale is
255 (R117, R122, R138). -/
def termAt (k : Bank) (f : W64) (r : RowSource) (i q t o : Nat) : Int × Bool :=
  let ent := entryAt k f ((r.q0 + i * groupsOf f + q) * bT f + t) (keyIndex f (keyAt f (r.row i) q o))
  match r.scale with
  | none => (ent, false)
  | some g =>
    let e := g (r.x0 + (i * groupsOf f + q) * bG f) o
    if e = 255 then (0, true) else (rneShift ent (127 - (e : Int)), false)

/-- What row `i` gives token `t` and output `o`: the sum over the groups whose keys are taken. -/
def rowGives (k : Bank) (f : W64) (r : RowSource) (i t o : Nat) : Int :=
  (((List.range (groupsOf f)).filter fun q => r.take i q o).map fun q => (termAt k f r i q t o).1).sum

/-- Element `o` of accumulator vd + t once `n` rows have committed: a 40-bit sum (R121, R138). -/
def accumAt (k : Bank) (f : W64) (r : RowSource) (t o : Nat) : Nat → Int
  | 0 => upper k (f.vd.toNat + t) o
  | n + 1 => asInt false 40 (cut 40 (accumAt k f r t o n + rowGives k f r n t o))

/-- Row `i` raises OV of accumulator vd + t: some output's sum leaves 40 bits, or meets a scale of 255 (R121, R122). -/
def rowRaises (k : Bank) (f : W64) (r : RowSource) (t i : Nat) : Bool :=
  (List.range (bO f)).any fun o => beyond40 (accumAt k f r t o i + rowGives k f r i t o) ||
    ((List.range (groupsOf f)).filter fun q => r.take i q o).any fun q => (termAt k f r i q t o).2

/-- A bank after `n` rows of an accumulation: the accumulators of its tokens hold the sums, and everything else of the bank
what it held (R138). -/
def Accumulated (f : W64) (r : RowSource) (n : Nat) (a b : Bank) : Prop :=
  (∀ t, t < bT f → (∀ o, o < bO f → upper b (f.vd.toNat + t) o = accumAt a f r t o n) ∧
    (∀ o, bO f ≤ o → o < 256 → upper b (f.vd.toNat + t) o = upper a (f.vd.toNat + t) o) ∧
    ovOf b (f.vd.toNat + t) = (ovOf a (f.vd.toNat + t) || (List.range n).any (rowRaises a f r t))) ∧
  (∀ d, 32 ≤ d → d < 64 → (d < f.vd.toNat ∨ f.vd.toNat + bT f ≤ d) →
    ovOf b d = ovOf a d ∧ ∀ e, e < 256 → upper b d e = upper a d e) ∧
  b.t = a.t ∧ b.texp = a.texp ∧ b.tsat = a.tsat ∧ b.cb = a.cb

/-- The place of the scale byte of input `x` and output `o` in the scale string, by layout (R117). -/
def scalePlace (f : W64) (layoutB : Bool) (x o : Nat) : Nat :=
  if layoutB then x * (bO f / 16) + o / 16 else x / 16 * bO f + o

/-- What LUACC reads in a bank: its pinned key rows, and where it is scaled the scale string from lease row λs on (R116,
R117, R138). -/
def luSource (f : W64) (s : State) (k : Task) (b : Nat) : RowSource where
  q0 := buildField f s 48 12
  x0 := 0
  row i := rowNumber s (rowAt k b (buildField f s 0 15 + i))
  scale := if f.fn4.getLsbD 0 then
      some fun x o =>
        let p := scalePlace f (buildField f s 31 1 == 1) x o
        (memByte s (rowAt k b (buildField f s 32 15 + p / 4096) + p % 4096)).toNat
    else none
  take _ _ _ := true

/-- The lease rows of the scale string that key row `i` of LUACC reads from, counted from λs (R117). -/
def scaleRowsAt (f : W64) (s : State) (i : Nat) : List Nat :=
  if f.fn4.getLsbD 0 then
    (List.range (groupsOf f)).flatMap fun q => (List.range (bO f)).map fun o =>
      scalePlace f (buildField f s 31 1 == 1) ((i * groupsOf f + q) * bG f) o / 4096
  else []

end Sys2Proof.Claims

/-- The operations on upper registers act on every selected bank and no other: 40-bit elements, OV by Table 4-13; with
VSTART past their one unit they do nothing (R106, R125, R126, R140). -/
def Obligations.UpperArithmetic : Prop :=
  ∀ (i : Instr) (op : BitVec 8) (f : W64) (s : State) (k : Task),
    vecKey i = some (3, op, f) → (upperOut i f s default 0).isSome = true → VecReady i s → Leased s k →
    SoundLogic s k → 32 ≤ f.vd.toNat → ((∃ g, i = .ucvt g) → f.form = 1) →
    (s.th.csr.vstart = 0 → Executes i s fun t => BankFrame i s t k ∧ ∀ b, Chosen s k b →
      UpperDone f (bankAt s b) (bankAt t b) (fun e => ((upperOut i f s (bankAt s b) e).map Prod.fst).getD 0)
        (sourceOv i f (bankAt s b) || (List.range 256).any fun e => ((upperOut i f s (bankAt s b) e).map Prod.snd).getD false)) ∧
    (s.th.csr.vstart ≠ 0 → Executes i s fun t => t = { s with th := doneThread i s })

/-- BRED sums each span of selected banks into its lowest bank (R141), VTOU writes lane elements to upper registers,
and UTOV writes them back (R142). -/
def Obligations.BankMoves : Prop :=
  (∀ (f : W64) (s : State) (k : Task), VecReady (.bred f) s → s.th.csr.vstart = 0 → Leased s k → SoundLogic s k → 32 ≤ f.vd.toNat →
    Executes (.bred f) s fun t => BankFrame (.bred f) s t k ∧ ∀ b, Chosen s k b →
      if (spanBanks f s k b).head? = some b then
        (let sum := fun e => (spanBanks f s k b).foldl (fun y c => y + upper (bankAt s c) f.vs1.toNat e) 0
         UpperDone f (bankAt s b) (bankAt t b) sum
          (((spanBanks f s k b).any fun c => ovOf (bankAt s c) f.vs1.toNat) || (List.range 256).any fun e => beyond40 (sum e)))
      else bankAt t b = bankAt s b) ∧
  (∀ (f : W64) (s : State) (k : Task), VecReady (.vtou f) s → s.th.csr.vstart = 0 → SewOk s → Leased s k → 32 ≤ f.vd.toNat →
    (sewOf s ≤ 16 ∨ f.vs1.toNat % 2 = 0) →
    moveField f s 0 14 + 256 * (if moveField f s 16 1 = 1 then (chosenBanks s k).length else 1) ≤ 16384 →
    Executes (.vtou f) s fun t => BankFrame (.vtou f) s t k ∧ ∀ β b, (chosenBanks s k)[β]? = some b →
      UpperDone f (bankAt s b) (bankAt t b) (toUpper f s β) false) ∧
  (∀ (f : W64) (s : State) (k : Task), VecReady (.utov f) s → s.th.csr.vstart = 0 → SewOk s → Leased s k → SoundLogic s k → f.tail = false →
    (sewOf s ≤ 16 ∨ f.vd.toNat % 2 = 0) →
    moveField f s 0 14 + 256 * (if moveField f s 16 1 = 1 then (chosenBanks s k).length else 1) ≤ 16384 →
    Executes (.utov f) s fun t => VecFrame (.utov f) s t ∧ t.th.csr.sflags = s.th.csr.sflags ∧
      WritesVd f (sewOf s) s t (toLower f s k))

/-- BLEASE appends the pages of its descriptor to the lease in their order; BRELS ends the lease, a revoked one too; BSTAT
writes its record of Table 4-8 and clears OV and TSAT of the selected banks when asked (R131-R133). -/
def Obligations.Leases : Prop :=
  (∀ (f : W64) (s s1 s2 s3 s4 s5 : State) (k : Task) (n : Nat) (ps qs : List Nat) (hd bs : List Byte) (l : Lease),
    VecReady (.blease f) s → s.th.csr.vstart = 0 → Leased s k →
    resolve (vecCtx (postedOf (.blease f) s)) (getR s f.rs) 8 8 .read 0 (postedOf (.blease f) s) = .ok ps s1 →
    readBytes ps (getR s f.rs) 0 s1 = .ok hd s2 → n = natOfBytes hd % 2 ^ 32 → n ≤ maxPages →
    resolve (vecCtx (postedOf (.blease f) s)) (getR s f.rs) (8 + 8 * n) 8 .read 0 s2 = .ok qs s3 →
    readBytes qs (getR s f.rs) 0 s3 = .ok bs s4 →
    checkPages (vecCtx (postedOf (.blease f) s)) k.lease ((List.range n).map fun i => dwordOf bs (i + 1)) s4 = .ok l s5 →
    Executes (.blease f) s fun t => t.th = { doneThread (.blease f) s with order := t.th.order } ∧ t.banks = s.banks ∧ t.cmds = s.cmds ∧
      curTask t = some { k with lease := l } ∧
      ∃ new, l = { k.lease with pins := k.lease.pins ++ new } ∧ (new.map fun p => p.va.toNat) = (List.range n).map (fun i => dwordOf bs (i + 1)) ∧
        ∀ p ∈ new, p.va.toNat % 2 ^ 21 = 0 ∧ k.lease.p0 ≤ p.bank / 16 ∧ p.bank / 16 < k.lease.p0 + k.lease.npc) ∧
  (∀ (f : W64) (s : State) (k : Task), VecReady (.brels f) s → s.th.csr.vstart = 0 → curTask s = some k → k.lease.active = true →
    Executes (.brels f) s fun t => t.th = doneThread (.brels f) s ∧ t.banks = s.banks ∧ t.mem = s.mem ∧ t.cmds = s.cmds ∧
      t.tasks = (updTask s k.id fun u => { u with lease := {} }).tasks) ∧
  (∀ (f : W64) (s s1 : State) (k : Task) (ps : List Nat), VecReady (.bstat f) s → s.th.csr.vstart = 0 → Leased s k →
    resolve (vecCtx (postedOf (.bstat f) s)) (BitVec.ofNat 64 ((getR s f.rs).toNat / 64 * 64)) 64 64 .write 0
      (postedOf (.bstat f) s) = .ok ps s1 → Open s s1 ps → ps.Nodup → PlainPlaces s1 ps →
    Executes (.bstat f) s fun t => t.th = { doneThread (.bstat f) s with order := t.th.order } ∧ t.tasks = s.tasks ∧
      (∀ p, p ∉ ps → memByte t p = memByte s p) ∧
      (∃ ov ts, valueAt t ps = ov + ts * 2 ^ 96 + k.lease.tbound.toNat * 2 ^ 128 + k.lease.cbound.toNat * 2 ^ 160 +
          (banksCsr s).toNat % 2 ^ 28 * 2 ^ 192 ∧ ov < 2 ^ 32 ∧ ts < 2 ^ 32 ∧
        ∀ j, j < 32 → (ov.testBit j = (chosenBanks s k).any fun b => (bankAt s b).ov.getLsbD j) ∧
          (ts.testBit j = (chosenBanks s k).any fun b => (bankAt s b).tsat.getLsbD j)) ∧
      ∀ b, if (getR s f.rs).getLsbD 0 = true ∧ b ∈ chosenBanks s k
        then bankAt t b = { bankAt s b with ov := 0, tsat := 0 } else bankAt t b = bankAt s b)

/-- CBLD loads codebook CB of every selected bank from the low 16 bits of elements 0 to 15 of vs1 and binds it (R134);
TLOAD loads slots from pinned rows, sets their texp, clears their TSAT and binds them (R135). -/
def Sys2Proof.Claims.TableLoads : Prop :=
  (∀ (f : W64) (s : State) (k : Task), VecReady (.cbld f) s → s.th.csr.vstart = 0 → Leased s k → SoundLogic s k →
    Executes (.cbld f) s fun t =>
      BindFrame (.cbld f) s t k (fun l => { l with cbound := l.cbound ||| BitVec.twoPow 8 (bCb f) }) ∧
      ∀ b, Chosen s k b → bankAt t b = { bankAt s b with cb := (bankAt t b).cb } ∧
        ∀ c j, c < 8 → j < 16 → smGet (bankAt t b).cb (16 * c + j) =
          if c = bCb f then BitVec.ofInt 16 (upper (bankAt s b) f.vs1.toNat j) else smGet (bankAt s b).cb (16 * c + j)) ∧
  (∀ (f : W64) (s : State) (k : Task), VecReady (.tload f) s → Leased s k → s.th.csr.vstart = 0 → RunsOpen s k →
    1 ≤ slotCount f s → slotCount f s ≤ 32 → bTs f + slotCount f s ≤ 32 →
    Pinned s k ((List.range (slotCount f s)).map fun j => (slotPlace f s j).1) →
    Executes (.tload f) s fun t =>
      RunFrame (.tload f) s t ∧ (∀ b, ¬ Chosen s k b → bankAt t b = bankAt s b) ∧
      t.tasks = (updTask s k.id fun u => { u with lease := bindTo (bTs f) (bTs f + slotCount f s - 1) u.lease }).tasks ∧
      ∀ b, Chosen s k b → (bankAt t b).v = (bankAt s b).v ∧ (bankAt t b).ov = (bankAt s b).ov ∧ (bankAt t b).cb = (bankAt s b).cb ∧
        ∀ n, n < 32 → if bTs f ≤ n ∧ n < bTs f + slotCount f s then
            (let r := slotPlace f s (n - bTs f)
             (∀ x, x < 256 → slotEntry (bankAt t b) n x = natOfBytes (memBytes s (rowAt k b r.1 + r.2 + 4 * x) 4)) ∧
              smGet (bankAt t b).texp n = BitVec.ofNat 8 (bitsOf (getR s f.rs).toNat 32 8) ∧ (bankAt t b).tsat.getLsbD n = false)
          else (∀ x, x < 256 → slotEntry (bankAt t b) n x = slotEntry (bankAt s b) n x) ∧
            smGet (bankAt t b).texp n = smGet (bankAt s b).texp n ∧ (bankAt t b).tsat.getLsbD n = (bankAt s b).tsat.getLsbD n)

/-- TSTORE writes the entries of bound slots to pinned rows whose pages grant W, as little-endian words, and no other byte
and no bank changes (R135). -/
def Sys2Proof.Claims.TableStores : Prop :=
  ∀ (f : W64) (s : State) (k : Task), VecReady (.tstore f) s → Leased s k → s.th.csr.vstart = 0 → RunsOpen s k →
    ctlGet s regAcrange = 0 →
    1 ≤ slotCount f s → slotCount f s ≤ 32 → bTs f + slotCount f s ≤ 32 →
    (∀ n, bTs f ≤ n → n < bTs f + slotCount f s → k.lease.tbound.getLsbD n = true) → PinsApart k →
    Pinned s k ((List.range (slotCount f s)).map fun j => (slotPlace f s j).1) → (∀ p ∈ k.lease.pins, p.w = true) →
    (∀ p, isControlled s p = false) →
    Executes (.tstore f) s fun t => t.th = { doneThread (.tstore f) s with order := t.th.order } ∧ t.tasks = s.tasks ∧ t.banks = s.banks ∧
      t.ctl = s.ctl ∧ t.pending = s.pending ∧
      (∀ b j x, Chosen s k b → j < slotCount f s → x < 256 →
        natOfBytes (memBytes t (rowAt k b (slotPlace f s j).1 + (slotPlace f s j).2 + 4 * x) 4) = slotEntry (bankAt s b) (bTs f + j) x) ∧
      ∀ p, (∀ b j, Chosen s k b → j < slotCount f s →
        p < rowAt k b (slotPlace f s j).1 + (slotPlace f s j).2 ∨ rowAt k b (slotPlace f s j).1 + (slotPlace f s j).2 + 1024 ≤ p) →
        memByte t p = memByte s p

/-- TBUILD builds the tables of its groups and tokens in every selected bank, sets texp, records saturation and binds
their slots (R115, R118, R119, R136); TQUERY reads a slot by the low 8 bits of each element (R137). -/
def Sys2Proof.Claims.TablesBuilt : Prop :=
  (∀ (f : W64) (s : State) (k : Task), VecReady (.tbuild f) s → Leased s k → s.th.csr.vstart = 0 → RunsOpen s k →
    bG f * bB f ≤ 8 → 1 ≤ buildField f s 0 16 → buildField f s 36 8 + buildField f s 0 16 * bG f ≤ 256 →
    (tablePlace f s (buildField f s 0 16 * bT f - 1)).1 ≤ 31 → 32 ≤ f.vs1.toNat → f.vs1.toNat + bT f ≤ 64 →
    (f.fn4.getLsbD 0 = true → k.lease.cbound.getLsbD (bCb f) = true) →
    Executes (.tbuild f) s fun t =>
      BindFrame (.tbuild f) s t k (bindTo (tablePlace f s 0).1
        (tablePlace f s (buildField f s 0 16 * bT f - 1)).1) ∧
      ∀ b, Chosen s k b → (bankAt t b).v = (bankAt s b).v ∧ (bankAt t b).ov = (bankAt s b).ov ∧ (bankAt t b).cb = (bankAt s b).cb ∧
        (∀ u x, u < buildField f s 0 16 * bT f → x < 2 ^ (bG f * bB f) →
          slotEntry (bankAt t b) (tablePlace f s u).1 ((tablePlace f s u).2 + x) = cut 32 (builtEntry f s (bankAt s b) u x).1 ∧
          smGet (bankAt t b).texp (tablePlace f s u).1 = BitVec.ofNat 8 (buildField f s 16 8)) ∧
        (∀ n x, n < 32 → x < 256 → (∀ u, u < buildField f s 0 16 * bT f → n = (tablePlace f s u).1 →
          x < (tablePlace f s u).2 ∨ (tablePlace f s u).2 + 2 ^ (bG f * bB f) ≤ x) →
          slotEntry (bankAt t b) n x = slotEntry (bankAt s b) n x) ∧
        (∀ n, n < 32 → (∀ u, u < buildField f s 0 16 * bT f → n ≠ (tablePlace f s u).1) →
          smGet (bankAt t b).texp n = smGet (bankAt s b).texp n) ∧
        ∀ n, n < 32 → (bankAt t b).tsat.getLsbD n = ((bankAt s b).tsat.getLsbD n ||
          (List.range (buildField f s 0 16 * bT f)).any fun u => (tablePlace f s u).1 == n &&
            (List.range (2 ^ (bG f * bB f))).any fun x => (builtEntry f s (bankAt s b) u x).2)) ∧
  (∀ (f : W64) (s : State) (k : Task), VecReady (.tquery f) s → s.th.csr.vstart = 0 → Leased s k → SoundLogic s k → RunsFree s k → 32 ≤ f.vd.toNat →
    k.lease.tbound.getLsbD (bTs f) = true →
    Executes (.tquery f) s fun t => BankFrame (.tquery f) s t k ∧ ∀ b, Chosen s k b →
      UpperDone f (bankAt s b) (bankAt t b) (fun e => asInt false 32 (slotEntry (bankAt s b) (bTs f)
        (upper (bankAt s b) f.vs1.toNat e % 2 ^ 8).toNat)) false)

namespace Sys2Proof.Claims

/-! ### Engines and KV blocks -/

/-- The engine commands, and the commands of the splice unit and the Fids (R169, R317, R325). -/
def isCmd (i : Instr) : Bool :=
  match i with
  | .xcopy _ | .xcopym _ | .xfill _ | .xstrm _ | .xsclose _ | .xstorRead _ | .xstorWrite _ | .xstorFlush _ | .xcoll _
  | .xcancel _ | .ksplice _ | .krepair _ => true
  | _ => false

/-- Scratchpad cores an XCOPYM selects: CM bit c is core c of the issuing cluster (R180). -/
def copyCores (f : W64) (s : State) : List Nat :=
  ((List.range 4).filter fun c => f.x16.getLsbD (5 + c)).map (s.th.id / 16 * 4 + ·)

/-- The operands of a command are within its limits (R170, R178, R180, R186, R192, R308). -/
def LimitsOk (i : Instr) (f : W64) (s : State) : Prop :=
  let sd := getR s f.vd
  let sn := getR s f.vs2
  match i with
  | .xcopy _ | .xfill _ => sn.toNat < 2 ^ 40
  | .xcopym _ => sn.toNat < 2 ^ 40 ∧ bitsOf f.x16.toNat 5 4 ≠ 0 ∧ isWindow sd.toNat = true ∧ bitsOf sd.toNat 36 4 = 0 ∧
    Nat.land (bitsOf sd.toNat 0 36) 0xC01FFFFF = bitsOf sd.toNat 0 36 ∧ ∀ c ∈ copyCores f s, corePresent s c = true
  | .xstorRead _ | .xstorWrite _ => drvBound s (bitsOf f.x16.toNat 5 2) = true ∧ 1 ≤ sn.toNat ∧ sn.toNat ≤ 2 ^ 20 ∧
    isWindow sd.toNat = false ∧ sd.toNat % 4096 = 0
  | .xstorFlush _ => drvBound s (bitsOf f.x16.toNat 5 2) = true
  | .xcancel _ => getR s f.vs1 ≠ getR s f.rs
  | .ksplice _ | .krepair _ => (getR s f.vs1).toNat % 64 = 0
  | _ => True

/-- The ranges whose window rules are checked at acceptance (R171). -/
def windowRanges (i : Instr) (f : W64) (s : State) : List (Word × Nat) :=
  let sd := getR s f.vd
  let sa := getR s f.vs1
  let n := (getR s f.vs2).toNat
  match i with
  | .xcopy _ => [(sd, n), (sa, n)]
  | .xfill _ => [(sd, n)]
  | .xcopym _ => (copyCores f s).map (fun c => (scratchAddr c sd, n)) ++ [(sa, n)]
  | _ => []

/-- An XCANCEL. -/
def isCancel (i : Instr) : Bool :=
  match i with
  | .xcancel _ => true
  | _ => false

/-- A command has written some bytes: they wait to be performed at their homes where the model holds writes back, and are in
memory where it does not; nothing else is written (R334, R336). -/
def CommandStored (s t : State) (c : Cmd) (ws : List (Nat × Byte)) : Prop :=
  (s.weak = true → (∀ p, memByte t p = memByte s p) ∧ ∃ ys, t.pending = s.pending ++ ys ∧
    (∀ y ∈ ys, y.thread = unitKey c.id ∧ ∃ k, y.cmd = some k ∧ k.task = c.task ∧ k.since = c.since) ∧
    ∀ w, w ∈ ys.flatMap PendingStore.ws ↔ ∃ x ∈ ws, w = { p := x.1, b := x.2 }) ∧
  (s.weak = false → NoCommandWrites s → StillWaiting s t ∧
    ∀ p, memByte t p = ((ws.find? fun x => x.1 == p).map Prod.snd).getD (memByte s p))

/-- A KV instruction's thread: as after every vector-class instruction, with its result in rd (R307); what it is ordered
after may change too, as by an acquire (R313, R349). -/
def KvThread (i : Instr) (f : W64) (s t : State) (v : Nat) : Prop :=
  t.th = { (setR { s with th := doneThread i s } f.vd (BitVec.ofNat 64 v)).th with order := t.th.order }

/-- Bytes outside the 64-byte header of a block are unchanged. -/
def OutsideHeader (s t : State) (pa : Nat) : Prop :=
  ∀ p, (p < hdrAt pa 0 ∨ hdrAt pa 64 ≤ p) → memByte t p = memByte s p

/-- The block at sa is named, in the task's KV domain, and its header can be read (R308). -/
def BlockAt (i : Instr) (f : W64) (s s1 : State) (acc : Access) (pa : Nat) : Prop :=
  (getR s f.vs1).toNat % 4096 = 0 ∧ kvBlock (getR s f.vs1) acc (postedOf i s) = .ok pa s1 ∧ Open s s1 (hdrPlaces pa)

/-- A header: TAG, the word of COMMITSEQ, REFCNT and STATE, POSBASE's word, the fourth word, and REPAIR. -/
def Header (s : State) (pa tag w1 w2 w3 repair : Nat) : Prop :=
  hdrWord s pa 0 = tag ∧ hdrWord s pa 1 = w1 ∧ hdrWord s pa 2 = w2 ∧ hdrWord s pa 3 = w3 ∧ hdrRepair s pa = repair

/-- COMMITSEQ, REFCNT and STATE as a word (Table 10-2). -/
def seqWord (seq ref st : Nat) : Nat := seq * 2 ^ 32 + ref * 2 ^ 16 + st

/-- RC of set `i` of a sequence descriptor's reader-count word. -/
def rcOf (rc i : Nat) : Nat := rc / 2 ^ (32 * i) % 2 ^ 32

/-- The set of a descriptor that an address names: 1 for B, 0 for A (R310). -/
def setOf (bs : List Byte) (a : Nat) : Option Nat :=
  if a = dwordOf bs 3 then some 1 else if a = dwordOf bs 2 then some 0 else none

/-- The reader counts after KBIND, where it succeeds (R310). -/
def rcAfter (i : Instr) (bs : List Byte) (old : Nat) : Option Nat :=
  let up (rc : Nat) := (setOf bs (dwordOf bs 4)).bind fun k => if rcOf rc k = 2 ^ 32 - 1 then none else some (rc + 2 ^ (32 * k))
  let down (rc : Nat) := (setOf bs old).bind fun k => if rcOf rc k = 0 then none else some (rc - 2 ^ (32 * k))
  match i with
  | .kbindBind _ => up (dwordOf bs 5)
  | .kbindUnbind _ => down (dwordOf bs 5)
  | .kbindRebind _ => (down (dwordOf bs 5)).bind up
  | _ => none

/-- The slots of a block-table entry. -/
def entrySlots (e : BlockEntry) : List Nat := (List.range e.count).map (e.first + ·)

/-- Positions in the token list of the slots whose deviation exceeds the threshold (R324). -/
def movedBits (e : BlockEntry) (s : State) (base : Nat) (staged : Nat → Nat) : List Nat :=
  ((entrySlots e).filter fun j => decide (s.th.csr.devthr.toNat < deviation (fun o => (memByte s (e.pa + o)).toNat) staged j)).map
    (hdrPos s e.pa + · - base)

/-- The state with the deviations of an entry's slots in its block's header, written at one instant, which the thread's later reads of the bank
follow (R124). -/
def withDeviations (e : BlockEntry) (s s6 : State) (staged : Nat → Nat) : State :=
  let t := kvWrite s6 ((entrySlots e).flatMap fun j =>
    hdrField e.pa (0x40 + 2 * j) (bytesOfNat 2 (deviation (fun o => (memByte s (e.pa + o)).toNat) staged j)))
  rowFrom (bankOf s6 e.pa).1 t.now t

/-- A staged byte by its offset; 0 where none was read. -/
def stagedByte (xs : List (Nat × Byte)) (o : Nat) : Nat := ((xs.find? fun x => x.1 == o).map fun x => x.2.toNat).getD 0

/-- The slots whose bit of KCOMMIT's mask is 1 (R330). -/
def maskSlots (mask : Nat) : List Nat := (List.range 256).filter mask.testBit

/-- An address that KCOMMIT of the block at `pa` does not write: no byte of a masked slot, not in the header. -/
def OutsideOf (p pa mask : Nat) : Prop :=
  (∀ j ∈ maskSlots mask, ∀ o ∈ slotBytes j, p ≠ pa + o) ∧ (p < hdrAt pa 0 ∨ hdrAt pa 64 ≤ p)

/-- What LUACC.kv reads of the block of an entry: the K part for 256 outputs, whose tokens are its outputs, or the V part for
128, whose tokens are its inputs; keys of the tokens of the entry are taken (Table 4-12, R139). -/
def kvSource (f : W64) (s : State) (e : BlockEntry) : RowSource :=
  let k := bO f == 256
  let f0 := buildField f s 0 2
  let x0 := (if k then 32 else 64) * f0
  { q0 := 0
    x0 := x0
    row := fun i => rowNumber s (e.pa + 4096 * ((if k then 0 else 4) + f0 + i))
    scale := some fun x o => (memByte s (e.pa + 4096 * 8 + (if k then 0 else 2048) + scalePlace f (!k) x o)).toNat
    take := fun i q o =>
      let j := if k then o else x0 + (i * groupsOf f + q)
      decide (e.first ≤ j) && decide (j < e.first + e.count) }

/-- The last slot LUACC.kv reads (R139). -/
def kvLastSlot (f : W64) (s : State) : Nat :=
  bTs f + ((buildField f s 2 2 + 1) * (32768 / (bO f * bK f)) * bT f - 1) / (256 / 2 ^ (bG f * bB f))

/-- What a posted instruction is performed with when no forward-only member comes before it (R68). -/
def ctxOf (i : Instr) (f : W64) (s : State) : VCtx := { e := entryOf i s.th.pc s, f := f, src := s.th.lanes }

end Sys2Proof.Claims

/-- A command whose checks pass is accepted once the thread's earlier accesses are performed: the thread goes on at once,
and one more command of its task is in progress, with its operands and its slot (R168-R171, R317, R325, R346); ENGINE_ACCEPT
does so for a command that has waited. The 256 commands that may be outstanding are counted by task, which is the model's
choice (log 41). -/
def Obligations.CommandsAccepted : Prop :=
  ∀ (i : Instr) (u : BitVec 3) (op : BitVec 8) (f : W64) (s s1 : State) (k : Task) (ps : List Nat),
    vecKey i = some (u, op, f) → isCmd i = true → VecReady i s → curTask s = some k → getR s f.rs ≠ 0 → LimitsOk i f s →
    FillsRead s → NoOwnStores s →
    resolve (engineCtx (postedOf i s)) (getR s f.rs) 8 8 .write 0 (postedOf i s) = .ok ps s1 →
    (∀ r ∈ windowRanges i f s, windowFault s1 (engineCtx s1) r.1 r.2 = none) →
    (isCancel i = true ∨ (s.cmds.filter fun x => x.task == k.id && !x.isCancel).length < 256) →
    (let accepted := fun t : State => t.th = { doneThread i s with order := t.th.order } ∧ t.tasks = s.tasks ∧ t.banks = s.banks ∧ t.nextCmd = s.nextCmd + 1 ∧
      t.cmds.map Cmd.id = s.cmds.map Cmd.id ++ [s.nextCmd] ∧
      (∃ c ∈ t.cmds, c.id = s.nextCmd ∧ c.insn = i ∧ c.task = k.id ∧ c.launch = k.launch ∧ c.rank = k.rank ∧
        c.core = coreOf s.th ∧ c.hw = s.th.id ∧ c.sd = (if u = 4 then getR s f.vd else 0) ∧ c.sa = getR s f.vs1 ∧ c.sn = getR s f.vs2 ∧
        c.slot = getR s f.rs) ∧
      (ctlGet s regAcrange = 0 → (∀ g, i ≠ .xstrm g) → (∀ g, i ≠ .xcancel g) → NoCommandWrites s →
        ∀ p, memByte t p = memByte s p)
     Executes i s accepted ∧ Resumes .engineAccept (postedOf i s) accepted)

/-- An XCOPY or XFILL that has not been cancelled, whose bytes are all reached and whose source has not been written since
its acceptance (R176), is completed by its event once no earlier command owns its lines (R175): before the slot is written it
has written the source's bytes, or the doubleword sa repeated, to the destination and no other byte, and the command is gone
(R174, R178, R179); the writes wait to be performed at their homes, each in its turn (R334). A completion slot receives DONE,
the status, its TAG and 1, and COUNT (R173). -/
def Obligations.CopiesAndFills : Prop :=
  (∀ (s s1 s2 : State) (c : Cmd) (n : Nat) (src : Nat → Byte) (rs ds : List Reached) (ps : List Nat),
    s.stopped = false → (s.cmds.find? fun k => k.id == c.id) = some c → c.prog = .whole → c.target = none → c.cancelled = false →
    grantHeld s c = false →
    n = c.sn.toNat → s.uncorr = [] → ctlGet s regAcrange = 0 →
    (match c.insn with
     | .xcopy _ => reachBytes (cmdCtx c) .read c.sa n s = (rs, s1) ∧
        ∃ qs, allPlaces rs = some qs ∧ (∀ x ∈ s.past, c.since < x.at' → x.p ∉ qs) ∧
          ∀ i, i < n → src i = memByte s (qs.getD i 0)
     | .xfill _ => s1 = s ∧ ∀ i, i < n → src i = BitVec.ofNat 8 (bitsOf c.sa.toNat (8 * (i % 8)) 8)
     | _ => False) →
    reachBytes (cmdCtx c) .write c.sd n s1 = (ds, s2) → allPlaces ds = some ps → ps.Nodup → PlainPlaces s ps →
    ∃ u, exec (.commandCompletion c.id) s =
        .next (writeSlot (cmdCtx c) c.slot 0 n u { use := .read, release := some (c.agent, unitKey c.id, c.scope) }) ∧
      CommandStored s u c ((List.range n).map fun i => (ps.getD i 0, src i)) ∧
      u.cmds = s.cmds.filter (fun k => k.id != c.id) ∧ u.th = s.th ∧ u.tasks = s.tasks ∧ u.banks = s.banks) ∧
  (∀ (c : Ctx) (va : Word) (status count : Nat) (how : SlotBy) (s s1 : State) (rs : List Reached) (ps : List Nat),
    reachBytes c .atomic va 8 s = (rs, s1) → va.toNat % 8 = 0 → allPlaces rs = some ps → ps.Nodup → firstUncorr s1 ps = none →
    ctlGet s regAcrange = 0 → PlainPlaces s ps → (∀ x ∈ s.pending, x.cmd ≠ none → ∀ w ∈ x.ws, w.p ∉ ps) →
    (let t := writeSlot c va status count s how
     valueAt t ps = 2 ^ 63 + status % 2 ^ 7 * 2 ^ 56 + (valueAt s ps / 2 ^ 40 + 1) % 2 ^ 16 * 2 ^ 40 + count % 2 ^ 40 ∧
     (∀ p, p ∉ ps → memByte t p = memByte s p) ∧ t.th = s.th ∧ t.tasks = s.tasks ∧ t.cmds = s.cmds ∧ t.banks = s.banks))

/-- KSTATE and KRELS on a block that can be named: the result in rd and the header as R315 and R316 give it, and no other
byte changed. -/
def Obligations.KvHeaders : Prop :=
  ∀ (f : W64) (s s1 : State) (pa : Nat),
    (let word := hdrWord s pa
     let seq := hdrSeq s pa
     let ref := hdrRef s pa
     let st := hdrState s pa
     (VecReady (.kstateRead f) s → BlockAt (.kstateRead f) f s s1 .read pa →
       Executes (.kstateRead f) s fun t => KvThread (.kstateRead f) f s t (word 1) ∧ ∀ p, memByte t p = memByte s p) ∧
     (VecReady (.kstateLoc f) s → BlockAt (.kstateLoc f) f s s1 .read pa →
       Executes (.kstateLoc f) s fun t => KvThread (.kstateLoc f) f s t (pa / 4096) ∧ ∀ p, memByte t p = memByte s p) ∧
     (VecReady (.kstateFill f) s → BlockAt (.kstateFill f) f s s1 .write pa → getR s f.vs2 ≠ 0 → st = 0 →
       Executes (.kstateFill f) s fun t => KvThread (.kstateFill f) f s t (seqWord 0 1 1) ∧ OutsideHeader s t pa ∧
         Header t pa (getR s f.vs2).toNat (seqWord 0 1 1) (word 2) 0 0) ∧
     (VecReady (.kstateClean f) s → BlockAt (.kstateClean f) f s s1 .write pa → st = 1 →
       Executes (.kstateClean f) s fun t => KvThread (.kstateClean f) f s t (seqWord seq ref 2) ∧ OutsideHeader s t pa ∧
         Header t pa (word 0) (seqWord seq ref 2) (word 2) (word 3) (hdrRepair s pa)) ∧
     (VecReady (.kstateReopen f) s → BlockAt (.kstateReopen f) f s s1 .write pa → st = 2 → ref = 1 →
       Executes (.kstateReopen f) s fun t => KvThread (.kstateReopen f) f s t (seqWord seq 1 1) ∧ OutsideHeader s t pa ∧
         Header t pa (word 0) (seqWord seq 1 1) (word 2) (word 3) (hdrRepair s pa)) ∧
     (VecReady (.krels f) s → BlockAt (.krels f) f s s1 .write pa → ref ≠ 0 → st ≠ 4 →
       Executes (.krels f) s fun t => KvThread (.krels f) f s t (ref - 1) ∧ OutsideHeader s t pa ∧
         if ref = 1 then Header t pa 0 (seqWord seq 0 0) (word 2) 0 0
         else Header t pa (word 0) (seqWord seq (ref - 1) st) (word 2) (word 3) (hdrRepair s pa)))

/-- KBIND changes the reader counts of its sequence descriptor and no other byte, and gives the published set where it
binds (R310); KCHECK of entries that are all good gives their pending bits in the polling mode and 0 otherwise (R311).
KBIND finds the thread's earlier accesses performed. KV_WAIT_RELEASE completes a KCHECK that has waited. -/
def Obligations.KvBindings : Prop :=
  (∀ (i : Instr) (op : BitVec 8) (f : W64) (s s1 : State) (ps : List Nat) (rc : Nat),
    vecKey i = some (5, op, f) → VecReady i s → (getR s f.vs1).toNat % 64 = 0 → isWindow (getR s f.vs1).toNat = false →
    kvPlaces (getR s f.vs1) 64 .write 0 (postedOf i s) = .ok ps s1 → Open s s1 ps → ps.Nodup → PlainPlaces s1 ps →
    rcAfter i (ps.map (memByte s)) (getR s f.vs2).toNat = some rc → FillsRead s → NoOwnStores s → NoMarks s ps →
    Executes i s fun t => SameButCaches s t ∧ t.pending = s.pending ∧ valueAt t ((ps.drop 40).take 8) = rc ∧
      (∀ p, p ∉ (ps.drop 40).take 8 → memByte t p = memByte s p) ∧
      (match i with
       | .kbindUnbind _ => t.th = { doneThread i s with order := t.th.order }
       | _ => KvThread i f s t (dwordOf (ps.map (memByte s)) 4))) ∧
  (∀ (f : W64) (s s1 : State) (es : List (BlockEntry × Bool)),
    VecReady (.kcheck f) s → (getR s f.vs1).toNat % 32 = 0 → (getR s f.vs2).toNat ≤ 64 →
    ctlGet s regAcrange = 0 → NoOwnStores s → NoCommandWrites s →
    checkEntries (getR s f.vs1) (visOf f) (List.range (getR s f.vs2).toNat) (postedOf (.kcheck f) s) = .ok es s1 →
    (visOf f ≠ 0 ∨ ∀ x ∈ es, x.2 = false) →
    (let checked := fun t : State => es.length = (getR s f.vs2).toNat ∧
      (∃ m, KvThread (.kcheck f) f s t (if visOf f = 1 then m else 0) ∧ m < 2 ^ es.length ∧
        ∀ i, i < es.length → m.testBit i = (es[i]?.map Prod.snd).getD false) ∧
      SameButCaches s t ∧ NoStore s t
     Executes (.kcheck f) s checked ∧ Resumes .kvWaitRelease (postedOf (.kcheck f) s) checked))

/-- KPROBE of an entry whose operands can be read writes the deviations of its slots, sets the bits of those above the
threshold and gives how many were 0 (R321-R324); KCOMMIT writes the masked slots, clears their REPAIR bits and advances
COMMITSEQ, once the thread's earlier accesses are performed and while no block read of the block is in progress (R314,
R330, R349). -/
def Sys2Proof.Claims.ProbeAndCommit : Prop :=
  (∀ (f : W64) (s s1 s2 s3 s4 s5 s6 s7 : State) (e : BlockEntry) (pending : Bool) (d lh : List Byte)
    (xs : List (Nat × Byte)) (n : Nat),
    (let sa := getR s f.vs1
     let sb := getR s f.vs2
     let stage := BitVec.ofNat 64 (dwordOf d 0)
     let list := BitVec.ofNat 64 (dwordOf d 1)
     let base := dwordOf lh 0 % 2 ^ 32
     let nbits := dwordOf lh 0 / 2 ^ 32
     VecReady (.kprobe f) s → FillsRead s → NoOwnStores s → NoCommandWrites s → s.th.order.awaited = [] → s.past = [] → s.uncorr = [] → s.cmds = [] → memReady s = true → ctlGet s regAcrange = 0 →
     sa.toNat % 32 = 0 → sb.toNat % 64 = 0 →
     kvEntry sa 0 (fun _ _ => true) (postedOf (.kprobe f) s) = .ok e s1 → kvVisible e sa 0 (visOf f) s1 = .ok pending s2 →
     (pending = true → visOf f ≠ 0) → kvRead sb 64 0 s2 = .ok d s3 → stage.toNat % 4096 = 0 → list.toNat % 8 = 0 →
     (∀ b ∈ d.drop 16, b = 0) → kvRead list 8 0 s3 = .ok lh s4 → 1 ≤ nbits → nbits ≤ 2 ^ 24 →
     (∀ j ∈ entrySlots e, base ≤ hdrPos s e.pa + j ∧ hdrPos s e.pa + j < base + nbits) →
     readOffsets stage ((entrySlots e).flatMap slotBytes) s4 = .ok xs s5 →
     checkListBits list (movedBits e s base (stagedByte xs)) (countCorr s5 ((List.range (9 * 4096)).map (e.pa + ·))) = .ok () s6 →
     setListBits list (movedBits e s base (stagedByte xs)) (withDeviations e s s6 (stagedByte xs)) = .ok n s7 →
     Executes (.kprobe f) s fun t => KvThread (.kprobe f) f s t n ∧ t.mem = s7.mem ∧ t.tasks = s.tasks ∧ t.banks = s.banks)) ∧
  (∀ (f : W64) (s s1 s2 s3 : State) (d : List Byte) (xs : List (Nat × Byte)) (pa : Nat),
    (let sa := getR s f.vs1
     let sb := getR s f.vs2
     let stage := BitVec.ofNat 64 (dwordOf d 0)
     let mask := natOfBytes ((d.drop 16).take 32)
     let seq := (hdrSeq s pa + 1) % 2 ^ 32
     VecReady (.kcommit f) s → FillsRead s → NoOwnStores s → NoCommandWrites s → s.uncorr = [] → s.cmds = [] → memReady s = true →
     blockRead s pa = false → sa.toNat % 4096 = 0 → sb.toNat % 64 = 0 →
     kvRead sb 64 0 (joinVector (publish true (postedOf (.kcommit f) s))) = .ok d s1 → stage.toNat % 4096 = 0 → dwordOf d 1 = 0 → dwordOf d 6 = 0 →
     dwordOf d 7 = 0 → readOffsets stage ((maskSlots mask).flatMap slotBytes) s1 = .ok xs s2 →
     kvBlock sa .write s2 = .ok pa s3 → Open s s3 (hdrPlaces pa) →
     (hdrState s pa = 1 ∨ hdrState s pa = 2 ∨ hdrState s pa = 4) → hdrRef s pa = 1 →
     Executes (.kcommit f) s fun t => KvThread (.kcommit f) f s t seq ∧ SameButCaches s t ∧
       (∀ j ∈ maskSlots mask, ∀ o ∈ slotBytes j, (memByte t (pa + o)).toNat = stagedByte xs o) ∧
       (∀ j, j < 256 → (hdrRepair t pa).testBit j = ((hdrRepair s pa).testBit j && !mask.testBit j)) ∧
       hdrWord t pa 1 = seqWord seq 1 (hdrState s pa) ∧ hdrWord t pa 0 = hdrWord s pa 0 ∧
       ∀ p, OutsideOf p pa mask → memByte t p = memByte s p))

/-- LUACC adds to the accumulators of every selected bank the table entries its pinned rows name, row by row, scaled where
the instruction says so (R114-R117, R121-R123, R138); LUACC.kv does so over the block that each bank's entry names, for the
slots of the entry (R139). Each accumulator holds the 40-bit sum of those entries. -/
def Obligations.Accumulates : Prop :=
  (∀ (f : W64) (s : State) (k : Task), VecReady (.luacc f) s → Leased s k → s.th.csr.vstart = 0 → RunsOpen s k →
    bG f * bB f ≤ 8 → 32 ≤ f.vd.toNat → f.vd.toNat + bT f ≤ 64 →
    buildField f s 16 15 ≤ 24576 → 1 ≤ buildField f s 16 15 → (luSlots f s).2 ≤ 31 →
    (∀ n, (luSlots f s).1 ≤ n → n ≤ (luSlots f s).2 → k.lease.tbound.getLsbD n = true) →
    Pinned s k ((List.range (buildField f s 16 15)).map (buildField f s 0 15 + ·)) →
    Pinned s k ((List.range (buildField f s 16 15)).flatMap fun i => (scaleRowsAt f s i).map (buildField f s 32 15 + ·)) →
    Executes (.luacc f) s fun t => RunFrame (.luacc f) s t ∧ t.tasks = s.tasks ∧
      (∀ b, ¬ Chosen s k b → bankAt t b = bankAt s b) ∧
      ∀ b, Chosen s k b → Accumulated f (luSource f s k b) (buildField f s 16 15) (bankAt s b) (bankAt t b)) ∧
  (∀ (f : W64) (s s1 : State) (k : Task) (es : List (BlockEntry × Option Pin)) (pending : Bool),
    VecReady (.luaccKv f) s → Leased s k → s.th.csr.vstart = 0 → RunsOpen s k → NoOwnStores s → ctlGet s regAcrange = 0 →
    bG f * bB f ≤ 8 → 32 ≤ f.vd.toNat → f.vd.toNat + bT f ≤ 64 →
    buildField f s 0 2 + buildField f s 2 2 + 1 ≤ 4 → kvLastSlot f s ≤ 31 →
    (∀ n, bTs f ≤ n → n ≤ kvLastSlot f s → k.lease.tbound.getLsbD n = true) →
    kvBankEntries (ctxOf (.luaccKv f) f s) k.lease ((List.range (chosenBanks s k).length).zip (chosenBanks s k))
      (postedOf (.luaccKv f) s) = .ok (es, pending) s1 → (pending = true → visOf f ≠ 0) →
    Executes (.luaccKv f) s fun t => t.th = { doneThread (.luaccKv f) s with order := t.th.order } ∧ t.tasks = s.tasks ∧ t.mem = s.mem ∧
      (∀ b, ¬ Chosen s k b → bankAt t b = bankAt s b) ∧
      ∀ β b : Nat, (chosenBanks s k)[β]? = some b → ∃ (e : BlockEntry) (p : Pin), es[β]? = some (e, some p) ∧
        Accumulated f (kvSource f s e) (buildField f s 2 2 + 1) (bankAt s b) (bankAt t b))

namespace Sys2Proof.Claims

/-! ### Convoys -/

/-- The elements of a register and their width, as the member after a forward-only one reads them: the forwarded
results in register `r`, the thread's own elsewhere (R68). -/
def seenElem (l : Lanes) (r w : Nat) (res : Nat → Nat) (x e : Nat) : Nat := if x = r then res e else elemOf l x w e

/-- The second operand of a lane instruction without a queue source, its register read through `elem`. -/
def opBSeen (f : W64) (s : State) (w : Nat) (elem : Nat → Nat → Nat) (e : Nat) : Nat :=
  match f.form.toNat with
  | 0 => elem f.vs2.toNat e
  | 1 => (getR s f.rs).toNat % 2 ^ w
  | _ => (f.x16.signExtend 32).toNat % 2 ^ w

/-- What lane arithmetic gives each element, with its saturation, when registers are read through `elem`. -/
def laneSeen (i : Instr) (f : W64) (s : State) (elem : Nat → Nat → Nat) (e : Nat) : Option (Nat × Bool) :=
  laneOut i f (sewOf s) (elem f.vs1.toNat e) (opBSeen f s (sewOf s) elem e)

/-- Some active element saturates. -/
def anySat (f : W64) (s : State) (g : Nat → Option (Nat × Bool)) : Bool :=
  (activeOf f s).any fun e => ((g e).map Prod.snd).getD false

/-- The elements that a forward-only member's register would have held at SEW (R68). -/
def forwarded (f : W64) (s : State) (g : Nat → Option (Nat × Bool)) (e : Nat) : Nat :=
  match (if isActive f s e then (g e).map Prod.fst else none) with
  | some r => r
  | none => if f.tail = true ∧ s.th.lanes.vl.toNat ≤ e then 0 else elemOf s.th.lanes f.vd.toNat (sewOf s) e

/-- The planes of lower registers, by register and element. -/
abbrev Planes := Nat → Nat → Nat

/-- An element at width `w`, a pair above 16 bits (R228). -/
def elemIn (p : Planes) (r w e : Nat) : Nat :=
  if w ≤ 16 then p r e % 2 ^ w else p r e + 2 ^ 16 * (p (r + 1) e % 2 ^ (w - 16))

/-- The planes with elements of a register written at width `w`, those above keeping what they hold (R228). -/
def putIn (p : Planes) (r w : Nat) (v : Nat → Nat) : Planes := fun x e =>
  if x = r then (if w ≤ 16 then p r e / 2 ^ w * 2 ^ w + v e else v e % 2 ^ 16)
  else if 16 < w ∧ x = r + 1 then p x e / 2 ^ (w - 16) * 2 ^ (w - 16) + v e / 2 ^ 16
  else p x e

/-- The planes after the members of a convoy of lane arithmetic, in order, and whether an element saturated; `fwd` is the
register and the elements that a forward-only member just before them gives (R65, R68). -/
def convoyRun (s : State) : List (Instr × W64) → Planes → Option (Nat × (Nat → Nat)) → Planes × Bool
  | [], p, _ => (p, false)
  | (i, f) :: ms, p, fwd =>
    let w := sewOf s
    let seen := fun r e => match fwd with
      | some (x, res) => if r = x then res e else elemIn p r w e
      | none => elemIn p r w e
    let new := fun e => match (if isActive f s e then (laneSeen i f s seen e).map Prod.fst else none) with
      | some r => r
      | none => if f.tail = true ∧ s.th.lanes.vl.toNat ≤ e then 0 else elemIn p f.vd.toNat w e
    let r := if isForward i then convoyRun s ms p (some (f.vd.toNat, new)) else convoyRun s ms (putIn p f.vd.toNat w new) none
    (r.1, anySat f s (laneSeen i f s seen) || r.2)

/-- A convoy's members are performed at once: the VIQ is empty, the thread outside trap mode, and its stores are held back as
in every run, or none waits; VL is at most VLMAX (Table 8-2). -/
def ConvoyReady (s : State) : Prop :=
  s.th.viq = [] ∧ s.th.trap.mode = false ∧ s.stopped = false ∧ s.group = {} ∧ (s.weak = true ∨ NoOwnStores s) ∧ SewOk s ∧
  s.th.lanes.vl.toNat ≤ vlmaxOf s.th.lanes

/-- Only lower vector registers and SFLAGS changed once a convoy of `n` members has been performed. -/
def ConvoyFrame (n : Nat) (s t : State) : Prop :=
  t = { s with th := { s.th with
    pc := s.th.pc + BitVec.ofNat 64 (4 + 8 * n), viq := [], stall := false, fsw := none, vfsw := none
    lanes := { s.th.lanes with v := t.th.lanes.v, z := t.th.lanes.z }
    csr := { s.th.csr with vstart := 0, sflags := t.th.csr.sflags } } } ∧
  ∀ k, smGet t.th.lanes.z k = smGet s.th.lanes.z k

/-! ### CSRs -/

/-- The CSRs whose bits a program may write as it likes, with those bits; outside trap mode for VSTART (Table 12-1). -/
def csrBits (c : BitVec 12) (trapMode : Bool) : Option Nat :=
  match c.toNat with
  | 0x001 => if trapMode then none else some 0xFFFFF
  | 0x004 | 0x203 | 0x204 | 0x208 => some (2 ^ 64 - 1)
  | 0x005 | 0x007 | 0x009 => some (2 ^ 32 - 1)
  | 0x006 => some (2 ^ 63 + 0xFF * 2 ^ 48 + 0x7FFF)
  | 0x008 => some 0xFFFF
  | 0x00A => some 0xF
  | 0x200 => some 0x71E
  | 0x201 | 0x207 => some (2 ^ 56 - 1)
  | 0x202 => some 0xFF
  | 0x20A => some 0xF3F
  | _ => none

/-- What the CSRs that hold a field of the machine read as (Table 12-1). -/
def csrHolds (s : State) (c : BitVec 12) : Option Word :=
  let r := s.th.trap
  match c.toNat with
  | 0x000 => some (s.th.lanes.sew.setWidth 64)
  | 0x002 => some (s.th.csr.rmode.setWidth 64)
  | 0x003 => some (s.th.csr.rad.setWidth 64)
  | 0x004 => some s.th.csr.gkey
  | 0x005 => some (s.th.csr.gcnt.setWidth 64)
  | 0x007 => some (s.th.csr.bmask.setWidth 64)
  | 0x008 => some (s.th.csr.devthr.setWidth 64)
  | 0x009 => some (s.th.csr.wdog.setWidth 64)
  | 0x100 => some (s.th.lanes.vl.setWidth 64)
  | 0x101 => some (BitVec.ofNat 64 (1024 * ((List.range 16).filter fun h => s.th.lanes.gmap.getLsbD h).length))
  | 0x103 => some 256
  | 0x106 => some (s.cycles.toList.getD (s.th.id / 4) 0)
  | 0x107 => some ((s.th.task.getD 0).setWidth 64)
  | 0x108 => some (BitVec.ofNat 64 (s.th.id / 4))
  | 0x109 => some (BitVec.ofNat 64 s.th.id)
  | 0x201 => some (r.tpc.setWidth 64)
  | 0x202 => some (r.cause.setWidth 64)
  | 0x203 => some r.faddr
  | 0x204 => some r.finfo
  | 0x205 => some (r.cause2.setWidth 64)
  | 0x206 => some r.faddr2
  | 0x207 => some (r.tvec.setWidth 64)
  | 0x208 => some r.tstack
  | 0x209 => some (BitVec.ofNat 64 s.th.viq.length)
  | _ => none

/-- A CSR may be accessed at once: it is no register of trap mode outside it, nothing posted is outstanding where its
access waits, and the task does not record (R354, R355, R462). -/
def CsrOpen (s : State) (c : BitVec 12) : Prop :=
  (c.toNat < 0x200 ∨ s.th.trap.mode = true) ∧
  (c.toNat ∈ [0x000, 0x001, 0x006, 0x00A, 0x105] → s.th.trap.mode = true ∨ s.th.viq = []) ∧ NotRecording s

/-- The CSR instructions that write, with destination, CSR and what they make of the old value (R355). -/
def csrChange (i : Instr) (s : State) : Option (Reg × BitVec 12 × (Word → Word)) :=
  match i with
  | .csrw d a c => some (d, c, fun _ => getR s a)
  | .csrs d a c => some (d, c, fun old => old ||| getR s a)
  | .csrc d a c => some (d, c, fun old => old &&& ~~~ getR s a)
  | _ => none

/-! ### Waits, barriers, spawning -/

/-- The task of the thread with its barrier count and arrival. -/
def withBar (s : State) (id : BitVec 32) (n : BitVec 32) (b : Bool) : State :=
  { s with tasks := s.tasks.map fun t => if t.id = id then { t with barK := n, arrived := b } else t }

/-- Nothing changed but what the thread is ordered after, the record of past bytes, which keeps no byte it had not, and the
marks of releases. Where there is no past byte, the order has changed only where the scalar side is joined to the vector side,
as a release of kind v does (R213, R335, R341). -/
def OnlyOrder (joins : Bool) (s t : State) : Prop :=
  t = { s with th := { s.th with order := t.th.order }, past := t.past, marks := t.marks } ∧
  (∀ x ∈ t.past, ∃ y ∈ s.past, x = { y with soft := x.soft }) ∧ (∀ k ∈ t.marks, k ∈ s.marks) ∧
  (s.past = [] → if joins then VectorJoined s t.th.order else t.th.order = s.th.order)

/-- The thread's later scalar and vector accesses see all that has been performed; nothing else changed (R338, R340). -/
def Acquired (joins : Bool) (s t : State) : Prop :=
  OnlyOrder joins s t ∧ (s.past ≠ [] → s.now ≤ t.th.order.scalar ∧ s.now ≤ t.th.order.vector)

/-- The state once the thread's earlier accesses, all performed, are released (R341, R380). -/
def released (s : State) : State := joinVector (publish true s)

/-- The core cycles that a wait has left: those of its limit register when it begins, none with s0; what a wait that has
begun still has (R376). -/
def waitTime (s : State) (tm : Reg) : Option Nat :=
  match s.th.wait with
  | some (.event left) => left
  | _ => if tm = 0 then none else some (getR s tm).toNat

/-- A wait that its instruction makes: the destination, the condition's word where it holds at once, and what it writes
for its FADDR and number (Table 14-19). -/
def waitsWith (i : Instr) (s : State) : Option (Reg × Nat × Word) :=
  match i with
  | .waitc _ a t => some (t, 1, getR s a)
  | .waitv _ t => some (t, 2, 0)
  | .waitq _ _ t => some (t, 3, 0)
  | _ => none

/-- The condition of WAITV or WAITQ does not hold: the latch is empty, or the queue's oldest unclaimed entry has yet to
arrive (R378, R379). -/
def NotYet (i : Instr) (s : State) : Prop :=
  match i with
  | .waitv _ _ => s.th.latch = none
  | .waitq _ q _ => ∃ e, (s.th.q[q.toNat]).find? (fun e => !e.claimed) = some e ∧ e.arrived = false
  | _ => False

/-- How many entries of a queue satisfy a condition. -/
def countOf (p : QEntry → Bool) (es : List QEntry) : Nat := (es.filter p).length

end Sys2Proof.Claims

/-- A legal convoy posts its members in order, each with its index and the convoy's size and at its own address, and PC
moves past them all (R65-R67). -/
def Sys2Proof.Claims.ConvoyPosts : Prop :=
  ∀ (h : Parcel) (ms : List (BitVec 64)) (s : State),
    convoyLegal h ms = true → s.vlag = true → s.th.viq = [] → s.th.trap.mode = false → s.stopped = false →
    (∀ i ∈ ms.filterMap memberInstr, absentUnit s i = none ∧ queueOf i = none) →
    ∃ t, exec (.convoy h ms) s = .next t ∧ t.th.pc = s.th.pc + BitVec.ofNat 64 (4 + 8 * ms.length) ∧
      t.th.viq.length = ms.length ∧
      (∀ m, m < ms.length → ∃ e, t.th.viq[m]? = some e ∧ (ms[m]?.bind memberInstr) = some e.insn ∧ e.conv = true ∧
        e.member.toNat = m ∧ e.cnt.toNat + 2 = ms.length ∧ e.claimed = false ∧ e.skip = false ∧ e.replay = false ∧
        e.addr = (s.th.pc + BitVec.ofNat 64 (4 + 8 * m)).setWidth 56 ∧
        e.restart = (match vecKey e.insn with
          | some (1, _, _) => if m = 0 then s.th.csr.vstart else 0
          | _ => 0)) ∧
      t.th.sr = s.th.sr ∧ t.th.lanes = s.th.lanes ∧ t.th.q = s.th.q ∧ t = { s with th := t.th }

/-- In a convoy of two lane arithmetic instructions the second reads the forward-only result of the first, whose register
keeps what it held; both raise their flags, and nothing else changes (R65, R68). -/
def Sys2Proof.Claims.ConvoyForwards : Prop :=
  ∀ (h : Parcel) (x y : BitVec 64) (i j : Instr) (op op' : BitVec 8) (f g : W64) (s : State),
    convoyLegal h [x, y] = true → memberInstr x = some i → memberInstr y = some j →
    vecKey i = some (0, op, f) → vecKey j = some (0, op', g) → isForward i = true →
    (laneOut i f 1 0 0).isSome = true → (laneOut j g 1 0 0).isSome = true → queueOf i = none → queueOf j = none →
    ConvoyReady s → absentUnit s i = none → absentUnit s j = none →
    RegsOk f s (sewOf s) (sewOf s) (sewOf s) → RegsOk g s (sewOf s) (sewOf s) (sewOf s) →
    (let first := laneSeen i f s (fun r e => elemOf s.th.lanes r (sewOf s) e)
     let second := laneSeen j g s (seenElem s.th.lanes f.vd.toNat (sewOf s) (forwarded f s first))
     Executes (.convoy h [x, y]) s fun t =>
       ConvoyFrame 2 s t ∧
       WritesVd g (sewOf s) s t (fun e => if isActive g s e then (second e).map Prod.fst else none) ∧
       t.th.csr.sflags = flagsWith s (if anySat f s first || anySat g s second then 1 else 0))

/-- A convoy of two to six lane arithmetic instructions completes: its members are performed in order, each reading what the
ones before it wrote, and what a forward-only member just before it gives; all raise their flags, and nothing else changes
(R65, R67, R68). -/
def Sys2Proof.Claims.ConvoyCompletes : Prop :=
  ∀ (h : Parcel) (ms : List (BitVec 64)) (is : List (Instr × W64)) (s : State),
    convoyLegal h ms = true → ms.map memberInstr = is.map (fun x => some x.1) →
    (∀ x ∈ is, (∃ op, vecKey x.1 = some (0, op, x.2)) ∧ (laneOut x.1 x.2 1 0 0).isSome = true ∧ queueOf x.1 = none ∧
      absentUnit s x.1 = none ∧ RegsOk x.2 s (sewOf s) (sewOf s) (sewOf s)) →
    ConvoyReady s →
    (let r := convoyRun s is (planesOf s.th.lanes) none
     Executes (.convoy h ms) s fun t => ConvoyFrame ms.length s t ∧
       (∀ x e, x < 32 → e < vlmaxOf s.th.lanes → planesOf t.th.lanes x e = r.1 x e) ∧
       t.th.csr.sflags = flagsWith s (if r.2 then 1 else 0))

/-- CSRR gives the CSR's value and changes nothing else; CSRW, CSRS and CSRC give the old value and write the register's
own bits, leaving every other CSR but VCP and VIQDAT (R354, R355). -/
def Sys2Proof.Claims.CsrAccess : Prop :=
  (∀ (d : Reg) (c : BitVec 12) (s : State), (csrWritable c).isSome = true → CsrOpen s c →
    exec (.csrr d c) s = .next (setR (Passed s 4) d (csrRead s c.toNat)) ∧
      ∀ v, csrHolds s c = some v → csrRead s c.toNat = v) ∧
  (∀ (i : Instr) (d : Reg) (c : BitVec 12) (g : Word → Word) (s : State),
    csrChange i s = some (d, c, g) → csrWritable c = some true → CsrOpen s c →
    ∃ t, exec i s = .next t ∧ getR t d = (if d = 0 then 0 else csrRead s c.toNat) ∧ OtherRegs d s t ∧ t.th.pc = s.th.pc + 4 ∧
      t = { s with th := t.th } ∧ t.th.q = s.th.q ∧ t.th.latch = s.th.latch ∧ t.th.task = s.th.task ∧
      (∀ m, csrBits c s.th.trap.mode = some m → csrRead t c.toNat = g (csrRead s c.toNat) &&& BitVec.ofNat 64 m) ∧
      ∀ c' : BitVec 12, c' ≠ c → c' ≠ 0x105 → c' ≠ 0x20B → (c ≠ 0x20B ∨ c' ≠ 0x001) →
        csrRead t c'.toNat = csrRead s c'.toNat)

/-- A CSR of trap mode read or written outside it is cause 0x04 with 0x1000 plus its number in FINFO (R354, R427), and lane
arithmetic that is legal under VTYPE is a double fault in trap mode (R72, R427, R434). -/
def Sys2Proof.Claims.TrapModeOnly : Prop :=
  (∀ (i : Instr) (c : BitVec 12) (s : State),
    ((∃ d, i = .csrr d c) ∨ (∃ d a, i = .csrw d a c) ∨ (∃ d a, i = .csrs d a c) ∨ (∃ d a, i = .csrc d a c)) →
    i.wf = true → 0x200 ≤ c.toNat → CanTrap s →
    ∃ t, exec i s = .next t ∧ TrapTaken s t 0x04 s.th.pc (BitVec.ofNat 64 (0x1000 + c.toNat)) 0 ∧ ∀ p, memByte t p = memByte s p) ∧
  (∀ (i : Instr) (op : BitVec 8) (f : W64) (s : State),
    vecKey i = some (0, op, f) → (laneOut i f 1 0 0).isSome = true → isForward i = false → absentUnit s i = none →
    SewOk s → RegsOk f s (sewOf s) (sewOf s) (sewOf s) → s.th.trap.mode = true →
    ∃ t, exec i s = .next t ∧
      t.th.trap = { s.th.trap with frozen := true, cause2 := 0x04, faddr2 := s.th.pc } ∧ t.th.pc = s.th.pc ∧
      t.th.lanes = s.th.lanes ∧ t.th.viq = s.th.viq)

/-- BAR, once what the thread did before is performed, completes when every member of the gang has arrived: PC moves on, the
count goes up by one, the arrival is taken back, and later scalar and vector accesses see all that has been performed. Else it
is broken when a member ended below the count, which is cause 0x17, or the thread waits (R375). That it completes where a
member has arrived and then ended is the model's choice (log 36). -/
def Obligations.Barriers : Prop :=
  ∀ (s : State) (id : BitVec 32) (k : Task),
    s.th.task = some id → curTask s = some k → (∀ m ∈ s.tasks, m.id = id → m = k) → k.arrived = false → s.th.viq = [] →
    FillsRead s → NoOwnStores s →
    (let n := k.barK.toNat + 1
     let gang := s.tasks.filter fun m => m.base = k.base ∧ m.id ≠ id
     let here (m : Task) : Prop := n ≤ m.barK.toNat ∨ (m.arrived = true ∧ m.barK.toNat + 1 = n)
     let broke (m : Task) : Prop := (∃ st, m.status = .ended st) ∧ m.barK.toNat < n
     ((∀ m ∈ gang, here m) → ∃ t, exec .bar s = .next t ∧ Acquired true (Passed (withBar s id (k.barK + 1) false) 4) t) ∧
     ((∃ m ∈ gang, ¬ here m) → (∀ m ∈ gang, ¬ broke m) → (∀ st, k.status ≠ .ended st) →
       ∃ t, exec .bar s = .next t ∧ OnlyOrder true { withBar s id k.barK true with
         th := { s.th with wait := some .bar, stall := true, fsw := t.th.fsw } } t) ∧
     ((∃ m ∈ gang, ¬ here m) → (∃ m ∈ gang, broke m) → CanTrap s →
       ∃ t, exec .bar s = .next t ∧ TrapTaken s t 0x17 s.th.pc (BitVec.ofNat 64 n) 0 ∧ t.mem = s.mem))

/-- WAITC writes the slot's word once its DONE bit is 1, WAITV takes the event latch's word and empties it, both with an
acquire, and WAITQ gives the counts of its queue (R377-R379). That READY counts no entry that has failed is the model's choice
(log 36). -/
def Sys2Proof.Claims.WaitsMet : Prop :=
  (∀ (d a tm : Reg) (s s1 : State) (ps : List Nat), Reaches s s1 (getR s a) 8 .read ps → NoMarks s ps →
    2 ^ 63 ≤ valueAt s ps →
    ∃ t, exec (.waitc d a tm) s = .next t ∧ getR t d = (if d = 0 then 0 else BitVec.ofNat 64 (valueAt s ps)) ∧
      t.th.pc = s.th.pc + 4 ∧ t.th.wait = none ∧ t.th.stall = false ∧ OtherRegs d s t ∧ ThreadScalars s t ∧
      SameButCaches s t ∧ NoStore s t ∧
      (s.past ≠ [] → s.now ≤ t.th.order.scalar ∧ s.now ≤ t.th.order.vector)) ∧
  (∀ (d tm : Reg) (s : State) (w : Word), s.th.latch = some w → NotRecording s →
    ∃ t, exec (.waitv d tm) s = .next t ∧
      Acquired false (setR (Passed { s with th := { s.th with latch := none } } 4) d w) t) ∧
  (∀ (d : Reg) (q : BitVec 3) (tm : Reg) (s : State), ¬ NotYet (.waitq d q tm) s →
    (let es := s.th.q[q.toNat]
     let free := es.filter fun e => !e.claimed
     exec (.waitq d q tm) s = .next (setR (Passed s 4) d (BitVec.ofNat 64
       ((if free.head?.any QEntry.failed then 2 ^ 48 else 0) + countOf (fun e => e.arrived && !e.failed) free * 2 ^ 32 +
        free.length * 2 ^ 16 + es.length)))))

/-- A wait whose condition does not hold: the thread waits, with the time that is left, or, where none is left, takes cause
0x0E with the wait's number in FINFO (R376). -/
def Sys2Proof.Claims.WaitsUnmet : Prop :=
  (∀ (i : Instr) (s : State) (tm : Reg) (n : Nat) (a : Word), waitsWith i s = some (tm, n, a) → NotYet i s →
    (waitTime s tm ≠ some 0 → exec i s = .next { s with th := { s.th with
      wait := some (.event (waitTime s tm)), stall := true, fsw := none } }) ∧
    (waitTime s tm = some 0 → CanTrap s →
      ∃ t, exec i s = .next t ∧ TrapTaken s t 0x0E a (BitVec.ofNat 64 n) 0 ∧ t.mem = s.mem)) ∧
  (∀ (d a tm : Reg) (s s1 : State) (ps : List Nat), Reaches s s1 (getR s a) 8 .read ps → valueAt s ps < 2 ^ 63 →
    (waitTime s tm ≠ some 0 → ∃ t, exec (.waitc d a tm) s = .next t ∧ SameButCaches s t ∧ NoStore s t ∧
      t.th = { s.th with wait := some (.event (waitTime s tm)), stall := true, fsw := none, order := t.th.order }) ∧
    (waitTime s tm = some 0 → CanTrap s →
      ∃ t, exec (.waitc d a tm) s = .next t ∧ TrapTaken s t 0x0E (getR s a) 1 0 ∧ NoStore s t))

/-- SPAWN appends the record at rd's queue and gives 0; it gives 1 when the queue is full, and 2 when the address is no
descriptor of an enabled device-owned queue; it waits while an engine owns the entry's line, and takes 0x09 where the entry
lies in no memory that it reaches (R175, R380, R392). What a placed record leaves: its 128 bytes at the entry that
TAIL named, and TAIL one greater. The model's choices: 0x09 with the entry's physical address in FADDR (log 30), and 2 for an
address whose descriptor cannot be read (log 37). -/
def Obligations.Spawns : Prop :=
  (∀ (d q l : Reg) (s s1 s2 s3 s4 : State) (rs ps : List Nat) (bs : List Byte),
    s.th.viq = [] → FillsRead s → NoOwnStores s → NotRecording s →
    resolve (curCtx s) (getR s l) 128 64 .read 0 (released s) = .ok rs s1 → readHome rs (getR s l) 0 s1 = .ok bs s2 →
    resolve (curCtx s) (getR s q) 64 64 .write 0 s2 = .ok ps s4 → awaitPlaces ps s4 = .ok () s3 →
    (let rec' : BitVec 1024 := BitVec.ofNat 1024 (natOfBytes bs)
     (queueAt s3 ps = none → exec (.spawn d q l) s = .next (setR (Passed s3 4) d 2)) ∧
     ∀ n, queueAt s3 ps = some n →
       (match submitTo (noteDesc s3 n) n rec' true with
        | .refused => exec (.spawn d q l) s = .next (setR (Passed (noteDesc s3 n) 4) d 2)
        | .full => exec (.spawn d q l) s = .next (setR (Passed (noteDesc s3 n) 4) d 1)
        | .noEntry p => CanTrap s → ∃ t, exec (.spawn d q l) s = .next t ∧ TrapTaken s t 0x09 (BitVec.ofNat 64 p) 0 0
        | .owned => ∃ t, exec (.spawn d q l) s = .next t ∧ t.th = { s.th with stall := true, order := t.th.order }
        | .placed _ u => exec (.spawn d q l) s = .next (setR (Passed u 4) d 0)))) ∧
  (∀ (s u : State) (n pos : Nat) (r : BitVec 1024) (dev : Bool), submitTo s n r dev = .placed pos u → s.uncorr = [] →
    NoCommandWrites s → ctlGet s regAcrange = 0 →
    ∃ e, queueDesc s n = some e ∧ pos = e.tail ∧ (dev = true → e.dev = true) ∧ pendingRecords e.tail e.head ≠ 2 ^ e.sz ∧
      (let at' := e.ring + 128 * (e.tail % 2 ^ e.sz)
       let tail := queueAddr s n + 0x10
       PlainPlaces s ((List.range 128).map (at' + ·) ++ (List.range 8).map (tail + ·)) → (at' + 128 ≤ tail ∨ tail + 8 ≤ at') →
       (∀ i, i < 128 → (memByte u (at' + i)).toNat = r.toNat / 2 ^ (8 * i) % 2 ^ 8) ∧
       valueAt u ((List.range 8).map (tail + ·)) = (e.tail + 1) % 2 ^ 64 ∧
       ∀ p, (p < at' ∨ at' + 128 ≤ p) → (p < tail ∨ tail + 8 ≤ p) → memByte u p = memByte s p)) ∧
  (∀ (s : State) (n : Nat) (e : QueueDesc), queueDesc s n = some e → pendingRecords e.tail e.head = 2 ^ e.sz → e.dev = true →
    ∀ r, submitTo s n r true = .full)

/-- HALT ends the task: OK outside trap mode once what was posted is done, where no thread runs the task any longer and its
lease is over; ABORTED in trap mode, where it keeps its thread and lease until its end's last step. No other task has
changed (R382, R394, R397). -/
def Obligations.Halts : Prop :=
  ∀ (s : State) (id : BitVec 32) (k : Task), s.th.task = some id → curTask s = some k →
    (s.th.trap.mode = true ∨ (s.th.viq = [] ∧ FillsRead s ∧ NoOwnStores s)) →
    ∃ t, exec .halt s = .next t ∧
      (∃ e, findTask t id = some e ∧ e.status = .ended (if s.th.trap.mode then 0x20 else 0) ∧
        e.launch = k.launch ∧ e.pend = false ∧
        (s.th.trap.mode = false → e.lease.active = false) ∧ (s.th.trap.mode = true → e.lease = k.lease)) ∧
      (s.th.trap.mode = false → ∀ u ∈ t.th :: t.parked, u.task ≠ some id) ∧
      (s.th.trap.mode = true → t.th.task = some id ∧ t.th.viq = [] ∧ t.th.lanes = s.th.lanes) ∧
      (∀ m ∈ s.tasks, m.id ≠ id → m ∈ t.tasks) ∧
      t.banks = s.banks ∧ (∀ p, memByte t p = memByte s p) ∧
      ((∀ m ∈ s.tasks, m.base = k.base → m = k) → ∃ x ∈ t.endings, x.id = k.base ∧ x.launch = k.launch ∧
        x.status = (if s.th.trap.mode then 0x20 else 0))

namespace Sys2Proof.Claims

/-! ### Events of the device -/

/-- A field of a register of drive slot `n` (Table 15-5). -/
def slotField (s : State) (n reg lo w : Nat) : Nat := bitsOf (ctlGet s (regDrv + 32 * n + 8 * reg)).toNat lo w

/-- Only one control register changed. -/
def OnlyRegister (o : Nat) (s t : State) : Prop := t = { s with ctl := t.ctl } ∧ ∀ o', o' ≠ o → ctlGet t o' = ctlGet s o'

/-- A control register's value with one bit as given. -/
def BitOf (o k : Nat) (b : Bool) (s t : State) : Prop :=
  ∀ j, j < 64 → (ctlGet t o).getLsbD j = if j = k then b else (ctlGet s o).getLsbD j

/-- The RW bits of the control registers that a write simply sets (Tables 4-4, 13-3, 14-4, 15-4). -/
def plainBits (o : Nat) : Option Nat :=
  match o with
  | 0x030000 => some (2 ^ 64 - 64)
  | 0x030010 | 0x040058 => some 0xFFFF
  | 0x030018 | 0x030020 => some 0xFFFFFFFF
  | 0x040000 | 0x060140 => some (2 ^ 64 - 4096)
  | 0x040008 => some (2 ^ 56 - 2 ^ 16)
  | 0x040028 | 0x040060 | 0x040080 => some (2 ^ 64 - 4096 + 31)
  | 0x040038 | 0x040070 | 0x040090 => some (2 ^ 64 - 1)
  | 0x040048 => some (2 ^ 64 - 4)
  | 0x040050 => some (2 ^ 62 - 1)
  | _ => none

/-- The control registers that a write sets within limits (Table 3-7, Table 4-4). -/
def limitedValue (o : Nat) (v : Word) : Option Word :=
  match o with
  | 0x000100 => some (BitVec.ofNat 64 (max 64 (v.toNat % 2 ^ 16)))
  | 0x000108 => some (BitVec.ofNat 64 (min 256 (v.toNat % 2 ^ 9)))
  | 0x010000 => some (BitVec.ofNat 64 (max 1 (v.toNat % 2 ^ 32)))
  | _ => none

/-- The mailbox commands by their number (Table 15-8). -/
def mailboxCommand (i : Instr) : Option (BitVec 8) :=
  match i with
  | .mbSeal => some 1
  | .mbVerify => some 2
  | .mbAttest => some 3
  | .mbFwupdate => some 4
  | .mbRekey => some 5
  | .mbBadCommand v => if v = 0 ∨ 5 < v.toNat then some v else none
  | _ => none

/-- A mailbox command's end: nothing is in progress, BUSY is 0 and RESULT as given, and vector 3 is raised (R450, R461). -/
def MailboxEnds (s t : State) (result : Nat) : Prop :=
  t.hkc.busy = none ∧ ctlGet t regMbstat = BitVec.ofNat 64 (bitsOf (ctlGet s regMbstat).toNat 8 2 * 256 + result) ∧
  t.msix = s.msix ++ [3] ∧ (∀ o, o ≠ regMbstat → ctlGet t o = ctlGet s o) ∧ t.th = s.th ∧ t.tasks = s.tasks

/-- `n` places from an address on. -/
def span (p n : Nat) : List Nat := (List.range n).map (p + ·)

/-- Places of device memory that are present, served, not owned and without errors, that no write of a command waits for, and
no access is counted (R86, R100, R175, R421). -/
def HostOpen (s : State) (ps : List Nat) : Prop :=
  (∀ p ∈ ps, isDevice p = true ∧ physPresent s p = true) ∧ memReady s = true ∧ ps.any (isOwned s) = false ∧ s.uncorr = [] ∧
  ctlGet s regAcrange = 0 ∧ ∀ x ∈ s.pending, x.cmd ≠ none → ∀ w ∈ x.ws, w.p ∉ ps

/-- Bytes at consecutive places, every other byte unchanged. -/
def BytesAt (s t : State) (p : Nat) (bs : List Byte) : Prop :=
  (∀ i, i < bs.length → memByte t (p + i) = bs.getD i 0) ∧ ∀ q, (q < p ∨ p + bs.length ≤ q) → memByte t q = memByte s q

/-- The runs of the unit at a thread's VIQ's head. -/
def runsOf (th : Thread) : List PcRun := (th.viq.head?.map VEntry.runs).getD []

/-- The run of a pseudo-channel changed, of the unit at the VIQ's head. -/
def withRun (p : Nat) (f : PcRun → PcRun) (s : State) : State :=
  let head := (s.th.viq.take 1).map fun e => { e with runs := e.runs.map fun r => if r.pc = p then f r else r }
  { s with th := { s.th with viq := head ++ s.th.viq.drop 1 } }

/-- A pseudo-channel repays its refresh debt: all of one of 8 or more, else one interval (R93, R95). -/
def Repays (s t : State) (p : Nat) : Prop :=
  t = { s with debt := t.debt } ∧
    ∀ q, smGet t.debt q = if q = p then (if 8 ≤ smGet s.debt q then 0 else smGet s.debt q - 1) else smGet s.debt q

/-- No trap of the watchdog is to be taken at the thread's next boundary (R358). -/
def Undisturbed (s : State) : Prop := s.th.csr.wdogDue = false ∨ s.th.trap.mode = true

/-- The answer of an FSREPLY: none for RETRY, else whether it is FAULT (R420). -/
def replyOf (i : Instr) : Option (BitVec 32 × Option Bool) :=
  match i with
  | .fsreplyRetry tag => some (tag, none)
  | .fsreplyFault tag => some (tag, some true)
  | .fsreplyExhausted tag => some (tag, some false)
  | _ => none

/-- A wait on the record of a tag, after its answer: gone for RETRY, else marked (R420). -/
def repliedWait (tag : BitVec 32) (a : Option Bool) (w : Option FsWait) : Option FsWait :=
  match w, a with
  | some w, some b => if w.tag = some tag then some { w with answer := some b } else some w
  | some w, none => if w.tag = some tag then none else some w
  | none, _ => none

/-- The stored image verifies and is not older than the fused counter (R459). -/
def BootsOk (h : Hkc) : Bool := h.stored.signed && decide (h.rollback ≤ h.stored.version)

/-- What PERST leaves: everything at reset but the fuses, host memory, what the HKC keeps and the model's own marks; without
a valid image the cores stay in reset and MBSTAT.STATE is 3 (R459, R465). -/
def freshAfter (s : State) (events : List Nat) : State :=
  { State.reset with
    mem := s.mem.filter (fun c => isHost c.1),
    ctl := if BootsOk s.hkc then State.reset.ctl else smSet State.reset.ctl regMbstat 0x300,
    stopped := !BootsOk s.hkc,
    fuse := s.fuse, agenda := s.agenda, vlag := s.vlag, weak := s.weak, free := s.free,
    hkc := { s.hkc with running := if BootsOk s.hkc then s.hkc.stored.hash else 0, busy := none, events := events } }

/-- The control registers that an FLR keeps (R465). -/
def keptByFlr (o : Nat) : Prop :=
  o = regMcfg ∨ (regRview ≤ o ∧ o < regRview + 96) ∨ (regKvdom ≤ o ∧ o < regKvdom + 768) ∨ (regDrv ≤ o ∧ o < regDrv + 128)

/-- A command's outcome is `status` and `count`; no other command changed. -/
def Settled (s t : State) (id : Nat) (status : BitVec 7) (count : Nat) : Prop :=
  t.cmds = s.cmds.map fun k => if k.id = id then { k with prog := .ended status count } else k

/-- A command that the events of a running package are about. -/
def LiveCmd (s : State) (k : Cmd) : Prop := s.stopped = false ∧ s.cmds.find? (fun x => x.id == k.id) = some k

/-- A command's progress is `p`; no other command changed. -/
def Proceeds (s t : State) (id : Nat) (p : Progress) : Prop :=
  t.cmds = s.cmds.map fun k => if k.id = id then { k with prog := p } else k

/-- A table set by the bytes of its header (Table 10-7). -/
def setHeader (va : Word) (bs : List Byte) : SetHdr :=
  { va := va, cap := dwordOf bs 0 / 2 ^ 32 % 2 ^ 32, nhead := dwordOf bs 0 / 2 ^ 16 % 2 ^ 16, nlayer := dwordOf bs 0 % 2 ^ 16
    ntoken := dwordOf bs 1 % 2 ^ 32 }

/-- The tables (l, h) of a set in their order. -/
def layersHeads (t : SetHdr) : List (Nat × Nat) := (List.range t.nlayer).flatMap fun l => (List.range t.nhead).map fun h => (l, h)

/-- What a table names at a sequence position: the block, its tag, the slot in it, DELTA and FLAGS. -/
def names (es : List BlockEntry) (q : Nat) : Option (Nat × Nat × Nat × Nat × Nat) :=
  (es.find? fun e => decide (e.seqpos ≤ q) && decide (q < e.seqpos + e.count)).map fun e =>
    (e.pa, e.tag, e.first + (q - e.seqpos), e.delta % 2 ^ 32, e.flags)

/-- A table of the new set: what the current one names before position `x`, then `n` positions of the document's table from
`d0` on, with DELTA more by X - D0 and DOC set, then the rest of the current one, with DELTA more by `n` (R319). -/
def Spliced (x d0 n : Nat) (es ds new : List BlockEntry) : Prop :=
  ∀ q, names new q =
    if q < x then names es q
    else if q < x + n then
      (names ds (d0 + (q - x))).map fun (pa, tag, slot, delta, flags) => (pa, tag, slot, (delta + x + (2 ^ 32 - d0)) % 2 ^ 32, flags ||| 1)
    else (names es (q - n)).map fun (pa, tag, slot, delta, flags) => (pa, tag, slot, (delta + n) % 2 ^ 32, flags)

/-- The new tables for some (l, h), from those of the current set and the document's as they are read, and how many entries are
inserted (R318, R319). -/
def SplicedTables (k : Cmd) (cur doc : SetHdr) (x d0 n : Nat) : List (Nat × Nat) → List (List BlockEntry) → Nat → State → State → Prop
  | [], ts, m, s, t => ts = [] ∧ m = 0 ∧ t = s
  | lh :: rest, ts, m, s, t => ∃ (es ds new : List BlockEntry) (ts' : List (List BlockEntry)) (m' : Nat) (u v : State),
      jobTable k cur lh.1 lh.2 s = .ok es u ∧ jobTable k doc lh.1 lh.2 u = .ok ds v ∧ ts = new :: ts' ∧ Spliced x d0 n es ds new ∧
      m = (ds.filter fun e => decide (max e.seqpos d0 < min (e.seqpos + e.count) (d0 + n))).length + m' ∧
      SplicedTables k cur doc x d0 n rest ts' m' v t

/-- Bytes written by the unit at some addresses, one after another. -/
def Wrote (k : Cmd) : List (Word × List Byte) → State → State → Prop
  | [], s, t => t = s
  | w :: rest, s, t => ∃ u, jobWrite k w.1 w.2 s = .ok () u ∧ Wrote k rest u t

/-- Bit `h` of the map is the lowest free lane groups' count: what a dispatched thread starts with (R388). -/
def Entered (th : Thread) (k : Task) (n : Nat) : Prop :=
  th.id = n ∧ th.task = some k.id ∧ th.pc = recEntry k.launch ∧ th.trap.tvec = (recTvec k.launch).setWidth 56 ∧
  th.trap.tstack = recTstack k.launch ∧ th.trap.mode = false ∧ th.viq = [] ∧ th.q = Vector.replicate 8 [] ∧
  th.latch = none ∧ th.csr = {} ∧ th.lanes.gmap = 0 ∧ th.lanes.vl = 0 ∧ th.lanes.sew = 16 ∧
  regOf th 1 = recArgs k.launch ∧ regOf th 2 = BitVec.ofNat 64 (recInst k.launch) ∧
  regOf th 3 = BitVec.ofNat 64 (recGsize k.launch * 2 ^ 16 + k.rank) ∧ regOf th 4 = recSlot k.launch ∧
  ∀ r : Reg, (r = 0 ∨ 5 ≤ r.toNat) → regOf th r = 0

end Sys2Proof.Claims

/-- Writes of control registers and events of the links: the hot bits, MERR, GERR and MCFG.LOCK, the HDMA windows, LMODE and
training, the drive slots, throttling, and the instruction caches; a register write follows a posted write of its own
requester and class that waits (R86, R99, R351, R391, R418, R448-R453, R460, R464). The model's choices: NLAT and PADM at
0x100 and 0x108 (log 23), and that ICINV empties the caches at once (log 39). -/
def Sys2Proof.Claims.RegisterEvents : Prop :=
  ∀ s : State,
    (∀ k : BitVec 3, (∃ t, exec (.stackHot k) s = .next t ∧ OnlyRegister regMstat s t ∧ BitOf regMstat k.toNat true s t) ∧
      ∃ t, exec (.stackCool k) s = .next t ∧ OnlyRegister regMstat s t ∧ BitOf regMstat k.toNat false s t) ∧
    exec (.thermalThrottle false) s = .next { s with clockSteps := s.clockSteps + 1 } ∧
    exec (.thermalThrottle true) s = .next { s with padmHalved := true } ∧
    exec .icinvGo s = .next { s with l1i := [] } ∧
    (∃ t, exec .merrClear s = .next t ∧ OnlyRegister regMerr s t ∧ ctlGet t regMerr = 0) ∧
    (∃ t, exec .gerrClear s = .next t ∧ OnlyRegister regGerr s t ∧ ctlGet t regGerr = 0) ∧
    (∃ t, exec .mcfgLock s = .next t ∧ OnlyRegister regMcfg s t ∧ BitOf regMcfg 0 true s t) ∧
    (∀ n : BitVec 4, ∃ t, exec (.firmwareHdmaDisable n) s = .next t ∧ OnlyRegister (regHdma + 16 * n.toNat) s t ∧
      BitOf (regHdma + 16 * n.toNat) 63 false s t) ∧
    (∀ n : BitVec 2, exec (.portTrained n) s = .next (if ctlGet s (regLmode + 8 * n.toNat) ≠ 0 ∧ s.fuse.ports.getLsbD n.toNat = true
      then { s with portUp := s.portUp ||| BitVec.twoPow 4 n.toNat } else s)) ∧
    (∀ n : BitVec 2, ∃ t, exec (.driveLinkTrained n) s = .next t ∧ t = { s with drives := t.drives } ∧
      (∀ m, m ≠ n.toNat → smGet t.drives m = smGet s.drives m) ∧
      (s.fuse.storage = true → (smGet t.drives n.toNat).linked = true) ∧ (s.fuse.storage = false → t = s)) ∧
    (∀ (n : BitVec 2) (v : Word), s.cmds = [] → ∃ t, exec (.lmodeWrite n v) s = .next t ∧
      (let m := if v.toNat % 4 = 3 then 0 else v.toNat % 4
       if (ctlGet s (regLmode + 8 * n.toNat)).toNat = m then t = s
       else ctlGet t (regLmode + 8 * n.toNat) = BitVec.ofNat 64 m ∧ t = { s with ctl := t.ctl, portUp := t.portUp } ∧
         (∀ o, o ≠ regLmode + 8 * n.toNat → ctlGet t o = ctlGet s o) ∧
         ∀ j, j < 4 → t.portUp.getLsbD j = (s.portUp.getLsbD j && decide (j ≠ n.toNat)))) ∧
    (∀ (n : BitVec 2) (v : Word), s.cmds = [] → 2 ≤ slotField s n.toNat 1 0 4 → slotField s n.toNat 1 0 4 ≤ 12 →
      (slotField s n.toNat 3 16 8 = 9 ∨ slotField s n.toNat 3 16 8 = 12) →
      (∃ t, exec (.drvctlBind n v) s = .next t ∧ drvBound t n.toNat = true ∧ (smGet t.drives n.toNat).suspended = false ∧
        (drvBound s n.toNat = false → slotField t n.toNat 0 0 32 = v.toNat % 2 ^ 32) ∧
        t = { s with ctl := t.ctl, drives := t.drives } ∧ ∀ o, o ≠ regDrv + 32 * n.toNat → ctlGet t o = ctlGet s o) ∧
      ∃ t, exec (.drvctlUnbind n v) s = .next t ∧ drvBound t n.toNat = false ∧ OnlyRegister (regDrv + 32 * n.toNat) s t) ∧
    (s.posted = [] →
      (∀ (o : BitVec 24) (v : Word) (m : Nat), plainBits o.toNat = some m → ∃ t, exec (.hostRegWrite o v) s = .next t ∧
        OnlyRegister o.toNat s t ∧ ctlGet t o.toNat = v &&& BitVec.ofNat 64 m) ∧
      (∀ (o : BitVec 24) (v x : Word), limitedValue o.toNat v = some x → ∃ t, exec (.hostRegWrite o v) s = .next t ∧
        OnlyRegister o.toNat s t ∧ ctlGet t o.toNat = x) ∧
      (∀ (o : BitVec 24) (v : Word), o.toNat % 8 ≠ 0 → exec (.hostRegWrite o v) s = .next s)) ∧
    (∀ (o : BitVec 24) (v : Word) (x : HostPost), s.posted = [x] → x.order = some 0 → postReady { s with posted := [] } x = false →
      exec (.hostRegWrite o v) s = .next { s with posted := [x, { ws := [], reg := some (o.toNat, v) }] })

/-- A mailbox command begins when none is in progress and is ignored otherwise; its completion gives its result: REKEY
takes a new key generation, after which no entry sealed before verifies, VERIFY compares the tag, which is KMAC256 under K_TIC
over what stands before it, SEAL writes it, ATTEST writes its report with the device hash, the public key and the signature,
FWUPDATE stores an image that verifies and is not older than the fused counter, and a value that names no command is BAD
(R457-R459, R461). The buffer's layout, the parts of the report and their order, and BAD for a buffer that cannot be read or
is too short, are the model's choices (log 7). -/
def Sys2Proof.Claims.MailboxEvents : Prop :=
  (∀ (i : Instr) (v : BitVec 8) (s : State), mailboxCommand i = some v →
    if s.hkc.busy = none then ∃ t, exec i s = .next t ∧ t = { s with ctl := t.ctl, hkc := { s.hkc with busy := some v } } ∧
      (∀ o, o ≠ regMbstat → ctlGet t o = ctlGet s o) ∧ BitOf regMbstat 63 true s t
    else exec i s = .next s) ∧
  (∀ s : State, s.hkc.busy = none → exec .mbCompletion s = .next s) ∧
  (∀ s : State, s.hkc.busy = some 5 → ∃ t, exec .mbCompletion s = .next t ∧ MailboxEnds s t 0 ∧
    t.hkc = { s.hkc with busy := none, keyGen := s.hkc.keyGen + 1, issued := [], revoked := s.hkc.revoked ++ s.hkc.issued } ∧
    t.mem = s.mem) ∧
  (∀ (s : State) (v : BitVec 8), s.hkc.busy = some v → (v = 0 ∨ 5 < v.toNat) → ∃ t, exec .mbCompletion s = .next t ∧
    MailboxEnds s t 2 ∧ t.hkc = { s.hkc with busy := none } ∧ t.mem = s.mem) ∧
  (∀ (s s1 : State) (v : BitVec 8), s.hkc.busy = some v → 1 ≤ v.toNat → v.toNat ≤ 4 → memReady s = true →
    NoCommandWrites s → mailboxBytes s = (none, s1) → ∃ t, exec .mbCompletion s = .next t ∧ MailboxEnds s1 t 2 ∧ t.mem = s.mem) ∧
  (∀ (s s1 : State) (bs : List Byte), memReady s = true → NoCommandWrites s → mailboxBytes s = (some bs, s1) →
    (let body := bs.take (bs.length - 32)
     let tag := bytesOfNat 32 (Config.kmac256 (Config.ticKey s.hkc.keyGen) "Gnosil translated image" body).toNat
     let hash := Config.shake256 (bytesOfNat 2 1 ++ bytesOfNat 2 s.fuse.stepping.toNat ++ bytesOfNat 8 1 ++ [0, 0, 0, 0])
     let said := bs.take 32 ++ bytesOfNat 8 (devid s).toNat ++ bytesOfNat 8 1 ++ bytesOfNat 32 s.hkc.running.toNat ++
       bytesOfNat 32 hash.toNat
     let report := said ++ bytesOfNat 64 Config.identityKey.toNat ++ bytesOfNat 29792 (Config.identitySign said).toNat
     let written (o : Nat) (xs : List Byte) (h : Hkc) : Prop := PlainPlaces s (span (mailboxBase s + o) xs.length) →
       ∃ t, exec .mbCompletion s = .next t ∧ MailboxEnds s1 t 0 ∧ BytesAt s t (mailboxBase s + o) xs ∧
         t.hkc = { h with busy := none }
     (s.hkc.busy = some 2 → 96 ≤ bs.length → ∃ t, exec .mbCompletion s = .next t ∧ t.mem = s.mem ∧
       MailboxEnds s1 t (if tag = bs.drop (bs.length - 32) ∧ bs ∉ s.hkc.revoked then 0 else 1)) ∧
     (s.hkc.busy = some 1 → 96 ≤ bs.length → ctlGet s regAcrange = 0 → s.uncorr = [] →
       written (bs.length - 32) tag { s.hkc with issued := s.hkc.issued ++ [body ++ tag] }) ∧
     (s.hkc.busy = some 3 → 29968 ≤ bs.length → ctlGet s regAcrange = 0 → s.uncorr = [] → written 0 report s.hkc) ∧
     ((s.hkc.busy = some 1 ∨ s.hkc.busy = some 2) → bs.length < 96 → ∃ t, exec .mbCompletion s = .next t ∧
       t.mem = s.mem ∧ MailboxEnds s1 t 2) ∧
     (s.hkc.busy = some 3 → bs.length < 29968 → ∃ t, exec .mbCompletion s = .next t ∧ t.mem = s.mem ∧ MailboxEnds s1 t 2) ∧
     (s.hkc.busy = some 4 → ∃ t, exec .mbCompletion s = .next t ∧ t.mem = s.mem ∧
       (if Config.firmwareVerifies bs = true ∧ s.hkc.rollback ≤ Config.firmwareVersion bs then
          MailboxEnds s1 t 0 ∧ t.hkc = { s.hkc with busy := none, stored :=
            { hash := Config.shake256 bs, signed := true, version := Config.firmwareVersion bs } }
        else MailboxEnds s1 t 1 ∧ t.hkc = { s.hkc with busy := none }))))

/-- The order that a host write keeps, and whether it completes at the host: a posted write keeps the order of its requester
and class, one with Relaxed Ordering none, and a CXL.mem write none, and it completes (R351). -/
def wayKeeps (way : HostWay) : Option Nat × Bool :=
  match way with
  | .posted c => (some c, false)
  | .relaxed => (none, false)
  | .cxlMem => (none, true)

/-- The host's accesses: a write of device memory or of its own memory is performed at its place and nowhere else, and by
CXL.mem completes once it is performed, or it waits; a read gives the bytes, or a register of BAR0, or waits; and an address
that no memory has is a fault (R175, R350, R351, R446, R449); memory initialisation, scrubbing, refresh, and the runs of the
banks: at a boundary the run in progress ends, and a debt of 8 is repaid before a run that is ready and admitted starts, and
else one interval (R86, R93, R95, R97, R100). How the host's ways of access are told apart is the model's choice (log 24), and
so is that no ordinary request shows at a boundary (log 20). -/
def Obligations.MemoryEvents : Prop :=
  (∀ (h : HostPlace) (p : Nat) (bs : List Byte) (s : State), h.ha.toNat = s.hdmBase + p → s.posted = [] →
    (HostOpen s (span p bs.length) → PlainPlaces s (span p bs.length) → ∃ t, exec (.hostWrite h bs) s = .next t ∧
      BytesAt s t p bs ∧ t.th = s.th ∧ t.ctl = s.ctl ∧ t.tasks = s.tasks ∧ t.posted = [] ∧
      t.hostResp = if h.way = .cxlMem then some .written else s.hostResp) ∧
    ((∀ q ∈ span p bs.length, isDevice q = true ∧ physPresent s q = true) → mustWait s (span p bs.length) = true →
      (let x : HostPost := { ws := (span p bs.length).zip bs, order := (wayKeeps h.way).1, completes := (wayKeeps h.way).2 }
       exec (.hostWrite h bs) s = .next { s with posted := [x] }))) ∧
  (∀ (pa : BitVec 52) (bs : List Byte) (s : State), (∀ p ∈ span pa.toNat bs.length, isHost p = true) → s.cmds = [] →
    s.posted = [] → s.uncorr = [] → ctlGet s regAcrange = 0 → NoCommandWrites s →
    ∃ t, exec (.hostMemoryWrite pa bs) s = .next t ∧ BytesAt s t pa.toNat bs ∧ t.th = s.th ∧ t.ctl = s.ctl ∧
      ∀ x ∈ t.l2, ∀ p ∈ span pa.toNat bs.length, x.pa ≠ p / 128 * 128) ∧
  (∀ (ha : BitVec 52) (p n : Nat) (cxl : Bool) (s : State), (ha.getLsbD 51 = false ∨ cxl = true) → ha.toNat = s.hdmBase + p →
    s.posted = [] → (HostOpen s (span p n) → NoMarks s (span p n) → ∃ t, exec (.hostRead ha n cxl) s = .next t ∧
      t.hostResp = some (.data ((span p n).map (memByte s))) ∧ t.th = s.th ∧ ∀ p, memByte t p = memByte s p) ∧
    ((∀ q ∈ span p n, isDevice q = true ∧ physPresent s q = true) → mustWait s (span p n) = true →
      exec (.hostRead ha n cxl) s = .next { s with posted := [{ ws := [], read := some (span p n, cxl), order := none }] })) ∧
  (∀ (ha : BitVec 52) (n : Nat) (s : State), ha.getLsbD 51 = true → exec (.hostRead ha n false) s = .next { s with
    hostResp := some (if n = 8 ∧ ha.toNat % 8 = 0 then .data (bytesOfNat 8 (readControl s (ha.toNat % 2 ^ 24)).toNat)
      else .unsupported) }) ∧
  (∀ (ha : BitVec 52) (way : HostWay) (bs : List Byte) (cxl : Bool) (s : State),
    (let missing (h : Nat) : Prop := h < s.hdmBase ∨ ∃ p ∈ span (h - s.hdmBase) bs.length, isDevice p = false ∨ physPresent s p = false
     (missing ha.toNat → exec (.hostWrite { ha := ha, way := way } bs) s = .fault .noSuchAddress) ∧
     ((∃ p ∈ span ha.toNat bs.length, isHost p = false) → exec (.hostMemoryWrite ha bs) s = .fault .noSuchAddress) ∧
     ((ha.getLsbD 51 = false ∨ cxl = true) → missing ha.toNat → exec (.hostRead ha bs.length cxl) s = .fault .noSuchAddress))) ∧
  (∀ s : State, ctlGet s regMcfg = 1 → ∃ t, exec .memInitDone s = .next t ∧ ctlGet t regMcfg = 3 ∧ t.th = s.th ∧
    (∀ o, o ≠ regMcfg → ctlGet t o = ctlGet s o) ∧ (∀ p, memByte t p = if p < 2 ^ 51 then 0 else memByte s p) ∧
    ∀ p ∈ t.uncorr, 2 ^ 51 ≤ p) ∧
  (∀ (b : BitVec 13) (r : BitVec 15) (s : State), ∃ t, exec (.patrolScrub b r) s = .next t ∧ t.mem = s.mem ∧ t.th = s.th ∧
    t.uncorr = s.uncorr ∧ ∀ p, p ∈ t.corr ↔ p ∈ s.corr ∧
      ¬ (isDevice p = true ∧ physPresent s p = true ∧ (bankOf s p).1 = b.toNat ∧ (bankOf s p).2.1 = r.toNat)) ∧
  (∀ (p : BitVec 9) (s : State),
    (∃ t, exec (.refreshInterval p) s = .next t ∧ t = { s with debt := t.debt } ∧
      ∀ q, smGet t.debt q = if q = p.toNat ∧ pcPresent s q = true then min 10 (smGet s.debt q + 1) else smGet s.debt q) ∧
    (s.revoking = [] → (∀ th ∈ threads s, ∀ r ∈ runsOf th, r.pc ≠ p.toNat) →
      ∃ t, exec (.pcBoundary p) s = .next t ∧ Repays s t p.toNat) ∧
    ∀ (n : Nat) (r : PcRun), s.revoking = [] → runAt s p.toNat = some (n, r) →
      (let ended := onThread s n (withRun p.toNat fun x => if x.running then { x with running := false, left := x.left - 1, ready := s.free } else x)
       (8 ≤ smGet s.debt p.toNat → ∃ t, exec (.pcBoundary p) s = .next t ∧ Repays ended t p.toNat) ∧
       (∀ (m : Nat) (r' : PcRun), smGet s.debt p.toNat < 8 → runAt ended p.toNat = some (m, r') →
         (if mayRun ended r' = true then
            exec (.pcBoundary p) s = .next (onThread ended m (withRun p.toNat fun x => { x with running := true, started := true }))
          else ∃ t, exec (.pcBoundary p) s = .next t ∧ Repays ended t p.toNat)))) ∧
  (∀ (s : State) (r : PcRun),
    (let near := ((threads s).flatMap runsOf).filter fun x => x.pc / 128 = r.pc / 128
     let ready (x : PcRun) : Bool := !x.running && decide (0 < x.left) && decide (smGet s.debt x.pc < 8)
     let cap := (ctlGet s regPadm).toNat % 2 ^ 9
     let present := ((List.range 128).filter fun i => pcPresent s (128 * (r.pc / 128) + i)).length
     mayRun s r = true ↔ ready r = true ∧
       (near.filter fun x => x.running || ready x && decide (x.ready < r.ready)).length <
         max 1 ((if s.padmHalved then cap / 2 else cap) * present / 256)))

/-- TLB invalidation, held by the leases that pin a covered page, one pinned since included, until they end or are revoked, a
revocation taking effect at the boundaries of the lease's pseudo-channels, in the middle of a unit only at its end (R111, R126,
R417); fault service: its records and the host's answers (R419, R420). That a revocation waits for the unit's end is the model's choice (log 20). -/
def Obligations.TranslationEvents : Prop :=
  (∀ (v : Word) (s : State), if (ctlGet s regTlbinv).getLsbD 63 then exec (.tlbinvWrite v) s = .next s
    else ∃ t, exec (.tlbinvWrite v) s = .next t ∧ (ctlGet t regTlbinv).getLsbD 63 = true ∧ t.holdOut = false ∧
      (∀ j, j < 50 → (ctlGet t regTlbinv).getLsbD j = v.getLsbD j) ∧ t.invVa = ctlGet s regTlbva ∧ t.tlb = s.tlb ∧ t.th = s.th ∧
      ∀ o, o ≠ regTlbinv → o ≠ regTlbhold → ctlGet t o = ctlGet s o) ∧
  (∀ s : State,
    (let holds (o : List (BitVec 32)) (done : Bool) (t : State) : Prop :=
       (∀ j, j < 64 → (ctlGet t regTlbinv).getLsbD j = if j = 63 then !done else if j = 62 then !o.isEmpty
          else (ctlGet s regTlbinv).getLsbD j) ∧
        ctlGet t regTlbhold = ((o.head?.getD 0).setWidth 64) ∧ ∀ o, o ≠ regTlbinv → o ≠ regTlbhold → ctlGet t o = ctlGet s o
     ((ctlGet s regTlbinv).getLsbD 63 = false → exec .tlbinvComplete s = .next s) ∧
     ((ctlGet s regTlbinv).getLsbD 63 = true → tlbHolders s ≠ [] → ∃ t, exec .tlbinvComplete s = .next t ∧
       holds (tlbHolders s) false t ∧ t = { s with ctl := t.ctl }) ∧
     ((ctlGet s regTlbinv).getLsbD 63 = true → tlbHolders s = [] → (performAll (tlbRecheck s)).pending ≠ [] →
       ∃ t, exec .tlbinvComplete s = .next t ∧ holds [] false t ∧ t = { s with ctl := t.ctl }) ∧
     ((ctlGet s regTlbinv).getLsbD 63 = true → tlbHolders s = [] → s.pending = [] →
       (∀ th ∈ threads s, (∀ q ∈ th.q.toList, ∀ e ∈ q, e.src = []) ∧ ∀ e ∈ th.viq, e.els = []) →
       ∃ t, exec .tlbinvComplete s = .next t ∧ t = { s with ctl := t.ctl, tlb := t.tlb, walks := t.walks } ∧ holds [] true t ∧
        (∀ e, e ∈ t.tlb ↔ e ∈ s.tlb ∧ tlbCovers s e.aspace e.va (2 ^ e.size) = false) ∧
        ∀ w, w ∈ t.walks ↔ w ∈ s.walks ∧ tlbCovers s w.aspace w.va (2 ^ w.size) = false))) ∧
  (∀ s : State, exec .leaseHoldExpiry s =
    .next (if (ctlGet s regTlbinv).getLsbD 62 then { s with holdOut := true } else s)) ∧
  (∀ (k : BitVec 32) (s : State),
    if (ctlGet s regTlbinv).getLsbD 62 = true ∧ s.holdOut = true ∧ k ∈ tlbHolders s then
      ∃ t, exec (.lrevoke k) s = .next t ∧ t = { s with ctl := t.ctl, revoking := t.revoking } ∧
        (∀ o, o ≠ regLrevoke → ctlGet t o = ctlGet s o) ∧ ctlGet t regLrevoke = k.setWidth 64 ∧
        (∀ x, findTask s k = some x → ∀ i, i < x.lease.npc → (k, x.lease.p0 + i) ∈ t.revoking) ∧
        ∀ x, x.1 ≠ k → (x ∈ t.revoking ↔ x ∈ s.revoking)
    else exec (.lrevoke k) s = .next s) ∧
  (∀ (k : BitVec 32) (p : BitVec 9) (s : State), s.revoking = [(k, p.toNat)] →
    (let inUnit := ∃ th ∈ threads s, (∃ r ∈ runsOf th, r.started = true) ∧ ∃ r ∈ runsOf th, r.pc = p.toNat
     ∃ t, exec (.pcBoundary p) s = .next t ∧ t.banks = s.banks ∧ t.mem = s.mem ∧
      (inUnit → t.revoking = s.revoking ∧ t.tasks = s.tasks) ∧
      (¬ inUnit → t.revoking = [] ∧ (∀ x ∈ t.tasks, x.id = k → x.lease.rev = true ∧ x.lease.pins = []) ∧
        (∀ x, x.id ≠ k → (x ∈ t.tasks ↔ x ∈ s.tasks)) ∧ k ∉ tlbHolders t))) ∧
  (∀ (i : Instr) (tag : BitVec 32) (a : Option Bool) (s : State), replyOf i = some (tag, a) →
    if s.fsRecs.any fun r => r.tag == tag then
      ∃ t, exec i s = .next t ∧ (∀ r, r ∈ t.fsRecs ↔ r ∈ s.fsRecs ∧ r.tag ≠ tag) ∧
        t.th.fsw = repliedWait tag a s.th.fsw ∧ t.th.vfsw = repliedWait tag a s.th.vfsw ∧
        (repliedWait tag a s.th.fsw ≠ s.th.fsw → t.th.stall = false) ∧
        t = { s with fsRecs := t.fsRecs, th := { s.th with fsw := t.th.fsw, vfsw := t.th.vfsw, stall := t.th.stall }, parked := t.parked }
    else exec i s = .next s) ∧
  (∀ (n : Nat) (s s1 : State) (k : Task) (w : FsWait), switchTo s n = some s1 → s1.stopped = false → curTask s1 = some k → s1.th.fsw = some w →
    w.tag = none → w.answer = none →
    match serviceRecord s1 s1.th k w with
    | none => exec (.faultServiceRecord n) s = .next (reorder s s1)
    | some (tag, u) => exec (.faultServiceRecord n) s =
        .next (reorder s { u with th := { u.th with fsw := some { w with tag := some tag } } })) ∧
  (∀ (s : State) (w : FsWait) (k : Task),
    (let here (r : FsRecord) : Bool :=
       r.module == s.th.id / 64 && r.aspace == recAspace k.launch && r.page == w.va.toNat / 2 ^ 16 && r.write == w.write
     let q := (ctlGet s regFsqbase).toNat
     let tail := (ctlGet s regFsqtail).toNat
     let at' := q / 2 ^ 12 * 2 ^ 12 + 32 * (tail % 2 ^ (q % 2 ^ 5))
     (∀ r, s.fsRecs.find? here = some r → serviceRecord s s.th k w = some (r.tag, s)) ∧
     (s.fsRecs.find? here = none → q % 2 ^ 5 ≠ 0 → tail - (ctlGet s regFsqhead).toNat ≠ 2 ^ (q % 2 ^ 5) → tail + 1 < 2 ^ 64 →
       (∀ p ∈ span at' 32, physPresent s p = true) → PlainPlaces s (span at' 32) → s.uncorr = [] →
       ctlGet s regAcrange = 0 → ∃ u, serviceRecord s s.th k w = some (s.nextTag, u) ∧ u.nextTag = s.nextTag + 1 ∧ u.msix = s.msix ++ [1] ∧
         (ctlGet u regFsqtail).toNat = tail + 1 ∧ u.th = s.th ∧
         BytesAt s u at' (dwords [w.va.toNat % 2 ^ 56, k.id.toNat * 2 ^ 32 + w.pin.toNat * 2 ^ 18 + w.fetch.toNat * 2 ^ 17 +
           w.write.toNat * 2 ^ 16 + (recAspace k.launch).toNat, s.nextTag.toNat, 0]))))

/-- PERST and a shutdown temperature bring the machine to its reset state but for its fuses, host memory and what the HKC
keeps, and boot the stored image where it is valid; an FLR ends every task, command and queue and keeps memory and the
registers R465 names; a lost UCIe link stops the package (R448, R459, R465). That a shutdown temperature is recorded as event 2
is the model's choice (log 39), and so are the reset values that the spec does not give (logs 3, 4). -/
def Sys2Proof.Claims.Resets : Prop :=
  ∀ s : State,
    exec .perst s = .next (freshAfter s s.hkc.events) ∧
    exec .shutdownTemperature s = .next (freshAfter s (s.hkc.events ++ [2])) ∧
    exec .ucieLinkFailure s = .next { s with stopped := true, hkc := { s.hkc with events := s.hkc.events ++ [1] } } ∧
    ∃ t, exec .flr s = .next t ∧ t.th.task = none ∧ t.parked = [] ∧ t.tasks = [] ∧ t.cmds = [] ∧ t.queues = [] ∧
      t.endings = [] ∧ t.tlb = [] ∧ t.walks = [] ∧ t.fsRecs = [] ∧ t.portUp = 0 ∧ t.pending = [] ∧ t.posted = [] ∧
      (∀ o, ¬ keptByFlr o → ctlGet t o = ctlGet State.reset o) ∧
      (s.pending = [] → s.posted = [] → t.mem = s.mem ∧ t.uncorr = s.uncorr ∧ t.banks = s.banks ∧
        t.drives = s.drives ∧ t.fuse = s.fuse ∧ t.cycles = s.cycles ∧ ∀ o, keptByFlr o → ctlGet t o = ctlGet s o)

/-- The dispatchers and the host's requests: a dispatched record's thread at entry (R388), a doorbell (R392), a finished
task end (R394), TABORT, before which an append that has reserved its entries is completed,
while others go on (R397, Table 14-6), and the requests
for pre-emption (R403, R405, R406). The model's choices: TABORT of a gang with an ABORTED member ends all the rest (log 29),
and a record is checked once, when it has become head (log 38). -/
def Obligations.SchedulingEvents : Prop :=
  (∀ (m : BitVec 2) (s : State), (s.stopped = true ∨ memReady s = false ∨ modulePresent s m.toNat = false) →
    exec (.dispatchRound m) s = .next s) ∧
  (∀ (m : BitVec 2) (s : State), s.stopped = false → memReady s = true → modulePresent s m.toNat = true → s.queues = [] →
    (∀ k ∈ s.tasks, k.zeroing = [] ∧ ∀ b g, k.status ≠ .saved b g) →
    ctlGet s regAcrange = 0 → NoCommandWrites s →
    ∃ t, exec (.dispatchRound m) s = .next t ∧ t = { s with disp := t.disp, l2 := t.l2, ctl := t.ctl, hostFills := t.hostFills } ∧
      ((∀ k ∈ s.tasks, k.home ≠ m.toNat) → t = { s with disp := t.disp }) ∧
      (∀ o, o ≠ regMerr → o ≠ regMelast → ctlGet t o = ctlGet s o) ∧
      (smGet t.disp m.toNat).rounds = (smGet s.disp m.toNat).rounds + 1) ∧
  (∀ (m : BitVec 2) (s s0 s1 : State) (x : Queue) (d : QueueDesc) (r : BitVec 1024) (k : Task) (n : Nat),
    s.stopped = false → memReady s = true → modulePresent s m.toNat = true → (∀ k ∈ s.tasks, k.zeroing = [] ∧ ∀ b g, k.status ≠ .saved b g) →
    s1 = { s with disp := smSet s.disp m.toNat { smGet s.disp m.toNat with rounds := (smGet s.disp m.toNat).rounds + 1 } } →
    s0 = (roundQueues s1 m.toNat).foldl noteDesc s1 → servedQueues s0 m.toNat = [(x, d)] → x.checked = some r →
    placeRecord s0 m.toNat x.q d.head r = some [(k, n)] →
    ∃ t, exec (.dispatchRound m) s = .next t ∧ (∃ th ∈ threads t, Entered th k n) ∧ (∃ e ∈ t.tasks, e = { k with pend := e.pend, zeroing := e.zeroing }) ∧
      t.nextTask = k.base + 1 ∧ (let u := dispatchRecord s0 x.q d [(k, n)]; t.mem = u.mem ∧ threads t = threads u)) ∧
  (∀ (q : BitVec 18) (s : State),
    match queueDesc s q.toNat with
    | none => exec (.qdoor q) s = .next (noteDesc s q.toNat)
    | some d => if d.dev then exec (.qdoor q) s = .next (noteDesc s q.toNat)
      else ctlGet s regAcrange = 0 → NoCommandWrites s → ∃ t, exec (.qdoor q) s = .next t ∧ t.th = s.th ∧ t.parked = s.parked ∧ t.tasks = s.tasks ∧
        (∀ p, memByte t p = memByte s p) ∧
        (∃ x ∈ t.queues, x.q = q.toNat ∧ x.tail = BitVec.ofNat 64 d.tail) ∧
        (d.tail ≠ d.head → .event (.dispatchRound (BitVec.ofNat 2 d.md)) ∈ t.agenda)) ∧
  (∀ (x : Ending) (s : State), s.stopped = false → s.endings.find? (fun e => e.key == x.key) = some x → x.submit = none →
    recNsucc x.launch ≤ x.next → recSlot x.launch = 0 → x.id ≠ 0 → s.pending = [] →
    ∃ t, exec (.successorSubmit x.key) s = .next t ∧ (∀ e, e ∈ t.endings ↔ e ∈ s.endings ∧ e.key ≠ x.key) ∧
      (∀ k ∈ t.tasks, k.base ≠ x.id) ∧ t.mem = s.mem ∧
      (∀ k ∈ s.tasks, k.base ≠ x.id → (∀ j ∈ s.tasks, j.base = x.id → j.id ≠ k.id) → k ∈ t.tasks) ∧
      ∀ th ∈ threads t, ∀ k ∈ s.tasks, k.base = x.id → th.task ≠ some k.id) ∧
  (∀ (id : BitVec 32) (s : State), (findTask s id = none → exec (.tabort id) s = .next s) ∧
    ∀ k, findTask s id = some k →
     (∀ m ∈ s.tasks, m.base = k.base → m.status ≠ .ended 0x20) → (∀ st, k.status ≠ .ended st) →
      ((threadOf s id).any appending = false → ∃ t, exec (.tabort id) s = .next t ∧
       (∃ e, findTask t id = some e ∧ e.status = .ended (if isFrozen s k then 0x21 else 0x20) ∧ e.lease = k.lease) ∧
       (∀ th ∈ t.th :: t.parked, th.task = some id → th.viq = []) ∧ (∀ x ∈ s.tasks, x.id ≠ id → x ∈ t.tasks) ∧ t.mem = s.mem) ∧
      ∀ (th : Thread) (u : State), threadOf s id = some th → appending th = true → u = onThread s th.id drainTurn →
        (threadOf u id).any appending = true →
        exec (.tabort id) s = .next { u with tasks := u.tasks.map fun x => if x.id = id then { x with aborting := true } else x }) ∧
  (∀ (id : BitVec 32) (s : State) (k : Task), findTask s id = some k → (∃ m ∈ s.tasks, m.base = k.base ∧ m.status = .ended 0x20) →
    (∀ m ∈ s.tasks, m.base = k.base → (threadOf s m.id).any appending = false) →
    ∃ t, exec (.tabort id) s = .next t ∧ (∀ m ∈ t.tasks, m.base = k.base → ∃ st, m.status = .ended st) ∧ t.mem = s.mem) ∧
  (∀ (id : BitVec 32) (s : State) (k : Task), findTask s id = some k →
    exec (.preqset id) s = .next (if recSave k.launch = 0 ∨ k.noPreempt = true then s
      else { s with tasks := s.tasks.map fun x => if x.base = k.base ∧ x.status = .running then { x with pend := true } else x })) ∧
  (∀ (n : Nat) (s s1 : State) (id : BitVec 32), switchTo s n = some s1 → s1.stopped = false → s1.th.task = some id →
    (if s1.th.trap.mode = false ∧ pendingRequest s1 = true then
      (match forcePreempt s1 with
       | some u => exec (.pgraceExpiry n) s = .next (reorder s u)
       | none => exec (.pgraceExpiry n) s = .next (reorder s
           { s1 with tasks := s1.tasks.map fun k => if k.id = id then { k with graceOut := true } else k }))
    else exec (.pgraceExpiry n) s = .next (reorder s s1))) ∧
  (∀ (forced : Bool) (pc : BitVec 56) (s u : State) (id : BitVec 32) (k : Task), s.th.task = some id → curTask s = some k →
    saveMember forced pc s = .done u → (∃ e, findTask u id = some e ∧ ∃ g, e.status = .saved forced g) ∧
      ∀ th ∈ threads u, th.task ≠ some id) ∧
  (∀ (n : Nat) (s : State) (th : Thread), (threads s).find? (fun x => x.id == n) = some th →
    match (if th.wait = some .setvl then mostLanes s (th.id / 4) else none) with
    | none => exec (.lgraceExpiry n) s = .next s
    | some v => exec (.lgraceExpiry n) s = .next { s with
        tasks := s.tasks.map fun x => if x.base = v.base ∧ x.status = .running then { x with pend := true } else x })

/-- The events of a thread, at its turn: its barrier is decided, its wait is met or its time is over, unless its watchdog has
run out, whose trap comes first, or an entry of its queues arrives (R201, R358, R375, R376). -/
def Obligations.ThreadEvents : Prop :=
  ∀ (n : Nat) (s s1 : State), switchTo s n = some s1 → s1.stopped = false →
    (s1.th.csr.wdogDue = true → s1.th.trap.mode = false → ∀ i, (i = .barComplete n ∨ i = .waitReturn n ∨ i = .waitTimeout n) →
      exec i s = .next (reorder s s1)) ∧
    (∀ (id : BitVec 32) (k : Task), Undisturbed s1 → s1.th.wait = some .bar → s1.th.task = some id → curTask s1 = some k →
      (∀ m ∈ s1.tasks, m.id = id → m = k) →
      (∀ m ∈ s1.tasks, m.base = k.base → (k.barK.toNat + 1 ≤ m.barK.toNat ∨ (m.arrived = true ∧ m.barK = k.barK))) →
      ∃ u, exec (.barComplete n) s = .next (reorder s u) ∧ Acquired false (Passed (withBar s1 id (k.barK + 1) false) 4) u) ∧
    (s1.th.wait ≠ some .bar → exec (.barComplete n) s = .next (reorder s s1)) ∧
    (∀ (left : Option Nat) (s2 : State) (d tm : Reg), Undisturbed s1 → s1.th.wait = some (.event left) →
      fetchInstr s1 = .ok (.waitv d tm) s2 →
      NotRecording s2 →
      (∀ w, s2.th.latch = some w → ∃ u, exec (.waitReturn n) s = .next (reorder s u) ∧
        Acquired false (setR (Passed { s2 with th := { s2.th with latch := none } } 4) d w) u) ∧
      (s2.th.latch = none → exec (.waitReturn n) s = .next (reorder s s1)) ∧
      (left = some 0 → s2.th.latch = none → CanTrap s2 →
        ∃ u, exec (.waitTimeout n) s = .next (reorder s u) ∧ TrapTaken s2 u 0x0E 0 2 0)) ∧
    (∀ (left : Option Nat) (i : Instr) (s2 s3 : State) (w : WaitOp), Undisturbed s1 → s1.th.wait = some (.event left) → fetchInstr s1 = .ok i s2 →
      waitOp i s2 = some w → w.check s2 = .ok true s3 → exec (.waitReturn n) s = .next (reorder s s3)) ∧
    ((∀ left, s1.th.wait ≠ some (.event left)) → exec (.waitReturn n) s = .next (reorder s s1)) ∧
    (s1.th.wait ≠ some (.event (some 0)) → exec (.waitTimeout n) s = .next (reorder s s1)) ∧
    (s1.th.csr.wdogDue = true → CanTrap s1 → ∃ u, exec (.watchdogExpiry n) s = .next (reorder s u) ∧
      TrapTaken { s1 with th := { s1.th with csr := { s1.th.csr with wdogDue := false } } } u 0x0E 0 0x10 0) ∧
    (s1.th.csr.wdogDue = false ∨ s1.th.trap.mode = true ∨ (∃ e, s1.th.viq.head? = some e ∧ MustEnd e) →
      exec (.watchdogExpiry n) s = .next (reorder s s1)) ∧
    (∀ (q : BitVec 3) (e : QEntry) (es : List QEntry), s1.th.q[q.toNat] = e :: es → e.arrived = false → e.src = [] →
      exec (.queueFillArrival n q) s = .next (reorder s { s1 with th := { s1.th with
        q := s1.th.q.set q.toNat ({ e with arrived := true } :: es) } })) ∧
    (∀ (q : BitVec 3) (es : List QEntry) (s2 : State), arriveOldest s1.th.q[q.toNat] s1 = (es, s2) →
      exec (.queueFillArrival n q) s = .next (reorder s { s2 with th := { s2.th with q := s2.th.q.set q.toNat es } })) ∧
    (∀ q : BitVec 3, (∀ e ∈ s1.th.q[q.toNat], e.arrived = true) → exec (.queueFillArrival n q) s = .next (reorder s s1))

/-- Streams, collectives, peers and drives: a stream ends at its END block and publishes a decoded one (R183, R184); a
collective of one rank copies its data (R190); a peer's data or loss, and data of another OP, NRANK, DTYPE or length, which end
the collective with MISMATCH (R190, R191, R453); a drive's completion or timeout (R187, R452). The model's choices: the form in
which a peer's data arrive, and that an arrival with no bytes is its word that it has read all (log 22), and that DRIVE_TIMEOUT
of an idle slot is its link going down (log 35). -/
def Obligations.CommandEvents : Prop :=
  (∀ (s s1 : State) (k : Cmd) (st : Stream) (hb : List Byte), LiveCmd s k → k.prog = .stream st → st.closing = false →
    st.taken + 8 ≤ st.srclen.toNat → engineRead s k (st.src + BitVec.ofNat 64 st.taken) 8 = (.ok hb, s1) →
    (natOfBytes hb = 3 → ∃ t, exec (.streamBlock k.id) s = .next t ∧ Settled s1 t k.id 0 st.prod ∧ t.mem = s1.mem) ∧
    (natOfBytes hb % 4 = 3 → natOfBytes hb ≠ 3 → ∃ t, exec (.streamBlock k.id) s = .next t ∧ Settled s1 t k.id 0x15 st.prod) ∧
    ∀ (s2 s3 s4 s5 : State) (p cb y : List Byte),
      (let h := natOfBytes hb
       let inlen := h / 2 ^ 24 % 2 ^ 24
       let outlen := h / 2 ^ 8 % 2 ^ 16 + 1
       let pad := (inlen + 7) / 8 * 8
       h % 4 ≠ 3 → h / 4 % 2 ^ 6 = 0 → h / 2 ^ 48 % 2 ^ 8 = 0 → st.taken + 8 + pad + 8 ≤ st.srclen.toNat →
       engineRead s1 k (st.src + BitVec.ofNat 64 st.taken + 8) inlen = (.ok p, s2) →
       (p.foldl (· ^^^ ·) 0).toNat = h / 2 ^ 56 % 2 ^ 8 → decodeBlock (h % 4) outlen p = some y →
       readCons s2 k st = some (.ok cb, s3) → st.prod + outlen ≤ natOfBytes cb + 2 ^ st.rsz →
       writeRing s3 k st y = (none, s4) → writeCounter s4 k (st.desc + 0x20) (bytesOfNat 8 (st.prod + outlen)) = (none, s5) →
       ∃ t, exec (.streamBlock k.id) s = .next t ∧ t.mem = s5.mem ∧
         Proceeds s5 t k.id (.stream { st with taken := st.taken + 8 + pad, prod := st.prod + outlen }))) ∧
  (∀ (outlen : Nat) (p : List Byte) (b : Byte), decodeBlock 0 p.length p = some p ∧
    decodeBlock 1 outlen [b] = some (List.replicate outlen b)) ∧
  (∀ (s s1 s2 : State) (k : Cmd) (co : Coll) (rs ds : List Reached) (qs ps : List Nat), s.stopped = false →
    openColls s = [(k, co)] → co.nrank = 1 → co.rank = 0 → co.arrived = [] → co.srcFail = none → (co.op = 1 ∨ co.op = 3) → s.uncorr = [] → ctlGet s regAcrange = 0 →
    s.past = [] → grantHeld s k = false → k.cancelled = false → co.src = none →
    tdReach (cmdCtx k) .read co.send s = (rs, s1) → allPlaces rs = some qs → qs.length = co.len →
    tdReach (cmdCtx k) .write co.recv (readSend (k, co) s).2 = (ds, s2) → allPlaces ds = some ps → ps.length = co.len → ps.Nodup → PlainPlaces s ps →
    ∃ t, exec (.collectiveMatch co.group) s = .next t ∧ (∃ x ∈ t.cmds, x.id = k.id ∧ x.prog = .ended 0 co.len) ∧
      (∀ x, x.id ≠ k.id → (x ∈ t.cmds ↔ x ∈ s.cmds)) ∧ CommandStored s t k (ps.zip (qs.map (memByte s)))) ∧
  (∀ (s : State) (g : BitVec 32), (∀ x ∈ openColls s, x.2.group ≠ g) → exec (.collectiveMatch g) s = .next s) ∧
  (∀ (s : State) (k : Cmd) (co : Coll) (r : Nat), s.stopped = false → s.cmds = [k] → k.prog = .coll co → r < co.nrank →
    isLocal co r = false →
    (∀ d, portReady s co r = false → exec (.peerDataArrival k.id r d) s = .next s) ∧
    (∀ d, portReady s co r = true → d.bytes ≠ [] → (∀ a ∈ co.arrived, a.1 ≠ r) → exec (.peerDataArrival k.id r d) s =
      .next { s with cmds := [{ k with prog := .coll { co with arrived := co.arrived ++ [(r, d.head, d.bytes)] } }] }) ∧
    (∀ d, portReady s co r = true → d.bytes = [] → co.sent ≠ [] → r ∉ co.acked → exec (.peerDataArrival k.id r d) s =
      .next { s with cmds := [{ k with prog := .coll { co with acked := co.acked ++ [r] } }] })) ∧
  (∀ (s : State) (k : Cmd) (co : Coll) (r : Nat) (d : PeerData), s.stopped = false → s.cmds = [k] → k.prog = .coll co → co.nrank ≤ r →
    (d.head.nrank ≤ r ∨ s.portUp = 0 → exec (.peerDataArrival k.id r d) s = .next s) ∧
    (r < d.head.nrank → s.portUp ≠ 0 → d.bytes ≠ [] → (∀ a ∈ co.arrived, a.1 ≠ r) → exec (.peerDataArrival k.id r d) s =
      .next { s with cmds := [{ k with prog := .coll { co with arrived := co.arrived ++ [(r, d.head, d.bytes)] } }] })) ∧
  (∀ (s : State) (k : Cmd) (co : Coll) (a : Nat × PeerHead × List Byte), s.stopped = false → s.cmds = [k] → k.prog = .coll co →
    a ∈ co.arrived → (a.2.1.op ≠ co.op ∨ a.2.1.nrank ≠ co.nrank ∨ a.2.1.dtype ≠ co.dtype ∨ a.2.2.length ≠ co.len) →
    ∃ t, exec (.collectiveMatch co.group) s = .next t ∧ Settled s t k.id 0x18 0 ∧ t.mem = s.mem) ∧
  (∀ (s : State) (co : Coll) (r : Nat), portReady s co r = true ↔
    s.portUp.getLsbD ((co.handles.getD r 0).toNat / 2 ^ 60 % 4) = true ∧ co.peers[r]? ≠ some .unknown) ∧
  (∀ (s : State) (n : Nat), (∀ x ∈ openColls s, x.1.id ≠ n) → exec (.peerUnreachable n) s = .next s) ∧
  (∀ (s : State) (k : Cmd) (co : Coll), s.stopped = false → (openColls s).find? (fun x => x.1.id == k.id) = some (k, co) →
    ∃ t, exec (.peerUnreachable k.id) s = .next t ∧ (∃ x ∈ t.cmds, x.id = k.id ∧ x.prog = .ended 0x19 0)) ∧
  (∀ (s s1 : State) (k : Cmd) (parts : List StorePart) (i : Nat) (p : StorePart) (ps : List Nat) (bs : List Byte),
    s.stopped = false → s.cmds = [k] → k.prog = .store parts none → parts = [p] → i = 0 → p.submitted = true → p.done = false →
    (match k.insn with
     | .xstorRead _ => partBuffer s k p = (ps, none, s1) ∧ bs.length = p.count * k.lbs ∧ ps.length = bs.length ∧
         ps.Nodup ∧ PlainPlaces s1 ps ∧ s1.uncorr = [] ∧ ctlGet s1 regAcrange = 0
     | _ => ps = [] ∧ s1 = s) →
    ∃ t, exec (.driveCompletion k.id i 0 bs) s = .next t ∧
      (∃ x ∈ t.cmds, x.id = k.id ∧ x.prog = .store [{ p with done := true, ok := true }] none) ∧
      (∀ x, x ∈ t.nvme ↔ x ∈ s.nvme ∧ ¬ (x.cmd = k.id ∧ x.part = 0)) ∧
      CommandStored s1 t k (ps.zip bs)) ∧
  (∀ (s : State) (n : BitVec 2), s.stopped = false →
    (inFlight s n.toNat = 0 → (smGet s.drives n.toNat).linked = false → exec (.driveTimeout n) s = .next s) ∧
    (0 < inFlight s n.toNat ∨ (smGet s.drives n.toNat).linked = true →
      ∃ t, exec (.driveTimeout n) s = .next t ∧ (smGet t.drives n.toNat).suspended = true ∧
      (inFlight s n.toNat = 0 → (smGet t.drives n.toNat).linked = false) ∧
      inFlight t n.toNat = 0 ∧ t.th = s.th ∧ t.mem = s.mem ∧
      ∀ m, m ≠ n.toNat → smGet t.drives m = smGet s.drives m))

/-- A splice reads its plan, takes LOCK and, holding it, publishes the new set, whose header and tables hold what R319 says, and
releases it (R318-R320); a repair plan starts, marks under LOCK, submits, seals or is abandoned as Table 10-17 has it (R325-R329),
and each waits for the lines that a command owns (R175). The model's choices (log 33): LOCK's value with bit 63 set, a layer
marked in one step, and the status of a plan that is cancelled. -/
def Obligations.SpliceAndRepair : Prop :=
  (∀ (s s1 : State) (k : Cmd) (f : W64) (plan : List Byte), LiveCmd s k → k.insn = .ksplice f →
    (let lock := BitVec.ofNat 64 (dwordOf plan 0)
     (k.prog = .whole → k.cancelled = false → jobRead k k.sa 64 s = .ok plan s1 →
       (planOk plan = false → ∃ t, exec (.spliceExecute k.id) s = .next t ∧ Settled s1 t k.id 0x16 0 ∧ t.mem = s1.mem) ∧
       (planOk plan = true → ∃ t, exec (.spliceExecute k.id) s = .next t ∧ Proceeds s1 t k.id (.splice plan false) ∧ t.mem = s1.mem)) ∧
     ((k.prog = .whole ∨ k.prog = .splice plan false) → k.cancelled = true →
       ∃ t, exec (.spliceExecute k.id) s = .next t ∧ Settled s t k.id 0x01 0 ∧ t.mem = s.mem) ∧
     (k.prog = .splice plan false → k.cancelled = false →
       (takeLock k lock s = .ok none s1 → exec (.spliceExecute k.id) s = .next s) ∧
       (takeLock k lock s = .ok (some ()) s1 →
         ∃ t, exec (.spliceExecute k.id) s = .next t ∧ Proceeds s1 t k.id (.splice plan true) ∧ t.mem = s1.mem)) ∧
     (k.prog = .splice plan true → lockHeld s k lock = true → exec (.spliceExecute k.id) s = .next s) ∧
     (k.prog = .splice plan true → k.cancelled = true → lockHeld s k lock = false → ∃ t, exec (.spliceExecute k.id) s = .next t ∧
       Settled (dropLock s k lock) t k.id 0x01 0 ∧ t.mem = (dropLock s k lock).mem) ∧
     (k.prog = .splice plan true → k.cancelled = false → lockHeld s k lock = false →
       (spliceJob k plan s = .ok none s1 → exec (.spliceExecute k.id) s = .next s) ∧
       ∀ n, spliceJob k plan s = .ok (some n) s1 → ∃ t, exec (.spliceExecute k.id) s = .next t ∧
         Settled (dropLock s1 k lock) t k.id 0 n ∧ t.mem = (dropLock s1 k lock).mem))) ∧
  (∀ (s s1 : State) (k : Cmd) (seq : Word), takeLock k seq s = .ok (some ()) s1 → ∃ (bs : List Byte) (s2 s3 s4 : State) (v : Nat),
    acquireLock k seq s = .ok () s2 ∧ jobSeq k seq s2 = .ok bs s3 ∧ dwordOf bs 0 = 0 ∧ 2 ^ 63 ≤ v ∧ v < 2 ^ 64 ∧
    jobWrite k seq (bytesOfNat 8 v) s3 = .ok () s4 ∧ s1.mem = s4.mem) ∧
  (∀ (s s1 : State) (k : Cmd) (plan : List Byte) (n : Nat), spliceJob k plan s = .ok (some n) s1 →
    ∃ (bs : List Byte) (sD : State) (cb : List Byte) (sC : State) (db : List Byte) (sE sT sH sG sW sN : State)
      (ts : List (List BlockEntry)) (pas : List Nat),
      (let seq := BitVec.ofNat 64 (dwordOf plan 0)
       let new := if dwordOf bs 4 = dwordOf bs 3 then 0 else 1
       let x := dwordOf plan 2
       let d0 := dwordOf plan 3 % 2 ^ 32
       let ntok := dwordOf plan 3 / 2 ^ 32
       let newVa := BitVec.ofNat 64 (dwordOf bs (2 + new))
       let gen (n : Nat) := bytesOfNat 8 (dwordOf bs 1 / 2 ^ 32 * 2 ^ 32 + (dwordOf bs 1 + n) % 2 ^ 32)
       let cur := setHeader (BitVec.ofNat 64 (dwordOf bs (3 - new))) cb
       let doc := setHeader (BitVec.ofNat 64 (dwordOf plan 1)) db
       jobSeq k seq s = .ok bs sD ∧ (dwordOf bs 4 = dwordOf bs 2 ∨ dwordOf bs 4 = dwordOf bs 3) ∧
       dwordOf bs 5 / 2 ^ (32 * new) % 2 ^ 32 = 0 ∧ jobRead k cur.va 64 sD = .ok cb sC ∧ jobRead k doc.va 64 sC = .ok db sE ∧
       doc.nlayer = cur.nlayer ∧ doc.nhead = cur.nhead ∧ x ≤ cur.ntoken ∧ cur.ntoken + ntok < 2 ^ 32 ∧
       SplicedTables k cur doc x d0 ntok (layersHeads cur) ts n sE sT ∧ (∀ es ∈ ts, es.length ≤ cur.cap) ∧
       jobWrite k (seq + 8) (gen 1) sH = .ok () sG ∧
       Wrote k ((newVa, dwords [cur.cap * 2 ^ 32 + cur.nhead * 2 ^ 16 + cur.nlayer, cur.ntoken + ntok, 0, 0, 0, 0, 0, 0]) ::
         ((layersHeads cur).zip ts).map fun (lh, es) =>
           (newVa + BitVec.ofNat 64 (64 + 32 * (cur.cap + 1) * (lh.1 * cur.nhead + lh.2)),
             dwords [es.length, 0, 0, 0] ++ es.flatMap entryBytes)) sG sW ∧
       jobWrite k (seq + 0x20) (bytesOfNat 8 newVa.toNat) (pas.foldl markSpliced sW) = .ok () sN ∧
       jobWrite k (seq + 8) (gen 2) sN = .ok () s1)) ∧
  (∀ (m : BitVec 2) (s : State), (s.stopped = true ∨ ∀ x ∈ plansOf s m.toNat, x.2.phase ≠ .queued) →
    exec (.fidPlanStart m) s = .next s) ∧
  (∀ (m : BitVec 2) (s s1 : State) (k : Cmd) (p : FidPlan) (bs : List Byte), s.stopped = false → plansOf s m.toNat = [(k, p)] →
    p.phase = .queued → jobRead k k.sa 64 s = .ok bs s1 →
    (let l0 := dwordOf bs 5 / 2 ^ 32 % 2 ^ 8
     let l1 := dwordOf bs 5 / 2 ^ 40 % 2 ^ 8
     let nt := dwordOf bs 5 / 2 ^ 48 % 2 ^ 16
     dwordOf bs 5 % 2 ^ 32 ≠ 0 → l0 ≤ l1 → 1 ≤ nt → nt ≤ 256 → dwordOf bs 6 < 2 ^ 16 → dwordOf bs 7 = 0 →
     dwordOf bs 1 % 8 = 0 → ∃ t, exec (.fidPlanStart m) s = .next t ∧ t.mem = s1.mem ∧
       ∃ x ∈ t.cmds, x.id = k.id ∧ ∃ p', x.prog = .fid p' ∧ p'.phase = .mark l0 ∧ p'.entered = l0 ∧
         p'.words = (List.range 8).map fun i => BitVec.ofNat 64 (dwordOf bs i))) ∧
  (∀ (s : State) (k : Cmd) (p : FidPlan) (l : Nat), LiveCmd s k → k.prog = .fid p →
    (let ended (t : State) (st : BitVec 7) (sealed : Nat) :=
       Settled s t k.id st (p.entered % 2 ^ 8 * 2 ^ 32 + sealed % 2 ^ 32)
     (p.phase = .mark l → k.cancelled = true → ∃ t, exec (.fidMark k.id) s = .next t ∧ ended t 0x01 p.sealed ∧ t.mem = s.mem) ∧
     (∀ (s1 s2 : State) (xs : List LayerEntry) (cur : Word), p.phase = .mark l → k.cancelled = false →
       (takeLock k p.seq s = .ok none s1 → exec (.fidMark k.id) s = .next s) ∧
       (takeLock k p.seq s = .ok (some ()) s1 → fidScan k p l s1 = .ok (some (xs, [], cur)) s2 →
         (∃ x ∈ s2.cmds, x.id = k.id ∧ x.prog = .fid p) →
         ∃ t, exec (.fidMark k.id) s = .next t ∧ t.mem = (dropLock s2 k p.seq).mem ∧
         ∃ x ∈ t.cmds, x.id = k.id ∧ ∃ p', x.prog = .fid p' ∧ p'.phase = .sealing l ∧ p'.tset = cur)) ∧
     (p.phase = .run l → (p.ntask ≤ p.nsub ∨ k.cancelled = true) → exec (.fidTaskSubmit k.id) s = .next s) ∧
     (∀ (s1 s2 : State) (bs : List Byte) (pos : Nat) (u : State), p.phase = .run l → p.nsub = 0 → 0 < p.ntask → k.cancelled = false →
       (let at' := BitVec.ofNat 64 (p.word 3) + BitVec.ofNat 64 (64 * (l - p.l0))
        let r := putBits (putBits (natOfBytes bs) 64 64 at'.toNat) 288 32 0
        jobWrite k at' (dwords [p.docid * 2 ^ 32 + l, p.tset.toNat, p.word 1, p.word 0, p.marked.length, 0, 0, 0]) s = .ok () s1 →
        jobRead k (BitVec.ofNat 64 (p.word 2)) 128 s1 = .ok bs s2 →
        submitTo s2 (recQueue (BitVec.ofNat 1024 r)) (BitVec.ofNat 1024 r) false = .placed pos u →
        ∃ t, exec (.fidTaskSubmit k.id) s = .next t ∧ t.mem = u.mem ∧
          ((∃ x ∈ u.cmds, x.id = k.id ∧ x.prog = .fid p) → ∃ x ∈ t.cmds, x.id = k.id ∧ ∃ p', x.prog = .fid p' ∧ p'.nsub = 1 ∧
            p'.tasks = p.tasks ++ [(recQueue (BitVec.ofNat 1024 r), pos, false)]))) ∧
     (p.phase = .sealing l → p.marked = [] → p.l1 ≤ l →
       ∃ t, exec (.fidSeal k.id) s = .next t ∧ ended t 0 p.sealed ∧ t.mem = s.mem) ∧
     (p.phase = .run l → marksHeld s p = true → exec (.fidSeal k.id) s = .next s ∧ exec (.fidAbandon k.id) s = .next s) ∧
     (∀ pa, p.phase = .run l → p.marked = [pa] → p.ntask ≤ p.nsub → k.cancelled = false → hdrRepair s pa = 0 → p.l1 ≤ l →
       hdrState s pa = 4 → s.uncorr = [] → marksHeld s p = false → ∃ t, exec (.fidSeal k.id) s = .next t ∧ ended t 0 (p.sealed + 1) ∧
         hdrState t pa = 5 ∧ hdrRef t pa = hdrRef s pa ∧ OutsideHeader s t pa) ∧
     (∀ (pa : Nat) (st : BitVec 7) (how : BitVec 7), p.marked = [pa] → marksHeld s p = false → hdrState s pa = 4 → s.uncorr = [] →
       (p.phase = .abandon l st ∧ how = st ∨
         p.phase = .run l ∧ (∀ x ∈ p.tasks, x.2.2 = true) ∧ k.cancelled = true ∧ how = 0x01) →
       ∃ t, exec (.fidAbandon k.id) s = .next t ∧ ended t how p.sealed ∧ hdrState t pa = 5 ∧ OutsideHeader s t pa) ∧
     (∀ st, p.phase = .abandon l st → p.marked = [] → ∃ t, exec (.fidAbandon k.id) s = .next t ∧ ended t st p.sealed ∧ t.mem = s.mem) ∧
     (∀ pa, p.phase = .run l → p.marked = [pa] → (∀ x ∈ p.tasks, x.2.2 = true) → p.ntask ≤ p.nsub → k.cancelled = false →
       hdrRepair s pa ≠ 0 → hdrState s pa = 4 → s.uncorr = [] → marksHeld s p = false → ∃ t, exec (.fidAbandon k.id) s = .next t ∧ ended t 0x1D p.sealed ∧
         hdrState t pa = 5 ∧ OutsideHeader s t pa)))

namespace Sys2Proof.Claims

/-! ### Steps -/

/-- The thread at its turn comes to its next instruction at once: it runs, nothing stalls it, no watchdog trap and no
forced pre-emption is due, the vector side is left to its own turns or has nothing to do, and no posted instruction has
a scalar register yet to write (R45, R195, R358, R360, R406). -/
def AtInstruction (u : State) : Prop :=
  canRun u u.th = true ∧ u.th.stall = false ∧ u.th.csr.wdogDue = false ∧ graceSpent u = false ∧
  (u.vlag = true ∨ u.th.viq = []) ∧ scalarPending u = false

/-- The parcels from PC on, with the alignment of a 64-bit word and of a convoy's header (R45, R66). -/
def Parcels (u u2 : State) (ps : List Parcel) : Prop :=
  ∃ (w : Parcel) (rest : List Parcel) (u1 : State), ps = w :: rest ∧ (w.getLsbD 0 = true → u.th.pc.toNat % 8 ≠ 4) ∧
    (isConvoyHeader w = true → u.th.pc.toNat % 8 = 4) ∧ fetchParcel u.th.pc u = .ok w u1 ∧
    fetchParcels (u.th.pc + 4) (parcelCount w - 1) u1 = .ok rest u2

/-- Whether the instruction is an access of the host to memory. -/
def isHostAccess (i : Instr) : Bool :=
  match i with
  | .hostWrite _ _ | .hostMemoryWrite _ _ | .hostRead _ _ _ => true
  | _ => false

/-- s0 of every thread holds 0 (R75). -/
def ZeroHolds (s : State) : Prop := ∀ th ∈ s.th :: s.parked, th.sr[0] = 0

end Sys2Proof.Claims

/-- When the parcels at PC decode to an instruction, a step of the thread whose turn it is runs exactly that instruction,
after the time of the step has passed, and the turn goes to the next thread (R45, R360), but for the turns that the model
gives to the events (log 2); a step whose agenda names an event runs that event. A parcel of a line that the instruction
cache does not hold is the four bytes in memory at its address. -/
def Obligations.StepRunsDecoded : Prop :=
  (∀ (s u u2 : State) (ps : List Parcel) (i : Instr), (tick s).agenda = [] → (tick s).turns % turnLimit ≠ turnLimit - 1 →
    (tick s).th.yielded = false → u = updThreads { tick s with turns := (tick s).turns + 1 } (takeTurn (tick s).th.id) →
    AtInstruction u → Parcels u u2 ps → decode ps = .ok i →
    step s = match exec i { u2 with th := fetched u2.th } with
      | .next t => .next (rotate t)
      | .fault x => .fault x
      | .refused x => .refused x) ∧
  (∀ (s : State) (e : Instr) (rest : List Turn), (tick s).agenda = .event e :: rest →
    step s = exec e { tick s with agenda := rest }) ∧
  (∀ (s s1 : State) (va : Word) (ps : List Nat), resolve (curCtx s) va 4 4 .fetch 0 s = .ok ps s1 →
    awaitPlaces ps s1 = .ok () s1 → firstUncorr s1 ps = none →
    (s1.l1i.find? fun l => l.core == s.th.id / 4 && l.pa == ps.headD 0 / 128 * 128) = none →
    ∃ t, fetchParcel va s = .ok (BitVec.ofNat 32 (valueAt s1 ps)) t ∧ t.th = s1.th ∧ t.tasks = s1.tasks)

/-- No instruction is refused, no step is, and only the host's accesses to addresses that no memory has are faults: every
condition that the spec names for an instruction is a trap that the thread takes (R424). -/
def Obligations.NothingRefused : Prop :=
  (∀ (i : Instr) (s : State) (x : Refusal), exec i s ≠ .refused x) ∧ (∀ (s : State) (x : Refusal), step s ≠ .refused x) ∧
  ∀ (i : Instr) (s : State) (x : Fault), exec i s = .fault x → isHostAccess i = true

/-- What reset leaves: no task and no command, empty memory with no errors, the control registers that have a reset value
at it and every other at 0, memory unserved, and the invariants of the steps. -/
def Sys2Proof.Claims.ResetState : Prop :=
  (let s := State.reset
   s.th.task = none ∧ s.parked = [] ∧ s.tasks = [] ∧ s.cmds = [] ∧ s.mem = [] ∧ s.uncorr = [] ∧ s.tlb = [] ∧ s.walks = [] ∧ s.pending = [] ∧ s.posted = [] ∧ s.stopped = false ∧
   ctlGet s regNlat = 4096 ∧ ctlGet s regPadm = 256 ∧ ctlGet s regLeasemax = 100000 ∧ ctlGet s regAge = 1024 ∧
   ctlGet s regPgrace = 2400000 ∧ ctlGet s regLgrace = 240000 ∧ ctlGet s regActhr = 0xFFFF ∧
   (∀ o, o ∉ [regNlat, regPadm, regLeasemax, regAge, regPgrace, regLgrace, regActhr] → ctlGet s o = 0) ∧
   memReady s = false ∧ s.mem.wf = true ∧ ZeroHolds s)

/-- Memory keeps its canonical form: addresses rise strictly and no byte is listed that an unlisted address reads as. -/
def Obligations.MemoryStaysCanonical : Prop :=
  ∀ s t : State, s.mem.wf = true → step s = .next t → t.mem.wf = true

/-- s0 of every thread stays 0 (R75). -/
def Obligations.ZeroStaysZero : Prop := ∀ s t : State, ZeroHolds s → step s = .next t → ZeroHolds t

/-! ### Statements in several parts -/

/-- The element-wise conversions and the logarithmic arithmetic, with what the formats and their functions give. -/
def Obligations.ConvElements : Prop := ConvElementsWrite ∧ RoundsByMode ∧ FormatsDecode ∧ FormatsEncode ∧ LnsArithmetic

/-- Block quantisation and scaling, with what a scale and an element of a block are. -/
def Obligations.ConvBlocks : Prop := ConvBlocksWrite ∧ BlockQuantised

/-- TBUILD and TQUERY, with what an entry of a table is. -/
def Obligations.TableBuilds : Prop := TablesBuilt ∧ TableEntries

/-- KPROBE and KCOMMIT, with what the deviation of a slot is. -/
def Obligations.KvProbeCommit : Prop := ProbeAndCommit ∧ SlotDeviations

/-- The words of the spec's tables decode to what they stand for, and a major that no table assigns is refused. -/
def Obligations.Words : Prop := WorkedWords ∧ ReservedMajorsRefused

/-- The scalar ALU: its register and its immediate forms. -/
def Obligations.AluResults : Prop := AluRegister ∧ AluImmediate

/-- CLZ, CTZ and CPOP, with s0 as their destination too. -/
def Obligations.BitCounts : Prop := AluCounts ∧ AluCountsToZero

/-- Scalar stores: as they commit, and as they are performed. -/
def Obligations.ScalarStores : Prop := StoresCommit ∧ StorePerformed

/-- FENCE, VWAIT, NOP and YIELD. -/
def Obligations.FencesAndNops : Prop := FencesPass ∧ VwaitPasses ∧ FenceHoldsForCommands ∧ FenceHoldsForStores ∧ NopAndYield

/-- TRAP, BRK and TRET. -/
def Obligations.TrapsAndReturns : Prop := ProgramTraps ∧ TretReturns ∧ TretOutsideTrapMode

/-- What a trap condition does, outside trap mode and in it. -/
def Obligations.ExceptionEntry : Prop := TrapEntry ∧ TrapWaitsForAppend ∧ DoubleFault

/-- The LANE instructions with a scalar result but SETVL. -/
def Obligations.LaneScalars : Prop := LaneScalarResults ∧ SetvtSetsSew

/-- VTLD, SEED and VAMAX. -/
def Obligations.TablesSeedAmax : Prop := TablesAndSeed ∧ AmaxWord

/-- VLDFF: it completes, and what it writes. -/
def Obligations.FirstFaultLoads : Prop := FirstFaultCompletes ∧ FirstFaultResult

/-- VCAPP with and without elements to append. -/
def Obligations.Appends : Prop := AppendsEntries ∧ AppendsNothing

/-- Lane-private memory, VCONFL, VPREF and LSYNC. -/
def Obligations.LaneMemoryAndConflicts : Prop := LanePrivate ∧ ConflictsAndPrefetch

/-- QLD, QLDS, QGATH and QCLR. -/
def Obligations.Queues : Prop := QueueLoads ∧ QueueClears

/-- CBLD, TLOAD and TSTORE. -/
def Obligations.TableTransfers : Prop := TableLoads ∧ TableStores

/-- CONVOY: how it is posted, and what a forward-only member gives the next. -/
def Obligations.Convoys : Prop := ConvoyPosts ∧ ConvoyForwards ∧ ConvoyCompletes

/-- The CSRs, and what trap mode alone may and may not do. -/
def Obligations.ControlAndStatus : Prop := CsrAccess ∧ TrapModeOnly

/-- WAITC, WAITV and WAITQ. -/
def Obligations.Waits : Prop := WaitsMet ∧ WaitsUnmet

/-- The control registers and the mailbox. -/
def Obligations.ControlEvents : Prop := RegisterEvents ∧ MailboxEvents

/-- The state after reset, and the resets. -/
def Obligations.ResetLeaves : Prop := ResetState ∧ Resets
end

