-- ==== Sys2Proof/Laws/Maps.lean ====
section
/-! SUPPORT. Maps kept as sorted lists: reading after writing, and the canonical form kept by writing. -/
namespace Sys2Proof.Machine

theorem smGet_smErase_same {α : Type} [Inhabited α] (m : List (Nat × α)) (k : Nat) : smGet (smErase k m) k = default := by
  induction m with
  | nil => rfl
  | cons p m ih =>
    obtain ⟨a, v⟩ := p
    by_cases h : a = k <;> simp_all [smErase, smGet]

theorem smGet_smErase_other {α : Type} [Inhabited α] (m : List (Nat × α)) {k j : Nat} (h : j ≠ k) :
    smGet (smErase k m) j = smGet m j := by
  induction m with
  | nil => rfl
  | cons p m ih =>
    obtain ⟨a, v⟩ := p
    by_cases hk : a = k
    · have : a ≠ j := by omega
      simp_all [smErase, smGet]
    · by_cases hj : a = j <;> simp_all [smErase, smGet]

theorem smGet_smInsert_other {α : Type} [Inhabited α] (m : List (Nat × α)) {k j : Nat} (v : α) (h : j ≠ k) :
    smGet (smInsert k v m) j = smGet m j := by
  induction m with
  | nil => simp [smInsert, smGet]; intro h'; omega
  | cons p m ih =>
    obtain ⟨a, w⟩ := p
    simp only [smInsert]
    split
    · have : (k == j) = false := by simp; omega
      simp [smGet, this]
    · simp [smGet, ih]

theorem smGet_smInsert_same {α : Type} [Inhabited α] (m : List (Nat × α)) (k : Nat) (v : α)
    (h : ∀ p ∈ m, p.1 ≠ k) : smGet (smInsert k v m) k = v := by
  induction m with
  | nil => simp [smInsert, smGet]
  | cons p m ih =>
    obtain ⟨a, w⟩ := p
    simp only [smInsert]
    split
    · simp [smGet]
    · have : (a == k) = false := by simpa using h (a, w) (by simp)
      simp only [smGet, this]
      exact ih fun p hp => h p (by simp [hp])

theorem ne_of_mem_smErase {α : Type} {m : List (Nat × α)} {k : Nat} {p : Nat × α} (h : p ∈ smErase k m) : p.1 ≠ k := by
  simpa using (List.mem_filter.1 h).2

/-- A key that was written reads as the value. -/
@[simp] theorem smGet_smSet_same {α : Type} [Inhabited α] [DecidableEq α] (m : List (Nat × α)) (k : Nat) (v : α) :
    smGet (smSet m k v) k = v := by
  unfold smSet
  split
  · rename_i h; rw [h]; exact smGet_smErase_same m k
  · exact smGet_smInsert_same _ k v fun p => ne_of_mem_smErase

/-- Every other key reads as before. -/
theorem smGet_smSet_other {α : Type} [Inhabited α] [DecidableEq α] (m : List (Nat × α)) {k j : Nat} (v : α) (h : j ≠ k) :
    smGet (smSet m k v) j = smGet m j := by
  unfold smSet
  split
  · exact smGet_smErase_other m h
  · rw [smGet_smInsert_other _ _ h]; exact smGet_smErase_other m h

/-! ### The canonical form -/

/-- The canonical form, said of every pair and of every two in order. -/
theorem smWf_iff {α : Type} [Inhabited α] [DecidableEq α] (m : List (Nat × α)) :
    smWf m = true ↔ (∀ p ∈ m, p.2 ≠ default) ∧ m.Pairwise fun p q => p.1 < q.1 := by
  induction m with
  | nil => simp [smWf]
  | cons p m ih =>
    cases m with
    | nil => simp [smWf]
    | cons q m =>
      simp only [smWf, Bool.and_eq_true, decide_eq_true_eq, ih]
      constructor
      · rintro ⟨⟨h1, h2⟩, h3, h4⟩
        refine ⟨?_, ?_⟩
        · intro r hr
          rcases List.mem_cons.1 hr with rfl | hr
          · exact h1
          · exact h3 r hr
        · rw [List.pairwise_cons]
          refine ⟨?_, h4⟩
          intro r hr
          rcases List.mem_cons.1 hr with rfl | hr
          · exact h2
          · exact Nat.lt_trans h2 ((List.pairwise_cons.1 h4).1 r hr)
      · rintro ⟨h1, h2⟩
        rw [List.pairwise_cons] at h2
        exact ⟨⟨h1 p (by simp), h2.1 q (by simp)⟩, fun r hr => h1 r (List.mem_cons_of_mem _ hr), h2.2⟩

theorem smWf_filter {α : Type} [Inhabited α] [DecidableEq α] {m : List (Nat × α)} (f : Nat × α → Bool) (h : smWf m = true) :
    smWf (m.filter f) = true := by
  rw [smWf_iff] at h ⊢
  exact ⟨fun p hp => h.1 p (List.mem_filter.1 hp).1, h.2.filter f⟩

theorem mem_smInsert {α : Type} {k : Nat} {v : α} {m : List (Nat × α)} {p : Nat × α} :
    p ∈ smInsert k v m ↔ p = (k, v) ∨ p ∈ m := by
  induction m with
  | nil => simp [smInsert]
  | cons q m ih =>
    obtain ⟨a, w⟩ := q
    simp only [smInsert]
    split
    · simp
    · simp only [List.mem_cons, ih]; exact or_left_comm

theorem pairwise_smInsert {α : Type} {k : Nat} {v : α} {m : List (Nat × α)}
    (h : m.Pairwise fun p q => p.1 < q.1) (hk : ∀ p ∈ m, p.1 ≠ k) :
    (smInsert k v m).Pairwise fun p q => p.1 < q.1 := by
  induction m with
  | nil => simp [smInsert]
  | cons q m ih =>
    obtain ⟨a, w⟩ := q
    rw [List.pairwise_cons] at h
    simp only [smInsert]
    split
    · rename_i hlt
      rw [List.pairwise_cons]
      refine ⟨?_, List.pairwise_cons.2 h⟩
      intro r hr
      rcases List.mem_cons.1 hr with rfl | hr
      · exact hlt
      · exact Nat.lt_trans hlt (h.1 r hr)
    · rename_i hge
      rw [List.pairwise_cons]
      refine ⟨?_, ih h.2 fun p hp => hk p (List.mem_cons_of_mem _ hp)⟩
      intro r hr
      have hne : a ≠ k := hk (a, w) (by simp)
      rcases mem_smInsert.1 hr with rfl | hr
      · show a < k; omega
      · exact h.1 r hr

/-- Writing keeps the canonical form. -/
theorem smWf_smSet {α : Type} [Inhabited α] [DecidableEq α] {m : List (Nat × α)} (k : Nat) (v : α) (h : smWf m = true) :
    smWf (smSet m k v) = true := by
  have he : smWf (smErase k m) = true := smWf_filter _ h
  unfold smSet
  split
  · exact he
  · rename_i hv
    rw [smWf_iff] at he ⊢
    refine ⟨?_, pairwise_smInsert he.2 fun p => ne_of_mem_smErase⟩
    intro p hp
    rcases mem_smInsert.1 hp with rfl | hp
    · exact hv
    · exact he.1 p hp

/-- A run of writes keeps the canonical form. -/
theorem smWf_foldl {α : Type} [Inhabited α] [DecidableEq α] (ws : List (Nat × α)) {m : List (Nat × α)} (h : smWf m = true) :
    smWf (ws.foldl (fun m w => smSet m w.1 w.2) m) = true := by
  induction ws generalizing m with
  | nil => exact h
  | cons w ws ih => exact ih (smWf_smSet w.1 w.2 h)

end Sys2Proof.Machine
end

