-- ==== Sys2Proof/Laws/State.lean ====
section
/-! SUPPORT. What each update of the package leaves: one lemma per field. -/
namespace Sys2Proof.Machine

@[simp] theorem updTh_th (s : State) (f : Thread → Thread) : (updTh s f).th = f s.th := rfl
@[simp] theorem updTh_parked (s : State) (f : Thread → Thread) : (updTh s f).parked = s.parked := rfl
@[simp] theorem updTh_tasks (s : State) (f : Thread → Thread) : (updTh s f).tasks = s.tasks := rfl
@[simp] theorem updTh_mem (s : State) (f : Thread → Thread) : (updTh s f).mem = s.mem := rfl
@[simp] theorem updTh_uncorr (s : State) (f : Thread → Thread) : (updTh s f).uncorr = s.uncorr := rfl
@[simp] theorem updTh_corr (s : State) (f : Thread → Thread) : (updTh s f).corr = s.corr := rfl
@[simp] theorem updTh_banks (s : State) (f : Thread → Thread) : (updTh s f).banks = s.banks := rfl
@[simp] theorem updTh_debt (s : State) (f : Thread → Thread) : (updTh s f).debt = s.debt := rfl
@[simp] theorem updTh_ctl (s : State) (f : Thread → Thread) : (updTh s f).ctl = s.ctl := rfl
@[simp] theorem updTh_cycles (s : State) (f : Thread → Thread) : (updTh s f).cycles = s.cycles := rfl
@[simp] theorem updTh_tlb (s : State) (f : Thread → Thread) : (updTh s f).tlb = s.tlb := rfl
@[simp] theorem updTh_l1i (s : State) (f : Thread → Thread) : (updTh s f).l1i = s.l1i := rfl
@[simp] theorem updTh_image (s : State) (f : Thread → Thread) : (updTh s f).image = s.image := rfl
@[simp] theorem updTh_l2 (s : State) (f : Thread → Thread) : (updTh s f).l2 = s.l2 := rfl
@[simp] theorem updTh_cmds (s : State) (f : Thread → Thread) : (updTh s f).cmds = s.cmds := rfl
@[simp] theorem updTh_nextCmd (s : State) (f : Thread → Thread) : (updTh s f).nextCmd = s.nextCmd := rfl
@[simp] theorem updTh_colls (s : State) (f : Thread → Thread) : (updTh s f).colls = s.colls := rfl
@[simp] theorem updTh_sleepers (s : State) (f : Thread → Thread) : (updTh s f).sleepers = s.sleepers := rfl
@[simp] theorem updTh_queues (s : State) (f : Thread → Thread) : (updTh s f).queues = s.queues := rfl
@[simp] theorem updTh_disp (s : State) (f : Thread → Thread) : (updTh s f).disp = s.disp := rfl
@[simp] theorem updTh_nextTask (s : State) (f : Thread → Thread) : (updTh s f).nextTask = s.nextTask := rfl
@[simp] theorem updTh_nextOrder (s : State) (f : Thread → Thread) : (updTh s f).nextOrder = s.nextOrder := rfl
@[simp] theorem updTh_endings (s : State) (f : Thread → Thread) : (updTh s f).endings = s.endings := rfl
@[simp] theorem updTh_nextKey (s : State) (f : Thread → Thread) : (updTh s f).nextKey = s.nextKey := rfl
@[simp] theorem updTh_fsRecs (s : State) (f : Thread → Thread) : (updTh s f).fsRecs = s.fsRecs := rfl
@[simp] theorem updTh_nextTag (s : State) (f : Thread → Thread) : (updTh s f).nextTag = s.nextTag := rfl
@[simp] theorem updTh_holdOut (s : State) (f : Thread → Thread) : (updTh s f).holdOut = s.holdOut := rfl
@[simp] theorem updTh_hostLines (s : State) (f : Thread → Thread) : (updTh s f).hostLines = s.hostLines := rfl
@[simp] theorem updTh_fuse (s : State) (f : Thread → Thread) : (updTh s f).fuse = s.fuse := rfl
@[simp] theorem updTh_hkc (s : State) (f : Thread → Thread) : (updTh s f).hkc = s.hkc := rfl
@[simp] theorem updTh_drives (s : State) (f : Thread → Thread) : (updTh s f).drives = s.drives := rfl
@[simp] theorem updTh_portUp (s : State) (f : Thread → Thread) : (updTh s f).portUp = s.portUp := rfl
@[simp] theorem updTh_msix (s : State) (f : Thread → Thread) : (updTh s f).msix = s.msix := rfl
@[simp] theorem updTh_hostResp (s : State) (f : Thread → Thread) : (updTh s f).hostResp = s.hostResp := rfl
@[simp] theorem updTh_clockSteps (s : State) (f : Thread → Thread) : (updTh s f).clockSteps = s.clockSteps := rfl
@[simp] theorem updTh_padmHalved (s : State) (f : Thread → Thread) : (updTh s f).padmHalved = s.padmHalved := rfl
@[simp] theorem updTh_stopped (s : State) (f : Thread → Thread) : (updTh s f).stopped = s.stopped := rfl
@[simp] theorem updTh_group (s : State) (f : Thread → Thread) : (updTh s f).group = s.group := rfl
@[simp] theorem updTh_agenda (s : State) (f : Thread → Thread) : (updTh s f).agenda = s.agenda := rfl
@[simp] theorem updTh_vlag (s : State) (f : Thread → Thread) : (updTh s f).vlag = s.vlag := rfl
@[simp] theorem updTh_turns (s : State) (f : Thread → Thread) : (updTh s f).turns = s.turns := rfl
@[simp] theorem updTh_free (s : State) (f : Thread → Thread) : (updTh s f).free = s.free := rfl
@[simp] theorem updTh_walks (s : State) (f : Thread → Thread) : (updTh s f).walks = s.walks := rfl
@[simp] theorem updTh_l1d (s : State) (f : Thread → Thread) : (updTh s f).l1d = s.l1d := rfl
@[simp] theorem updTh_collEnds (s : State) (f : Thread → Thread) : (updTh s f).collEnds = s.collEnds := rfl
@[simp] theorem updTh_nvme (s : State) (f : Thread → Thread) : (updTh s f).nvme = s.nvme := rfl
@[simp] theorem updTh_heads (s : State) (f : Thread → Thread) : (updTh s f).heads = s.heads := rfl
@[simp] theorem updTh_revoking (s : State) (f : Thread → Thread) : (updTh s f).revoking = s.revoking := rfl
@[simp] theorem updTh_invVa (s : State) (f : Thread → Thread) : (updTh s f).invVa = s.invVa := rfl
@[simp] theorem updTh_hdmBase (s : State) (f : Thread → Thread) : (updTh s f).hdmBase = s.hdmBase := rfl
@[simp] theorem updTh_pending (s : State) (f : Thread → Thread) : (updTh s f).pending = s.pending := rfl
@[simp] theorem updTh_nextStore (s : State) (f : Thread → Thread) : (updTh s f).nextStore = s.nextStore := rfl
@[simp] theorem updTh_marks (s : State) (f : Thread → Thread) : (updTh s f).marks = s.marks := rfl
@[simp] theorem updTh_now (s : State) (f : Thread → Thread) : (updTh s f).now = s.now := rfl
@[simp] theorem updTh_past (s : State) (f : Thread → Thread) : (updTh s f).past = s.past := rfl
@[simp] theorem updTh_posted (s : State) (f : Thread → Thread) : (updTh s f).posted = s.posted := rfl
@[simp] theorem updTh_hostFills (s : State) (f : Thread → Thread) : (updTh s f).hostFills = s.hostFills := rfl
@[simp] theorem updTh_weak (s : State) (f : Thread → Thread) : (updTh s f).weak = s.weak := rfl

@[simp] theorem updOrder_th (s : State) (f : Order → Order) : (updOrder s f).th = { s.th with order := f s.th.order } := rfl
@[simp] theorem updOrder_parked (s : State) (f : Order → Order) : (updOrder s f).parked = s.parked := rfl
@[simp] theorem updOrder_tasks (s : State) (f : Order → Order) : (updOrder s f).tasks = s.tasks := rfl
@[simp] theorem updOrder_mem (s : State) (f : Order → Order) : (updOrder s f).mem = s.mem := rfl
@[simp] theorem updOrder_uncorr (s : State) (f : Order → Order) : (updOrder s f).uncorr = s.uncorr := rfl
@[simp] theorem updOrder_corr (s : State) (f : Order → Order) : (updOrder s f).corr = s.corr := rfl
@[simp] theorem updOrder_banks (s : State) (f : Order → Order) : (updOrder s f).banks = s.banks := rfl
@[simp] theorem updOrder_debt (s : State) (f : Order → Order) : (updOrder s f).debt = s.debt := rfl
@[simp] theorem updOrder_ctl (s : State) (f : Order → Order) : (updOrder s f).ctl = s.ctl := rfl
@[simp] theorem updOrder_cycles (s : State) (f : Order → Order) : (updOrder s f).cycles = s.cycles := rfl
@[simp] theorem updOrder_tlb (s : State) (f : Order → Order) : (updOrder s f).tlb = s.tlb := rfl
@[simp] theorem updOrder_walks (s : State) (f : Order → Order) : (updOrder s f).walks = s.walks := rfl
@[simp] theorem updOrder_l1i (s : State) (f : Order → Order) : (updOrder s f).l1i = s.l1i := rfl
@[simp] theorem updOrder_l1d (s : State) (f : Order → Order) : (updOrder s f).l1d = s.l1d := rfl
@[simp] theorem updOrder_image (s : State) (f : Order → Order) : (updOrder s f).image = s.image := rfl
@[simp] theorem updOrder_l2 (s : State) (f : Order → Order) : (updOrder s f).l2 = s.l2 := rfl
@[simp] theorem updOrder_cmds (s : State) (f : Order → Order) : (updOrder s f).cmds = s.cmds := rfl
@[simp] theorem updOrder_nextCmd (s : State) (f : Order → Order) : (updOrder s f).nextCmd = s.nextCmd := rfl
@[simp] theorem updOrder_colls (s : State) (f : Order → Order) : (updOrder s f).colls = s.colls := rfl
@[simp] theorem updOrder_collEnds (s : State) (f : Order → Order) : (updOrder s f).collEnds = s.collEnds := rfl
@[simp] theorem updOrder_nvme (s : State) (f : Order → Order) : (updOrder s f).nvme = s.nvme := rfl
@[simp] theorem updOrder_sleepers (s : State) (f : Order → Order) : (updOrder s f).sleepers = s.sleepers := rfl
@[simp] theorem updOrder_queues (s : State) (f : Order → Order) : (updOrder s f).queues = s.queues := rfl
@[simp] theorem updOrder_disp (s : State) (f : Order → Order) : (updOrder s f).disp = s.disp := rfl
@[simp] theorem updOrder_nextTask (s : State) (f : Order → Order) : (updOrder s f).nextTask = s.nextTask := rfl
@[simp] theorem updOrder_nextOrder (s : State) (f : Order → Order) : (updOrder s f).nextOrder = s.nextOrder := rfl
@[simp] theorem updOrder_heads (s : State) (f : Order → Order) : (updOrder s f).heads = s.heads := rfl
@[simp] theorem updOrder_endings (s : State) (f : Order → Order) : (updOrder s f).endings = s.endings := rfl
@[simp] theorem updOrder_nextKey (s : State) (f : Order → Order) : (updOrder s f).nextKey = s.nextKey := rfl
@[simp] theorem updOrder_fsRecs (s : State) (f : Order → Order) : (updOrder s f).fsRecs = s.fsRecs := rfl
@[simp] theorem updOrder_nextTag (s : State) (f : Order → Order) : (updOrder s f).nextTag = s.nextTag := rfl
@[simp] theorem updOrder_holdOut (s : State) (f : Order → Order) : (updOrder s f).holdOut = s.holdOut := rfl
@[simp] theorem updOrder_revoking (s : State) (f : Order → Order) : (updOrder s f).revoking = s.revoking := rfl
@[simp] theorem updOrder_invVa (s : State) (f : Order → Order) : (updOrder s f).invVa = s.invVa := rfl
@[simp] theorem updOrder_hostLines (s : State) (f : Order → Order) : (updOrder s f).hostLines = s.hostLines := rfl
@[simp] theorem updOrder_fuse (s : State) (f : Order → Order) : (updOrder s f).fuse = s.fuse := rfl
@[simp] theorem updOrder_hkc (s : State) (f : Order → Order) : (updOrder s f).hkc = s.hkc := rfl
@[simp] theorem updOrder_drives (s : State) (f : Order → Order) : (updOrder s f).drives = s.drives := rfl
@[simp] theorem updOrder_portUp (s : State) (f : Order → Order) : (updOrder s f).portUp = s.portUp := rfl
@[simp] theorem updOrder_msix (s : State) (f : Order → Order) : (updOrder s f).msix = s.msix := rfl
@[simp] theorem updOrder_hostResp (s : State) (f : Order → Order) : (updOrder s f).hostResp = s.hostResp := rfl
@[simp] theorem updOrder_hdmBase (s : State) (f : Order → Order) : (updOrder s f).hdmBase = s.hdmBase := rfl
@[simp] theorem updOrder_clockSteps (s : State) (f : Order → Order) : (updOrder s f).clockSteps = s.clockSteps := rfl
@[simp] theorem updOrder_padmHalved (s : State) (f : Order → Order) : (updOrder s f).padmHalved = s.padmHalved := rfl
@[simp] theorem updOrder_stopped (s : State) (f : Order → Order) : (updOrder s f).stopped = s.stopped := rfl
@[simp] theorem updOrder_group (s : State) (f : Order → Order) : (updOrder s f).group = s.group := rfl
@[simp] theorem updOrder_pending (s : State) (f : Order → Order) : (updOrder s f).pending = s.pending := rfl
@[simp] theorem updOrder_nextStore (s : State) (f : Order → Order) : (updOrder s f).nextStore = s.nextStore := rfl
@[simp] theorem updOrder_marks (s : State) (f : Order → Order) : (updOrder s f).marks = s.marks := rfl
@[simp] theorem updOrder_now (s : State) (f : Order → Order) : (updOrder s f).now = s.now := rfl
@[simp] theorem updOrder_past (s : State) (f : Order → Order) : (updOrder s f).past = s.past := rfl
@[simp] theorem updOrder_posted (s : State) (f : Order → Order) : (updOrder s f).posted = s.posted := rfl
@[simp] theorem updOrder_hostFills (s : State) (f : Order → Order) : (updOrder s f).hostFills = s.hostFills := rfl
@[simp] theorem updOrder_agenda (s : State) (f : Order → Order) : (updOrder s f).agenda = s.agenda := rfl
@[simp] theorem updOrder_vlag (s : State) (f : Order → Order) : (updOrder s f).vlag = s.vlag := rfl
@[simp] theorem updOrder_weak (s : State) (f : Order → Order) : (updOrder s f).weak = s.weak := rfl
@[simp] theorem updOrder_turns (s : State) (f : Order → Order) : (updOrder s f).turns = s.turns := rfl
@[simp] theorem updOrder_free (s : State) (f : Order → Order) : (updOrder s f).free = s.free := rfl

@[simp] theorem setR_th (s : State) (r : Reg) (v : Word) : (setR s r v).th = setRegOf s.th r v := rfl
@[simp] theorem setR_parked (s : State) (r : Reg) (v : Word) : (setR s r v).parked = s.parked := rfl
@[simp] theorem setR_tasks (s : State) (r : Reg) (v : Word) : (setR s r v).tasks = s.tasks := rfl
@[simp] theorem setR_mem (s : State) (r : Reg) (v : Word) : (setR s r v).mem = s.mem := rfl
@[simp] theorem setR_uncorr (s : State) (r : Reg) (v : Word) : (setR s r v).uncorr = s.uncorr := rfl
@[simp] theorem setR_corr (s : State) (r : Reg) (v : Word) : (setR s r v).corr = s.corr := rfl
@[simp] theorem setR_banks (s : State) (r : Reg) (v : Word) : (setR s r v).banks = s.banks := rfl
@[simp] theorem setR_debt (s : State) (r : Reg) (v : Word) : (setR s r v).debt = s.debt := rfl
@[simp] theorem setR_ctl (s : State) (r : Reg) (v : Word) : (setR s r v).ctl = s.ctl := rfl
@[simp] theorem setR_cycles (s : State) (r : Reg) (v : Word) : (setR s r v).cycles = s.cycles := rfl
@[simp] theorem setR_tlb (s : State) (r : Reg) (v : Word) : (setR s r v).tlb = s.tlb := rfl
@[simp] theorem setR_l1i (s : State) (r : Reg) (v : Word) : (setR s r v).l1i = s.l1i := rfl
@[simp] theorem setR_image (s : State) (r : Reg) (v : Word) : (setR s r v).image = s.image := rfl
@[simp] theorem setR_l2 (s : State) (r : Reg) (v : Word) : (setR s r v).l2 = s.l2 := rfl
@[simp] theorem setR_cmds (s : State) (r : Reg) (v : Word) : (setR s r v).cmds = s.cmds := rfl
@[simp] theorem setR_nextCmd (s : State) (r : Reg) (v : Word) : (setR s r v).nextCmd = s.nextCmd := rfl
@[simp] theorem setR_colls (s : State) (r : Reg) (v : Word) : (setR s r v).colls = s.colls := rfl
@[simp] theorem setR_sleepers (s : State) (r : Reg) (v : Word) : (setR s r v).sleepers = s.sleepers := rfl
@[simp] theorem setR_queues (s : State) (r : Reg) (v : Word) : (setR s r v).queues = s.queues := rfl
@[simp] theorem setR_disp (s : State) (r : Reg) (v : Word) : (setR s r v).disp = s.disp := rfl
@[simp] theorem setR_nextTask (s : State) (r : Reg) (v : Word) : (setR s r v).nextTask = s.nextTask := rfl
@[simp] theorem setR_nextOrder (s : State) (r : Reg) (v : Word) : (setR s r v).nextOrder = s.nextOrder := rfl
@[simp] theorem setR_endings (s : State) (r : Reg) (v : Word) : (setR s r v).endings = s.endings := rfl
@[simp] theorem setR_nextKey (s : State) (r : Reg) (v : Word) : (setR s r v).nextKey = s.nextKey := rfl
@[simp] theorem setR_fsRecs (s : State) (r : Reg) (v : Word) : (setR s r v).fsRecs = s.fsRecs := rfl
@[simp] theorem setR_nextTag (s : State) (r : Reg) (v : Word) : (setR s r v).nextTag = s.nextTag := rfl
@[simp] theorem setR_holdOut (s : State) (r : Reg) (v : Word) : (setR s r v).holdOut = s.holdOut := rfl
@[simp] theorem setR_hostLines (s : State) (r : Reg) (v : Word) : (setR s r v).hostLines = s.hostLines := rfl
@[simp] theorem setR_fuse (s : State) (r : Reg) (v : Word) : (setR s r v).fuse = s.fuse := rfl
@[simp] theorem setR_hkc (s : State) (r : Reg) (v : Word) : (setR s r v).hkc = s.hkc := rfl
@[simp] theorem setR_drives (s : State) (r : Reg) (v : Word) : (setR s r v).drives = s.drives := rfl
@[simp] theorem setR_portUp (s : State) (r : Reg) (v : Word) : (setR s r v).portUp = s.portUp := rfl
@[simp] theorem setR_msix (s : State) (r : Reg) (v : Word) : (setR s r v).msix = s.msix := rfl
@[simp] theorem setR_hostResp (s : State) (r : Reg) (v : Word) : (setR s r v).hostResp = s.hostResp := rfl
@[simp] theorem setR_clockSteps (s : State) (r : Reg) (v : Word) : (setR s r v).clockSteps = s.clockSteps := rfl
@[simp] theorem setR_padmHalved (s : State) (r : Reg) (v : Word) : (setR s r v).padmHalved = s.padmHalved := rfl
@[simp] theorem setR_stopped (s : State) (r : Reg) (v : Word) : (setR s r v).stopped = s.stopped := rfl
@[simp] theorem setR_group (s : State) (r : Reg) (v : Word) : (setR s r v).group = s.group := rfl
@[simp] theorem setR_agenda (s : State) (r : Reg) (v : Word) : (setR s r v).agenda = s.agenda := rfl
@[simp] theorem setR_vlag (s : State) (r : Reg) (v : Word) : (setR s r v).vlag = s.vlag := rfl
@[simp] theorem setR_turns (s : State) (r : Reg) (v : Word) : (setR s r v).turns = s.turns := rfl
@[simp] theorem setR_free (s : State) (r : Reg) (v : Word) : (setR s r v).free = s.free := rfl
@[simp] theorem setR_walks (s : State) (r : Reg) (v : Word) : (setR s r v).walks = s.walks := rfl
@[simp] theorem setR_l1d (s : State) (r : Reg) (v : Word) : (setR s r v).l1d = s.l1d := rfl
@[simp] theorem setR_collEnds (s : State) (r : Reg) (v : Word) : (setR s r v).collEnds = s.collEnds := rfl
@[simp] theorem setR_nvme (s : State) (r : Reg) (v : Word) : (setR s r v).nvme = s.nvme := rfl
@[simp] theorem setR_heads (s : State) (r : Reg) (v : Word) : (setR s r v).heads = s.heads := rfl
@[simp] theorem setR_revoking (s : State) (r : Reg) (v : Word) : (setR s r v).revoking = s.revoking := rfl
@[simp] theorem setR_invVa (s : State) (r : Reg) (v : Word) : (setR s r v).invVa = s.invVa := rfl
@[simp] theorem setR_hdmBase (s : State) (r : Reg) (v : Word) : (setR s r v).hdmBase = s.hdmBase := rfl
@[simp] theorem setR_pending (s : State) (r : Reg) (v : Word) : (setR s r v).pending = s.pending := rfl
@[simp] theorem setR_nextStore (s : State) (r : Reg) (v : Word) : (setR s r v).nextStore = s.nextStore := rfl
@[simp] theorem setR_marks (s : State) (r : Reg) (v : Word) : (setR s r v).marks = s.marks := rfl
@[simp] theorem setR_now (s : State) (r : Reg) (v : Word) : (setR s r v).now = s.now := rfl
@[simp] theorem setR_past (s : State) (r : Reg) (v : Word) : (setR s r v).past = s.past := rfl
@[simp] theorem setR_posted (s : State) (r : Reg) (v : Word) : (setR s r v).posted = s.posted := rfl
@[simp] theorem setR_hostFills (s : State) (r : Reg) (v : Word) : (setR s r v).hostFills = s.hostFills := rfl
@[simp] theorem setR_weak (s : State) (r : Reg) (v : Word) : (setR s r v).weak = s.weak := rfl

@[simp] theorem setPc_th (s : State) (pc : Word) : (setPc s pc).th = { s.th with pc := pc } := rfl
@[simp] theorem setPc_parked (s : State) (pc : Word) : (setPc s pc).parked = s.parked := rfl
@[simp] theorem setPc_tasks (s : State) (pc : Word) : (setPc s pc).tasks = s.tasks := rfl
@[simp] theorem setPc_mem (s : State) (pc : Word) : (setPc s pc).mem = s.mem := rfl
@[simp] theorem setPc_uncorr (s : State) (pc : Word) : (setPc s pc).uncorr = s.uncorr := rfl
@[simp] theorem setPc_corr (s : State) (pc : Word) : (setPc s pc).corr = s.corr := rfl
@[simp] theorem setPc_banks (s : State) (pc : Word) : (setPc s pc).banks = s.banks := rfl
@[simp] theorem setPc_debt (s : State) (pc : Word) : (setPc s pc).debt = s.debt := rfl
@[simp] theorem setPc_ctl (s : State) (pc : Word) : (setPc s pc).ctl = s.ctl := rfl
@[simp] theorem setPc_cycles (s : State) (pc : Word) : (setPc s pc).cycles = s.cycles := rfl
@[simp] theorem setPc_tlb (s : State) (pc : Word) : (setPc s pc).tlb = s.tlb := rfl
@[simp] theorem setPc_l1i (s : State) (pc : Word) : (setPc s pc).l1i = s.l1i := rfl
@[simp] theorem setPc_image (s : State) (pc : Word) : (setPc s pc).image = s.image := rfl
@[simp] theorem setPc_l2 (s : State) (pc : Word) : (setPc s pc).l2 = s.l2 := rfl
@[simp] theorem setPc_cmds (s : State) (pc : Word) : (setPc s pc).cmds = s.cmds := rfl
@[simp] theorem setPc_nextCmd (s : State) (pc : Word) : (setPc s pc).nextCmd = s.nextCmd := rfl
@[simp] theorem setPc_colls (s : State) (pc : Word) : (setPc s pc).colls = s.colls := rfl
@[simp] theorem setPc_sleepers (s : State) (pc : Word) : (setPc s pc).sleepers = s.sleepers := rfl
@[simp] theorem setPc_queues (s : State) (pc : Word) : (setPc s pc).queues = s.queues := rfl
@[simp] theorem setPc_disp (s : State) (pc : Word) : (setPc s pc).disp = s.disp := rfl
@[simp] theorem setPc_nextTask (s : State) (pc : Word) : (setPc s pc).nextTask = s.nextTask := rfl
@[simp] theorem setPc_nextOrder (s : State) (pc : Word) : (setPc s pc).nextOrder = s.nextOrder := rfl
@[simp] theorem setPc_endings (s : State) (pc : Word) : (setPc s pc).endings = s.endings := rfl
@[simp] theorem setPc_nextKey (s : State) (pc : Word) : (setPc s pc).nextKey = s.nextKey := rfl
@[simp] theorem setPc_fsRecs (s : State) (pc : Word) : (setPc s pc).fsRecs = s.fsRecs := rfl
@[simp] theorem setPc_nextTag (s : State) (pc : Word) : (setPc s pc).nextTag = s.nextTag := rfl
@[simp] theorem setPc_holdOut (s : State) (pc : Word) : (setPc s pc).holdOut = s.holdOut := rfl
@[simp] theorem setPc_hostLines (s : State) (pc : Word) : (setPc s pc).hostLines = s.hostLines := rfl
@[simp] theorem setPc_fuse (s : State) (pc : Word) : (setPc s pc).fuse = s.fuse := rfl
@[simp] theorem setPc_hkc (s : State) (pc : Word) : (setPc s pc).hkc = s.hkc := rfl
@[simp] theorem setPc_drives (s : State) (pc : Word) : (setPc s pc).drives = s.drives := rfl
@[simp] theorem setPc_portUp (s : State) (pc : Word) : (setPc s pc).portUp = s.portUp := rfl
@[simp] theorem setPc_msix (s : State) (pc : Word) : (setPc s pc).msix = s.msix := rfl
@[simp] theorem setPc_hostResp (s : State) (pc : Word) : (setPc s pc).hostResp = s.hostResp := rfl
@[simp] theorem setPc_clockSteps (s : State) (pc : Word) : (setPc s pc).clockSteps = s.clockSteps := rfl
@[simp] theorem setPc_padmHalved (s : State) (pc : Word) : (setPc s pc).padmHalved = s.padmHalved := rfl
@[simp] theorem setPc_stopped (s : State) (pc : Word) : (setPc s pc).stopped = s.stopped := rfl
@[simp] theorem setPc_group (s : State) (pc : Word) : (setPc s pc).group = s.group := rfl
@[simp] theorem setPc_agenda (s : State) (pc : Word) : (setPc s pc).agenda = s.agenda := rfl
@[simp] theorem setPc_vlag (s : State) (pc : Word) : (setPc s pc).vlag = s.vlag := rfl
@[simp] theorem setPc_turns (s : State) (pc : Word) : (setPc s pc).turns = s.turns := rfl
@[simp] theorem setPc_free (s : State) (pc : Word) : (setPc s pc).free = s.free := rfl
@[simp] theorem setPc_walks (s : State) (pc : Word) : (setPc s pc).walks = s.walks := rfl
@[simp] theorem setPc_l1d (s : State) (pc : Word) : (setPc s pc).l1d = s.l1d := rfl
@[simp] theorem setPc_collEnds (s : State) (pc : Word) : (setPc s pc).collEnds = s.collEnds := rfl
@[simp] theorem setPc_nvme (s : State) (pc : Word) : (setPc s pc).nvme = s.nvme := rfl
@[simp] theorem setPc_heads (s : State) (pc : Word) : (setPc s pc).heads = s.heads := rfl
@[simp] theorem setPc_revoking (s : State) (pc : Word) : (setPc s pc).revoking = s.revoking := rfl
@[simp] theorem setPc_invVa (s : State) (pc : Word) : (setPc s pc).invVa = s.invVa := rfl
@[simp] theorem setPc_hdmBase (s : State) (pc : Word) : (setPc s pc).hdmBase = s.hdmBase := rfl
@[simp] theorem setPc_pending (s : State) (pc : Word) : (setPc s pc).pending = s.pending := rfl
@[simp] theorem setPc_nextStore (s : State) (pc : Word) : (setPc s pc).nextStore = s.nextStore := rfl
@[simp] theorem setPc_marks (s : State) (pc : Word) : (setPc s pc).marks = s.marks := rfl
@[simp] theorem setPc_now (s : State) (pc : Word) : (setPc s pc).now = s.now := rfl
@[simp] theorem setPc_past (s : State) (pc : Word) : (setPc s pc).past = s.past := rfl
@[simp] theorem setPc_posted (s : State) (pc : Word) : (setPc s pc).posted = s.posted := rfl
@[simp] theorem setPc_hostFills (s : State) (pc : Word) : (setPc s pc).hostFills = s.hostFills := rfl
@[simp] theorem setPc_weak (s : State) (pc : Word) : (setPc s pc).weak = s.weak := rfl

@[simp] theorem advance_th (s : State) (n : Nat) : (advance s n).th = { s.th with pc := s.th.pc + BitVec.ofNat 64 n } := rfl
@[simp] theorem advance_parked (s : State) (n : Nat) : (advance s n).parked = s.parked := rfl
@[simp] theorem advance_tasks (s : State) (n : Nat) : (advance s n).tasks = s.tasks := rfl
@[simp] theorem advance_mem (s : State) (n : Nat) : (advance s n).mem = s.mem := rfl
@[simp] theorem advance_uncorr (s : State) (n : Nat) : (advance s n).uncorr = s.uncorr := rfl
@[simp] theorem advance_corr (s : State) (n : Nat) : (advance s n).corr = s.corr := rfl
@[simp] theorem advance_banks (s : State) (n : Nat) : (advance s n).banks = s.banks := rfl
@[simp] theorem advance_debt (s : State) (n : Nat) : (advance s n).debt = s.debt := rfl
@[simp] theorem advance_ctl (s : State) (n : Nat) : (advance s n).ctl = s.ctl := rfl
@[simp] theorem advance_cycles (s : State) (n : Nat) : (advance s n).cycles = s.cycles := rfl
@[simp] theorem advance_tlb (s : State) (n : Nat) : (advance s n).tlb = s.tlb := rfl
@[simp] theorem advance_l1i (s : State) (n : Nat) : (advance s n).l1i = s.l1i := rfl
@[simp] theorem advance_image (s : State) (n : Nat) : (advance s n).image = s.image := rfl
@[simp] theorem advance_l2 (s : State) (n : Nat) : (advance s n).l2 = s.l2 := rfl
@[simp] theorem advance_cmds (s : State) (n : Nat) : (advance s n).cmds = s.cmds := rfl
@[simp] theorem advance_nextCmd (s : State) (n : Nat) : (advance s n).nextCmd = s.nextCmd := rfl
@[simp] theorem advance_colls (s : State) (n : Nat) : (advance s n).colls = s.colls := rfl
@[simp] theorem advance_sleepers (s : State) (n : Nat) : (advance s n).sleepers = s.sleepers := rfl
@[simp] theorem advance_queues (s : State) (n : Nat) : (advance s n).queues = s.queues := rfl
@[simp] theorem advance_disp (s : State) (n : Nat) : (advance s n).disp = s.disp := rfl
@[simp] theorem advance_nextTask (s : State) (n : Nat) : (advance s n).nextTask = s.nextTask := rfl
@[simp] theorem advance_nextOrder (s : State) (n : Nat) : (advance s n).nextOrder = s.nextOrder := rfl
@[simp] theorem advance_endings (s : State) (n : Nat) : (advance s n).endings = s.endings := rfl
@[simp] theorem advance_nextKey (s : State) (n : Nat) : (advance s n).nextKey = s.nextKey := rfl
@[simp] theorem advance_fsRecs (s : State) (n : Nat) : (advance s n).fsRecs = s.fsRecs := rfl
@[simp] theorem advance_nextTag (s : State) (n : Nat) : (advance s n).nextTag = s.nextTag := rfl
@[simp] theorem advance_holdOut (s : State) (n : Nat) : (advance s n).holdOut = s.holdOut := rfl
@[simp] theorem advance_hostLines (s : State) (n : Nat) : (advance s n).hostLines = s.hostLines := rfl
@[simp] theorem advance_fuse (s : State) (n : Nat) : (advance s n).fuse = s.fuse := rfl
@[simp] theorem advance_hkc (s : State) (n : Nat) : (advance s n).hkc = s.hkc := rfl
@[simp] theorem advance_drives (s : State) (n : Nat) : (advance s n).drives = s.drives := rfl
@[simp] theorem advance_portUp (s : State) (n : Nat) : (advance s n).portUp = s.portUp := rfl
@[simp] theorem advance_msix (s : State) (n : Nat) : (advance s n).msix = s.msix := rfl
@[simp] theorem advance_hostResp (s : State) (n : Nat) : (advance s n).hostResp = s.hostResp := rfl
@[simp] theorem advance_clockSteps (s : State) (n : Nat) : (advance s n).clockSteps = s.clockSteps := rfl
@[simp] theorem advance_padmHalved (s : State) (n : Nat) : (advance s n).padmHalved = s.padmHalved := rfl
@[simp] theorem advance_stopped (s : State) (n : Nat) : (advance s n).stopped = s.stopped := rfl
@[simp] theorem advance_group (s : State) (n : Nat) : (advance s n).group = s.group := rfl
@[simp] theorem advance_agenda (s : State) (n : Nat) : (advance s n).agenda = s.agenda := rfl
@[simp] theorem advance_vlag (s : State) (n : Nat) : (advance s n).vlag = s.vlag := rfl
@[simp] theorem advance_turns (s : State) (n : Nat) : (advance s n).turns = s.turns := rfl
@[simp] theorem advance_free (s : State) (n : Nat) : (advance s n).free = s.free := rfl
@[simp] theorem advance_walks (s : State) (n : Nat) : (advance s n).walks = s.walks := rfl
@[simp] theorem advance_l1d (s : State) (n : Nat) : (advance s n).l1d = s.l1d := rfl
@[simp] theorem advance_collEnds (s : State) (n : Nat) : (advance s n).collEnds = s.collEnds := rfl
@[simp] theorem advance_nvme (s : State) (n : Nat) : (advance s n).nvme = s.nvme := rfl
@[simp] theorem advance_heads (s : State) (n : Nat) : (advance s n).heads = s.heads := rfl
@[simp] theorem advance_revoking (s : State) (n : Nat) : (advance s n).revoking = s.revoking := rfl
@[simp] theorem advance_invVa (s : State) (n : Nat) : (advance s n).invVa = s.invVa := rfl
@[simp] theorem advance_hdmBase (s : State) (n : Nat) : (advance s n).hdmBase = s.hdmBase := rfl
@[simp] theorem advance_pending (s : State) (n : Nat) : (advance s n).pending = s.pending := rfl
@[simp] theorem advance_nextStore (s : State) (n : Nat) : (advance s n).nextStore = s.nextStore := rfl
@[simp] theorem advance_marks (s : State) (n : Nat) : (advance s n).marks = s.marks := rfl
@[simp] theorem advance_now (s : State) (n : Nat) : (advance s n).now = s.now := rfl
@[simp] theorem advance_past (s : State) (n : Nat) : (advance s n).past = s.past := rfl
@[simp] theorem advance_posted (s : State) (n : Nat) : (advance s n).posted = s.posted := rfl
@[simp] theorem advance_hostFills (s : State) (n : Nat) : (advance s n).hostFills = s.hostFills := rfl
@[simp] theorem advance_weak (s : State) (n : Nat) : (advance s n).weak = s.weak := rfl

@[simp] theorem updLanes_th (s : State) (f : Lanes → Lanes) : (updLanes s f).th = { s.th with lanes := f s.th.lanes } := rfl
@[simp] theorem updLanes_parked (s : State) (f : Lanes → Lanes) : (updLanes s f).parked = s.parked := rfl
@[simp] theorem updLanes_tasks (s : State) (f : Lanes → Lanes) : (updLanes s f).tasks = s.tasks := rfl
@[simp] theorem updLanes_mem (s : State) (f : Lanes → Lanes) : (updLanes s f).mem = s.mem := rfl
@[simp] theorem updLanes_uncorr (s : State) (f : Lanes → Lanes) : (updLanes s f).uncorr = s.uncorr := rfl
@[simp] theorem updLanes_corr (s : State) (f : Lanes → Lanes) : (updLanes s f).corr = s.corr := rfl
@[simp] theorem updLanes_banks (s : State) (f : Lanes → Lanes) : (updLanes s f).banks = s.banks := rfl
@[simp] theorem updLanes_debt (s : State) (f : Lanes → Lanes) : (updLanes s f).debt = s.debt := rfl
@[simp] theorem updLanes_ctl (s : State) (f : Lanes → Lanes) : (updLanes s f).ctl = s.ctl := rfl
@[simp] theorem updLanes_cycles (s : State) (f : Lanes → Lanes) : (updLanes s f).cycles = s.cycles := rfl
@[simp] theorem updLanes_tlb (s : State) (f : Lanes → Lanes) : (updLanes s f).tlb = s.tlb := rfl
@[simp] theorem updLanes_l1i (s : State) (f : Lanes → Lanes) : (updLanes s f).l1i = s.l1i := rfl
@[simp] theorem updLanes_image (s : State) (f : Lanes → Lanes) : (updLanes s f).image = s.image := rfl
@[simp] theorem updLanes_l2 (s : State) (f : Lanes → Lanes) : (updLanes s f).l2 = s.l2 := rfl
@[simp] theorem updLanes_cmds (s : State) (f : Lanes → Lanes) : (updLanes s f).cmds = s.cmds := rfl
@[simp] theorem updLanes_nextCmd (s : State) (f : Lanes → Lanes) : (updLanes s f).nextCmd = s.nextCmd := rfl
@[simp] theorem updLanes_colls (s : State) (f : Lanes → Lanes) : (updLanes s f).colls = s.colls := rfl
@[simp] theorem updLanes_sleepers (s : State) (f : Lanes → Lanes) : (updLanes s f).sleepers = s.sleepers := rfl
@[simp] theorem updLanes_queues (s : State) (f : Lanes → Lanes) : (updLanes s f).queues = s.queues := rfl
@[simp] theorem updLanes_disp (s : State) (f : Lanes → Lanes) : (updLanes s f).disp = s.disp := rfl
@[simp] theorem updLanes_nextTask (s : State) (f : Lanes → Lanes) : (updLanes s f).nextTask = s.nextTask := rfl
@[simp] theorem updLanes_nextOrder (s : State) (f : Lanes → Lanes) : (updLanes s f).nextOrder = s.nextOrder := rfl
@[simp] theorem updLanes_endings (s : State) (f : Lanes → Lanes) : (updLanes s f).endings = s.endings := rfl
@[simp] theorem updLanes_nextKey (s : State) (f : Lanes → Lanes) : (updLanes s f).nextKey = s.nextKey := rfl
@[simp] theorem updLanes_fsRecs (s : State) (f : Lanes → Lanes) : (updLanes s f).fsRecs = s.fsRecs := rfl
@[simp] theorem updLanes_nextTag (s : State) (f : Lanes → Lanes) : (updLanes s f).nextTag = s.nextTag := rfl
@[simp] theorem updLanes_holdOut (s : State) (f : Lanes → Lanes) : (updLanes s f).holdOut = s.holdOut := rfl
@[simp] theorem updLanes_hostLines (s : State) (f : Lanes → Lanes) : (updLanes s f).hostLines = s.hostLines := rfl
@[simp] theorem updLanes_fuse (s : State) (f : Lanes → Lanes) : (updLanes s f).fuse = s.fuse := rfl
@[simp] theorem updLanes_hkc (s : State) (f : Lanes → Lanes) : (updLanes s f).hkc = s.hkc := rfl
@[simp] theorem updLanes_drives (s : State) (f : Lanes → Lanes) : (updLanes s f).drives = s.drives := rfl
@[simp] theorem updLanes_portUp (s : State) (f : Lanes → Lanes) : (updLanes s f).portUp = s.portUp := rfl
@[simp] theorem updLanes_msix (s : State) (f : Lanes → Lanes) : (updLanes s f).msix = s.msix := rfl
@[simp] theorem updLanes_hostResp (s : State) (f : Lanes → Lanes) : (updLanes s f).hostResp = s.hostResp := rfl
@[simp] theorem updLanes_clockSteps (s : State) (f : Lanes → Lanes) : (updLanes s f).clockSteps = s.clockSteps := rfl
@[simp] theorem updLanes_padmHalved (s : State) (f : Lanes → Lanes) : (updLanes s f).padmHalved = s.padmHalved := rfl
@[simp] theorem updLanes_stopped (s : State) (f : Lanes → Lanes) : (updLanes s f).stopped = s.stopped := rfl
@[simp] theorem updLanes_group (s : State) (f : Lanes → Lanes) : (updLanes s f).group = s.group := rfl
@[simp] theorem updLanes_agenda (s : State) (f : Lanes → Lanes) : (updLanes s f).agenda = s.agenda := rfl
@[simp] theorem updLanes_vlag (s : State) (f : Lanes → Lanes) : (updLanes s f).vlag = s.vlag := rfl
@[simp] theorem updLanes_turns (s : State) (f : Lanes → Lanes) : (updLanes s f).turns = s.turns := rfl
@[simp] theorem updLanes_free (s : State) (f : Lanes → Lanes) : (updLanes s f).free = s.free := rfl
@[simp] theorem updLanes_walks (s : State) (f : Lanes → Lanes) : (updLanes s f).walks = s.walks := rfl
@[simp] theorem updLanes_l1d (s : State) (f : Lanes → Lanes) : (updLanes s f).l1d = s.l1d := rfl
@[simp] theorem updLanes_collEnds (s : State) (f : Lanes → Lanes) : (updLanes s f).collEnds = s.collEnds := rfl
@[simp] theorem updLanes_nvme (s : State) (f : Lanes → Lanes) : (updLanes s f).nvme = s.nvme := rfl
@[simp] theorem updLanes_heads (s : State) (f : Lanes → Lanes) : (updLanes s f).heads = s.heads := rfl
@[simp] theorem updLanes_revoking (s : State) (f : Lanes → Lanes) : (updLanes s f).revoking = s.revoking := rfl
@[simp] theorem updLanes_invVa (s : State) (f : Lanes → Lanes) : (updLanes s f).invVa = s.invVa := rfl
@[simp] theorem updLanes_hdmBase (s : State) (f : Lanes → Lanes) : (updLanes s f).hdmBase = s.hdmBase := rfl
@[simp] theorem updLanes_pending (s : State) (f : Lanes → Lanes) : (updLanes s f).pending = s.pending := rfl
@[simp] theorem updLanes_nextStore (s : State) (f : Lanes → Lanes) : (updLanes s f).nextStore = s.nextStore := rfl
@[simp] theorem updLanes_marks (s : State) (f : Lanes → Lanes) : (updLanes s f).marks = s.marks := rfl
@[simp] theorem updLanes_now (s : State) (f : Lanes → Lanes) : (updLanes s f).now = s.now := rfl
@[simp] theorem updLanes_past (s : State) (f : Lanes → Lanes) : (updLanes s f).past = s.past := rfl
@[simp] theorem updLanes_posted (s : State) (f : Lanes → Lanes) : (updLanes s f).posted = s.posted := rfl
@[simp] theorem updLanes_hostFills (s : State) (f : Lanes → Lanes) : (updLanes s f).hostFills = s.hostFills := rfl
@[simp] theorem updLanes_weak (s : State) (f : Lanes → Lanes) : (updLanes s f).weak = s.weak := rfl

@[simp] theorem updThreads_th (s : State) (f : Thread → Thread) : (updThreads s f).th = f s.th := rfl
@[simp] theorem updThreads_parked (s : State) (f : Thread → Thread) : (updThreads s f).parked = s.parked.map f := rfl
@[simp] theorem updThreads_tasks (s : State) (f : Thread → Thread) : (updThreads s f).tasks = s.tasks := rfl
@[simp] theorem updThreads_mem (s : State) (f : Thread → Thread) : (updThreads s f).mem = s.mem := rfl
@[simp] theorem updThreads_uncorr (s : State) (f : Thread → Thread) : (updThreads s f).uncorr = s.uncorr := rfl
@[simp] theorem updThreads_corr (s : State) (f : Thread → Thread) : (updThreads s f).corr = s.corr := rfl
@[simp] theorem updThreads_banks (s : State) (f : Thread → Thread) : (updThreads s f).banks = s.banks := rfl
@[simp] theorem updThreads_debt (s : State) (f : Thread → Thread) : (updThreads s f).debt = s.debt := rfl
@[simp] theorem updThreads_ctl (s : State) (f : Thread → Thread) : (updThreads s f).ctl = s.ctl := rfl
@[simp] theorem updThreads_cycles (s : State) (f : Thread → Thread) : (updThreads s f).cycles = s.cycles := rfl
@[simp] theorem updThreads_tlb (s : State) (f : Thread → Thread) : (updThreads s f).tlb = s.tlb := rfl
@[simp] theorem updThreads_l1i (s : State) (f : Thread → Thread) : (updThreads s f).l1i = s.l1i := rfl
@[simp] theorem updThreads_image (s : State) (f : Thread → Thread) : (updThreads s f).image = s.image := rfl
@[simp] theorem updThreads_l2 (s : State) (f : Thread → Thread) : (updThreads s f).l2 = s.l2 := rfl
@[simp] theorem updThreads_cmds (s : State) (f : Thread → Thread) : (updThreads s f).cmds = s.cmds := rfl
@[simp] theorem updThreads_nextCmd (s : State) (f : Thread → Thread) : (updThreads s f).nextCmd = s.nextCmd := rfl
@[simp] theorem updThreads_colls (s : State) (f : Thread → Thread) : (updThreads s f).colls = s.colls := rfl
@[simp] theorem updThreads_sleepers (s : State) (f : Thread → Thread) : (updThreads s f).sleepers = s.sleepers := rfl
@[simp] theorem updThreads_queues (s : State) (f : Thread → Thread) : (updThreads s f).queues = s.queues := rfl
@[simp] theorem updThreads_disp (s : State) (f : Thread → Thread) : (updThreads s f).disp = s.disp := rfl
@[simp] theorem updThreads_nextTask (s : State) (f : Thread → Thread) : (updThreads s f).nextTask = s.nextTask := rfl
@[simp] theorem updThreads_nextOrder (s : State) (f : Thread → Thread) : (updThreads s f).nextOrder = s.nextOrder := rfl
@[simp] theorem updThreads_endings (s : State) (f : Thread → Thread) : (updThreads s f).endings = s.endings := rfl
@[simp] theorem updThreads_nextKey (s : State) (f : Thread → Thread) : (updThreads s f).nextKey = s.nextKey := rfl
@[simp] theorem updThreads_fsRecs (s : State) (f : Thread → Thread) : (updThreads s f).fsRecs = s.fsRecs := rfl
@[simp] theorem updThreads_nextTag (s : State) (f : Thread → Thread) : (updThreads s f).nextTag = s.nextTag := rfl
@[simp] theorem updThreads_holdOut (s : State) (f : Thread → Thread) : (updThreads s f).holdOut = s.holdOut := rfl
@[simp] theorem updThreads_hostLines (s : State) (f : Thread → Thread) : (updThreads s f).hostLines = s.hostLines := rfl
@[simp] theorem updThreads_fuse (s : State) (f : Thread → Thread) : (updThreads s f).fuse = s.fuse := rfl
@[simp] theorem updThreads_hkc (s : State) (f : Thread → Thread) : (updThreads s f).hkc = s.hkc := rfl
@[simp] theorem updThreads_drives (s : State) (f : Thread → Thread) : (updThreads s f).drives = s.drives := rfl
@[simp] theorem updThreads_portUp (s : State) (f : Thread → Thread) : (updThreads s f).portUp = s.portUp := rfl
@[simp] theorem updThreads_msix (s : State) (f : Thread → Thread) : (updThreads s f).msix = s.msix := rfl
@[simp] theorem updThreads_hostResp (s : State) (f : Thread → Thread) : (updThreads s f).hostResp = s.hostResp := rfl
@[simp] theorem updThreads_clockSteps (s : State) (f : Thread → Thread) : (updThreads s f).clockSteps = s.clockSteps := rfl
@[simp] theorem updThreads_padmHalved (s : State) (f : Thread → Thread) : (updThreads s f).padmHalved = s.padmHalved := rfl
@[simp] theorem updThreads_stopped (s : State) (f : Thread → Thread) : (updThreads s f).stopped = s.stopped := rfl
@[simp] theorem updThreads_group (s : State) (f : Thread → Thread) : (updThreads s f).group = s.group := rfl
@[simp] theorem updThreads_agenda (s : State) (f : Thread → Thread) : (updThreads s f).agenda = s.agenda := rfl
@[simp] theorem updThreads_vlag (s : State) (f : Thread → Thread) : (updThreads s f).vlag = s.vlag := rfl
@[simp] theorem updThreads_turns (s : State) (f : Thread → Thread) : (updThreads s f).turns = s.turns := rfl
@[simp] theorem updThreads_free (s : State) (f : Thread → Thread) : (updThreads s f).free = s.free := rfl
@[simp] theorem updThreads_walks (s : State) (f : Thread → Thread) : (updThreads s f).walks = s.walks := rfl
@[simp] theorem updThreads_l1d (s : State) (f : Thread → Thread) : (updThreads s f).l1d = s.l1d := rfl
@[simp] theorem updThreads_collEnds (s : State) (f : Thread → Thread) : (updThreads s f).collEnds = s.collEnds := rfl
@[simp] theorem updThreads_nvme (s : State) (f : Thread → Thread) : (updThreads s f).nvme = s.nvme := rfl
@[simp] theorem updThreads_heads (s : State) (f : Thread → Thread) : (updThreads s f).heads = s.heads := rfl
@[simp] theorem updThreads_revoking (s : State) (f : Thread → Thread) : (updThreads s f).revoking = s.revoking := rfl
@[simp] theorem updThreads_invVa (s : State) (f : Thread → Thread) : (updThreads s f).invVa = s.invVa := rfl
@[simp] theorem updThreads_hdmBase (s : State) (f : Thread → Thread) : (updThreads s f).hdmBase = s.hdmBase := rfl
@[simp] theorem updThreads_pending (s : State) (f : Thread → Thread) : (updThreads s f).pending = s.pending := rfl
@[simp] theorem updThreads_nextStore (s : State) (f : Thread → Thread) : (updThreads s f).nextStore = s.nextStore := rfl
@[simp] theorem updThreads_marks (s : State) (f : Thread → Thread) : (updThreads s f).marks = s.marks := rfl
@[simp] theorem updThreads_now (s : State) (f : Thread → Thread) : (updThreads s f).now = s.now := rfl
@[simp] theorem updThreads_past (s : State) (f : Thread → Thread) : (updThreads s f).past = s.past := rfl
@[simp] theorem updThreads_posted (s : State) (f : Thread → Thread) : (updThreads s f).posted = s.posted := rfl
@[simp] theorem updThreads_hostFills (s : State) (f : Thread → Thread) : (updThreads s f).hostFills = s.hostFills := rfl
@[simp] theorem updThreads_weak (s : State) (f : Thread → Thread) : (updThreads s f).weak = s.weak := rfl

@[simp] theorem ctlSet_th (s : State) (o : Nat) (v : Word) : (ctlSet s o v).th = s.th := rfl
@[simp] theorem ctlSet_parked (s : State) (o : Nat) (v : Word) : (ctlSet s o v).parked = s.parked := rfl
@[simp] theorem ctlSet_tasks (s : State) (o : Nat) (v : Word) : (ctlSet s o v).tasks = s.tasks := rfl
@[simp] theorem ctlSet_mem (s : State) (o : Nat) (v : Word) : (ctlSet s o v).mem = s.mem := rfl
@[simp] theorem ctlSet_uncorr (s : State) (o : Nat) (v : Word) : (ctlSet s o v).uncorr = s.uncorr := rfl
@[simp] theorem ctlSet_corr (s : State) (o : Nat) (v : Word) : (ctlSet s o v).corr = s.corr := rfl
@[simp] theorem ctlSet_banks (s : State) (o : Nat) (v : Word) : (ctlSet s o v).banks = s.banks := rfl
@[simp] theorem ctlSet_debt (s : State) (o : Nat) (v : Word) : (ctlSet s o v).debt = s.debt := rfl
@[simp] theorem ctlSet_ctl (s : State) (o : Nat) (v : Word) : (ctlSet s o v).ctl = smSet s.ctl o v := rfl
@[simp] theorem ctlSet_cycles (s : State) (o : Nat) (v : Word) : (ctlSet s o v).cycles = s.cycles := rfl
@[simp] theorem ctlSet_tlb (s : State) (o : Nat) (v : Word) : (ctlSet s o v).tlb = s.tlb := rfl
@[simp] theorem ctlSet_l1i (s : State) (o : Nat) (v : Word) : (ctlSet s o v).l1i = s.l1i := rfl
@[simp] theorem ctlSet_image (s : State) (o : Nat) (v : Word) : (ctlSet s o v).image = s.image := rfl
@[simp] theorem ctlSet_l2 (s : State) (o : Nat) (v : Word) : (ctlSet s o v).l2 = s.l2 := rfl
@[simp] theorem ctlSet_cmds (s : State) (o : Nat) (v : Word) : (ctlSet s o v).cmds = s.cmds := rfl
@[simp] theorem ctlSet_nextCmd (s : State) (o : Nat) (v : Word) : (ctlSet s o v).nextCmd = s.nextCmd := rfl
@[simp] theorem ctlSet_colls (s : State) (o : Nat) (v : Word) : (ctlSet s o v).colls = s.colls := rfl
@[simp] theorem ctlSet_sleepers (s : State) (o : Nat) (v : Word) : (ctlSet s o v).sleepers = s.sleepers := rfl
@[simp] theorem ctlSet_queues (s : State) (o : Nat) (v : Word) : (ctlSet s o v).queues = s.queues := rfl
@[simp] theorem ctlSet_disp (s : State) (o : Nat) (v : Word) : (ctlSet s o v).disp = s.disp := rfl
@[simp] theorem ctlSet_nextTask (s : State) (o : Nat) (v : Word) : (ctlSet s o v).nextTask = s.nextTask := rfl
@[simp] theorem ctlSet_nextOrder (s : State) (o : Nat) (v : Word) : (ctlSet s o v).nextOrder = s.nextOrder := rfl
@[simp] theorem ctlSet_endings (s : State) (o : Nat) (v : Word) : (ctlSet s o v).endings = s.endings := rfl
@[simp] theorem ctlSet_nextKey (s : State) (o : Nat) (v : Word) : (ctlSet s o v).nextKey = s.nextKey := rfl
@[simp] theorem ctlSet_fsRecs (s : State) (o : Nat) (v : Word) : (ctlSet s o v).fsRecs = s.fsRecs := rfl
@[simp] theorem ctlSet_nextTag (s : State) (o : Nat) (v : Word) : (ctlSet s o v).nextTag = s.nextTag := rfl
@[simp] theorem ctlSet_holdOut (s : State) (o : Nat) (v : Word) : (ctlSet s o v).holdOut = s.holdOut := rfl
@[simp] theorem ctlSet_hostLines (s : State) (o : Nat) (v : Word) : (ctlSet s o v).hostLines = s.hostLines := rfl
@[simp] theorem ctlSet_fuse (s : State) (o : Nat) (v : Word) : (ctlSet s o v).fuse = s.fuse := rfl
@[simp] theorem ctlSet_hkc (s : State) (o : Nat) (v : Word) : (ctlSet s o v).hkc = s.hkc := rfl
@[simp] theorem ctlSet_drives (s : State) (o : Nat) (v : Word) : (ctlSet s o v).drives = s.drives := rfl
@[simp] theorem ctlSet_portUp (s : State) (o : Nat) (v : Word) : (ctlSet s o v).portUp = s.portUp := rfl
@[simp] theorem ctlSet_msix (s : State) (o : Nat) (v : Word) : (ctlSet s o v).msix = s.msix := rfl
@[simp] theorem ctlSet_hostResp (s : State) (o : Nat) (v : Word) : (ctlSet s o v).hostResp = s.hostResp := rfl
@[simp] theorem ctlSet_clockSteps (s : State) (o : Nat) (v : Word) : (ctlSet s o v).clockSteps = s.clockSteps := rfl
@[simp] theorem ctlSet_padmHalved (s : State) (o : Nat) (v : Word) : (ctlSet s o v).padmHalved = s.padmHalved := rfl
@[simp] theorem ctlSet_stopped (s : State) (o : Nat) (v : Word) : (ctlSet s o v).stopped = s.stopped := rfl
@[simp] theorem ctlSet_group (s : State) (o : Nat) (v : Word) : (ctlSet s o v).group = s.group := rfl
@[simp] theorem ctlSet_agenda (s : State) (o : Nat) (v : Word) : (ctlSet s o v).agenda = s.agenda := rfl
@[simp] theorem ctlSet_vlag (s : State) (o : Nat) (v : Word) : (ctlSet s o v).vlag = s.vlag := rfl
@[simp] theorem ctlSet_turns (s : State) (o : Nat) (v : Word) : (ctlSet s o v).turns = s.turns := rfl
@[simp] theorem ctlSet_free (s : State) (o : Nat) (v : Word) : (ctlSet s o v).free = s.free := rfl
@[simp] theorem ctlSet_walks (s : State) (o : Nat) (v : Word) : (ctlSet s o v).walks = s.walks := rfl
@[simp] theorem ctlSet_l1d (s : State) (o : Nat) (v : Word) : (ctlSet s o v).l1d = s.l1d := rfl
@[simp] theorem ctlSet_collEnds (s : State) (o : Nat) (v : Word) : (ctlSet s o v).collEnds = s.collEnds := rfl
@[simp] theorem ctlSet_nvme (s : State) (o : Nat) (v : Word) : (ctlSet s o v).nvme = s.nvme := rfl
@[simp] theorem ctlSet_heads (s : State) (o : Nat) (v : Word) : (ctlSet s o v).heads = s.heads := rfl
@[simp] theorem ctlSet_revoking (s : State) (o : Nat) (v : Word) : (ctlSet s o v).revoking = s.revoking := rfl
@[simp] theorem ctlSet_invVa (s : State) (o : Nat) (v : Word) : (ctlSet s o v).invVa = s.invVa := rfl
@[simp] theorem ctlSet_hdmBase (s : State) (o : Nat) (v : Word) : (ctlSet s o v).hdmBase = s.hdmBase := rfl
@[simp] theorem ctlSet_pending (s : State) (o : Nat) (v : Word) : (ctlSet s o v).pending = s.pending := rfl
@[simp] theorem ctlSet_nextStore (s : State) (o : Nat) (v : Word) : (ctlSet s o v).nextStore = s.nextStore := rfl
@[simp] theorem ctlSet_marks (s : State) (o : Nat) (v : Word) : (ctlSet s o v).marks = s.marks := rfl
@[simp] theorem ctlSet_now (s : State) (o : Nat) (v : Word) : (ctlSet s o v).now = s.now := rfl
@[simp] theorem ctlSet_past (s : State) (o : Nat) (v : Word) : (ctlSet s o v).past = s.past := rfl
@[simp] theorem ctlSet_posted (s : State) (o : Nat) (v : Word) : (ctlSet s o v).posted = s.posted := rfl
@[simp] theorem ctlSet_hostFills (s : State) (o : Nat) (v : Word) : (ctlSet s o v).hostFills = s.hostFills := rfl
@[simp] theorem ctlSet_weak (s : State) (o : Nat) (v : Word) : (ctlSet s o v).weak = s.weak := rfl

@[simp] theorem updTask_th (s : State) (k : BitVec 32) (f : Task → Task) : (updTask s k f).th = s.th := rfl
@[simp] theorem updTask_parked (s : State) (k : BitVec 32) (f : Task → Task) : (updTask s k f).parked = s.parked := rfl
@[simp] theorem updTask_tasks (s : State) (k : BitVec 32) (f : Task → Task) : (updTask s k f).tasks = s.tasks.map fun t => if t.id == k then f t else t := rfl
@[simp] theorem updTask_mem (s : State) (k : BitVec 32) (f : Task → Task) : (updTask s k f).mem = s.mem := rfl
@[simp] theorem updTask_uncorr (s : State) (k : BitVec 32) (f : Task → Task) : (updTask s k f).uncorr = s.uncorr := rfl
@[simp] theorem updTask_corr (s : State) (k : BitVec 32) (f : Task → Task) : (updTask s k f).corr = s.corr := rfl
@[simp] theorem updTask_banks (s : State) (k : BitVec 32) (f : Task → Task) : (updTask s k f).banks = s.banks := rfl
@[simp] theorem updTask_debt (s : State) (k : BitVec 32) (f : Task → Task) : (updTask s k f).debt = s.debt := rfl
@[simp] theorem updTask_ctl (s : State) (k : BitVec 32) (f : Task → Task) : (updTask s k f).ctl = s.ctl := rfl
@[simp] theorem updTask_cycles (s : State) (k : BitVec 32) (f : Task → Task) : (updTask s k f).cycles = s.cycles := rfl
@[simp] theorem updTask_tlb (s : State) (k : BitVec 32) (f : Task → Task) : (updTask s k f).tlb = s.tlb := rfl
@[simp] theorem updTask_l1i (s : State) (k : BitVec 32) (f : Task → Task) : (updTask s k f).l1i = s.l1i := rfl
@[simp] theorem updTask_image (s : State) (k : BitVec 32) (f : Task → Task) : (updTask s k f).image = s.image := rfl
@[simp] theorem updTask_l2 (s : State) (k : BitVec 32) (f : Task → Task) : (updTask s k f).l2 = s.l2 := rfl
@[simp] theorem updTask_cmds (s : State) (k : BitVec 32) (f : Task → Task) : (updTask s k f).cmds = s.cmds := rfl
@[simp] theorem updTask_nextCmd (s : State) (k : BitVec 32) (f : Task → Task) : (updTask s k f).nextCmd = s.nextCmd := rfl
@[simp] theorem updTask_colls (s : State) (k : BitVec 32) (f : Task → Task) : (updTask s k f).colls = s.colls := rfl
@[simp] theorem updTask_sleepers (s : State) (k : BitVec 32) (f : Task → Task) : (updTask s k f).sleepers = s.sleepers := rfl
@[simp] theorem updTask_queues (s : State) (k : BitVec 32) (f : Task → Task) : (updTask s k f).queues = s.queues := rfl
@[simp] theorem updTask_disp (s : State) (k : BitVec 32) (f : Task → Task) : (updTask s k f).disp = s.disp := rfl
@[simp] theorem updTask_nextTask (s : State) (k : BitVec 32) (f : Task → Task) : (updTask s k f).nextTask = s.nextTask := rfl
@[simp] theorem updTask_nextOrder (s : State) (k : BitVec 32) (f : Task → Task) : (updTask s k f).nextOrder = s.nextOrder := rfl
@[simp] theorem updTask_endings (s : State) (k : BitVec 32) (f : Task → Task) : (updTask s k f).endings = s.endings := rfl
@[simp] theorem updTask_nextKey (s : State) (k : BitVec 32) (f : Task → Task) : (updTask s k f).nextKey = s.nextKey := rfl
@[simp] theorem updTask_fsRecs (s : State) (k : BitVec 32) (f : Task → Task) : (updTask s k f).fsRecs = s.fsRecs := rfl
@[simp] theorem updTask_nextTag (s : State) (k : BitVec 32) (f : Task → Task) : (updTask s k f).nextTag = s.nextTag := rfl
@[simp] theorem updTask_holdOut (s : State) (k : BitVec 32) (f : Task → Task) : (updTask s k f).holdOut = s.holdOut := rfl
@[simp] theorem updTask_hostLines (s : State) (k : BitVec 32) (f : Task → Task) : (updTask s k f).hostLines = s.hostLines := rfl
@[simp] theorem updTask_fuse (s : State) (k : BitVec 32) (f : Task → Task) : (updTask s k f).fuse = s.fuse := rfl
@[simp] theorem updTask_hkc (s : State) (k : BitVec 32) (f : Task → Task) : (updTask s k f).hkc = s.hkc := rfl
@[simp] theorem updTask_drives (s : State) (k : BitVec 32) (f : Task → Task) : (updTask s k f).drives = s.drives := rfl
@[simp] theorem updTask_portUp (s : State) (k : BitVec 32) (f : Task → Task) : (updTask s k f).portUp = s.portUp := rfl
@[simp] theorem updTask_msix (s : State) (k : BitVec 32) (f : Task → Task) : (updTask s k f).msix = s.msix := rfl
@[simp] theorem updTask_hostResp (s : State) (k : BitVec 32) (f : Task → Task) : (updTask s k f).hostResp = s.hostResp := rfl
@[simp] theorem updTask_clockSteps (s : State) (k : BitVec 32) (f : Task → Task) : (updTask s k f).clockSteps = s.clockSteps := rfl
@[simp] theorem updTask_padmHalved (s : State) (k : BitVec 32) (f : Task → Task) : (updTask s k f).padmHalved = s.padmHalved := rfl
@[simp] theorem updTask_stopped (s : State) (k : BitVec 32) (f : Task → Task) : (updTask s k f).stopped = s.stopped := rfl
@[simp] theorem updTask_group (s : State) (k : BitVec 32) (f : Task → Task) : (updTask s k f).group = s.group := rfl
@[simp] theorem updTask_agenda (s : State) (k : BitVec 32) (f : Task → Task) : (updTask s k f).agenda = s.agenda := rfl
@[simp] theorem updTask_vlag (s : State) (k : BitVec 32) (f : Task → Task) : (updTask s k f).vlag = s.vlag := rfl
@[simp] theorem updTask_turns (s : State) (k : BitVec 32) (f : Task → Task) : (updTask s k f).turns = s.turns := rfl
@[simp] theorem updTask_free (s : State) (k : BitVec 32) (f : Task → Task) : (updTask s k f).free = s.free := rfl
@[simp] theorem updTask_walks (s : State) (k : BitVec 32) (f : Task → Task) : (updTask s k f).walks = s.walks := rfl
@[simp] theorem updTask_l1d (s : State) (k : BitVec 32) (f : Task → Task) : (updTask s k f).l1d = s.l1d := rfl
@[simp] theorem updTask_collEnds (s : State) (k : BitVec 32) (f : Task → Task) : (updTask s k f).collEnds = s.collEnds := rfl
@[simp] theorem updTask_nvme (s : State) (k : BitVec 32) (f : Task → Task) : (updTask s k f).nvme = s.nvme := rfl
@[simp] theorem updTask_heads (s : State) (k : BitVec 32) (f : Task → Task) : (updTask s k f).heads = s.heads := rfl
@[simp] theorem updTask_revoking (s : State) (k : BitVec 32) (f : Task → Task) : (updTask s k f).revoking = s.revoking := rfl
@[simp] theorem updTask_invVa (s : State) (k : BitVec 32) (f : Task → Task) : (updTask s k f).invVa = s.invVa := rfl
@[simp] theorem updTask_hdmBase (s : State) (k : BitVec 32) (f : Task → Task) : (updTask s k f).hdmBase = s.hdmBase := rfl
@[simp] theorem updTask_pending (s : State) (k : BitVec 32) (f : Task → Task) : (updTask s k f).pending = s.pending := rfl
@[simp] theorem updTask_nextStore (s : State) (k : BitVec 32) (f : Task → Task) : (updTask s k f).nextStore = s.nextStore := rfl
@[simp] theorem updTask_marks (s : State) (k : BitVec 32) (f : Task → Task) : (updTask s k f).marks = s.marks := rfl
@[simp] theorem updTask_now (s : State) (k : BitVec 32) (f : Task → Task) : (updTask s k f).now = s.now := rfl
@[simp] theorem updTask_past (s : State) (k : BitVec 32) (f : Task → Task) : (updTask s k f).past = s.past := rfl
@[simp] theorem updTask_posted (s : State) (k : BitVec 32) (f : Task → Task) : (updTask s k f).posted = s.posted := rfl
@[simp] theorem updTask_hostFills (s : State) (k : BitVec 32) (f : Task → Task) : (updTask s k f).hostFills = s.hostFills := rfl
@[simp] theorem updTask_weak (s : State) (k : BitVec 32) (f : Task → Task) : (updTask s k f).weak = s.weak := rfl

@[simp] theorem raiseMsix_th (s : State) (v : Nat) : (raiseMsix s v).th = s.th := rfl
@[simp] theorem raiseMsix_parked (s : State) (v : Nat) : (raiseMsix s v).parked = s.parked := rfl
@[simp] theorem raiseMsix_tasks (s : State) (v : Nat) : (raiseMsix s v).tasks = s.tasks := rfl
@[simp] theorem raiseMsix_mem (s : State) (v : Nat) : (raiseMsix s v).mem = s.mem := rfl
@[simp] theorem raiseMsix_uncorr (s : State) (v : Nat) : (raiseMsix s v).uncorr = s.uncorr := rfl
@[simp] theorem raiseMsix_corr (s : State) (v : Nat) : (raiseMsix s v).corr = s.corr := rfl
@[simp] theorem raiseMsix_banks (s : State) (v : Nat) : (raiseMsix s v).banks = s.banks := rfl
@[simp] theorem raiseMsix_debt (s : State) (v : Nat) : (raiseMsix s v).debt = s.debt := rfl
@[simp] theorem raiseMsix_ctl (s : State) (v : Nat) : (raiseMsix s v).ctl = s.ctl := rfl
@[simp] theorem raiseMsix_cycles (s : State) (v : Nat) : (raiseMsix s v).cycles = s.cycles := rfl
@[simp] theorem raiseMsix_tlb (s : State) (v : Nat) : (raiseMsix s v).tlb = s.tlb := rfl
@[simp] theorem raiseMsix_l1i (s : State) (v : Nat) : (raiseMsix s v).l1i = s.l1i := rfl
@[simp] theorem raiseMsix_image (s : State) (v : Nat) : (raiseMsix s v).image = s.image := rfl
@[simp] theorem raiseMsix_l2 (s : State) (v : Nat) : (raiseMsix s v).l2 = s.l2 := rfl
@[simp] theorem raiseMsix_cmds (s : State) (v : Nat) : (raiseMsix s v).cmds = s.cmds := rfl
@[simp] theorem raiseMsix_nextCmd (s : State) (v : Nat) : (raiseMsix s v).nextCmd = s.nextCmd := rfl
@[simp] theorem raiseMsix_colls (s : State) (v : Nat) : (raiseMsix s v).colls = s.colls := rfl
@[simp] theorem raiseMsix_sleepers (s : State) (v : Nat) : (raiseMsix s v).sleepers = s.sleepers := rfl
@[simp] theorem raiseMsix_queues (s : State) (v : Nat) : (raiseMsix s v).queues = s.queues := rfl
@[simp] theorem raiseMsix_disp (s : State) (v : Nat) : (raiseMsix s v).disp = s.disp := rfl
@[simp] theorem raiseMsix_nextTask (s : State) (v : Nat) : (raiseMsix s v).nextTask = s.nextTask := rfl
@[simp] theorem raiseMsix_nextOrder (s : State) (v : Nat) : (raiseMsix s v).nextOrder = s.nextOrder := rfl
@[simp] theorem raiseMsix_endings (s : State) (v : Nat) : (raiseMsix s v).endings = s.endings := rfl
@[simp] theorem raiseMsix_nextKey (s : State) (v : Nat) : (raiseMsix s v).nextKey = s.nextKey := rfl
@[simp] theorem raiseMsix_fsRecs (s : State) (v : Nat) : (raiseMsix s v).fsRecs = s.fsRecs := rfl
@[simp] theorem raiseMsix_nextTag (s : State) (v : Nat) : (raiseMsix s v).nextTag = s.nextTag := rfl
@[simp] theorem raiseMsix_holdOut (s : State) (v : Nat) : (raiseMsix s v).holdOut = s.holdOut := rfl
@[simp] theorem raiseMsix_hostLines (s : State) (v : Nat) : (raiseMsix s v).hostLines = s.hostLines := rfl
@[simp] theorem raiseMsix_fuse (s : State) (v : Nat) : (raiseMsix s v).fuse = s.fuse := rfl
@[simp] theorem raiseMsix_hkc (s : State) (v : Nat) : (raiseMsix s v).hkc = s.hkc := rfl
@[simp] theorem raiseMsix_drives (s : State) (v : Nat) : (raiseMsix s v).drives = s.drives := rfl
@[simp] theorem raiseMsix_portUp (s : State) (v : Nat) : (raiseMsix s v).portUp = s.portUp := rfl
@[simp] theorem raiseMsix_msix (s : State) (v : Nat) : (raiseMsix s v).msix = s.msix ++ [v] := rfl
@[simp] theorem raiseMsix_hostResp (s : State) (v : Nat) : (raiseMsix s v).hostResp = s.hostResp := rfl
@[simp] theorem raiseMsix_clockSteps (s : State) (v : Nat) : (raiseMsix s v).clockSteps = s.clockSteps := rfl
@[simp] theorem raiseMsix_padmHalved (s : State) (v : Nat) : (raiseMsix s v).padmHalved = s.padmHalved := rfl
@[simp] theorem raiseMsix_stopped (s : State) (v : Nat) : (raiseMsix s v).stopped = s.stopped := rfl
@[simp] theorem raiseMsix_group (s : State) (v : Nat) : (raiseMsix s v).group = s.group := rfl
@[simp] theorem raiseMsix_agenda (s : State) (v : Nat) : (raiseMsix s v).agenda = s.agenda := rfl
@[simp] theorem raiseMsix_vlag (s : State) (v : Nat) : (raiseMsix s v).vlag = s.vlag := rfl
@[simp] theorem raiseMsix_turns (s : State) (v : Nat) : (raiseMsix s v).turns = s.turns := rfl
@[simp] theorem raiseMsix_free (s : State) (v : Nat) : (raiseMsix s v).free = s.free := rfl
@[simp] theorem raiseMsix_walks (s : State) (v : Nat) : (raiseMsix s v).walks = s.walks := rfl
@[simp] theorem raiseMsix_l1d (s : State) (v : Nat) : (raiseMsix s v).l1d = s.l1d := rfl
@[simp] theorem raiseMsix_collEnds (s : State) (v : Nat) : (raiseMsix s v).collEnds = s.collEnds := rfl
@[simp] theorem raiseMsix_nvme (s : State) (v : Nat) : (raiseMsix s v).nvme = s.nvme := rfl
@[simp] theorem raiseMsix_heads (s : State) (v : Nat) : (raiseMsix s v).heads = s.heads := rfl
@[simp] theorem raiseMsix_revoking (s : State) (v : Nat) : (raiseMsix s v).revoking = s.revoking := rfl
@[simp] theorem raiseMsix_invVa (s : State) (v : Nat) : (raiseMsix s v).invVa = s.invVa := rfl
@[simp] theorem raiseMsix_hdmBase (s : State) (v : Nat) : (raiseMsix s v).hdmBase = s.hdmBase := rfl
@[simp] theorem raiseMsix_pending (s : State) (v : Nat) : (raiseMsix s v).pending = s.pending := rfl
@[simp] theorem raiseMsix_nextStore (s : State) (v : Nat) : (raiseMsix s v).nextStore = s.nextStore := rfl
@[simp] theorem raiseMsix_marks (s : State) (v : Nat) : (raiseMsix s v).marks = s.marks := rfl
@[simp] theorem raiseMsix_now (s : State) (v : Nat) : (raiseMsix s v).now = s.now := rfl
@[simp] theorem raiseMsix_past (s : State) (v : Nat) : (raiseMsix s v).past = s.past := rfl
@[simp] theorem raiseMsix_posted (s : State) (v : Nat) : (raiseMsix s v).posted = s.posted := rfl
@[simp] theorem raiseMsix_hostFills (s : State) (v : Nat) : (raiseMsix s v).hostFills = s.hostFills := rfl
@[simp] theorem raiseMsix_weak (s : State) (v : Nat) : (raiseMsix s v).weak = s.weak := rfl

@[simp] theorem setRegOf_id (th : Thread) (r : Reg) (v : Word) : (setRegOf th r v).id = th.id := by
  unfold setRegOf; split <;> (try rfl); split <;> rfl
@[simp] theorem setRegOf_task (th : Thread) (r : Reg) (v : Word) : (setRegOf th r v).task = th.task := by
  unfold setRegOf; split <;> (try rfl); split <;> rfl
@[simp] theorem setRegOf_pc (th : Thread) (r : Reg) (v : Word) : (setRegOf th r v).pc = th.pc := by
  unfold setRegOf; split <;> (try rfl); split <;> rfl
@[simp] theorem setRegOf_csr (th : Thread) (r : Reg) (v : Word) : (setRegOf th r v).csr = th.csr := by
  unfold setRegOf; split <;> (try rfl); split <;> rfl
@[simp] theorem setRegOf_lanes (th : Thread) (r : Reg) (v : Word) : (setRegOf th r v).lanes = th.lanes := by
  unfold setRegOf; split <;> (try rfl); split <;> rfl
@[simp] theorem setRegOf_viq (th : Thread) (r : Reg) (v : Word) : (setRegOf th r v).viq = th.viq := by
  unfold setRegOf; split <;> (try rfl); split <;> rfl
@[simp] theorem setRegOf_q (th : Thread) (r : Reg) (v : Word) : (setRegOf th r v).q = th.q := by
  unfold setRegOf; split <;> (try rfl); split <;> rfl
@[simp] theorem setRegOf_latch (th : Thread) (r : Reg) (v : Word) : (setRegOf th r v).latch = th.latch := by
  unfold setRegOf; split <;> (try rfl); split <;> rfl
@[simp] theorem setRegOf_wait (th : Thread) (r : Reg) (v : Word) : (setRegOf th r v).wait = th.wait := by
  unfold setRegOf; split <;> (try rfl); split <;> rfl
@[simp] theorem setRegOf_fsw (th : Thread) (r : Reg) (v : Word) : (setRegOf th r v).fsw = th.fsw := by
  unfold setRegOf; split <;> (try rfl); split <;> rfl
@[simp] theorem setRegOf_vfsw (th : Thread) (r : Reg) (v : Word) : (setRegOf th r v).vfsw = th.vfsw := by
  unfold setRegOf; split <;> (try rfl); split <;> rfl
@[simp] theorem setRegOf_stall (th : Thread) (r : Reg) (v : Word) : (setRegOf th r v).stall = th.stall := by
  unfold setRegOf; split <;> (try rfl); split <;> rfl
@[simp] theorem setRegOf_order (th : Thread) (r : Reg) (v : Word) : (setRegOf th r v).order = th.order := by
  unfold setRegOf; split <;> (try rfl); split <;> rfl
@[simp] theorem setRegOf_yielded (th : Thread) (r : Reg) (v : Word) : (setRegOf th r v).yielded = th.yielded := by
  unfold setRegOf; split <;> (try rfl); split <;> rfl

/-- A register that was written reads as the value; s0 reads 0 (R75). -/
theorem regOf_setRegOf_same (th : Thread) (r : Reg) (v : Word) : regOf (setRegOf th r v) r = if r = 0 then 0 else v := by
  unfold setRegOf
  split
  · rename_i h0; exact if_pos h0
  · rename_i h0
    split
    · rename_i h
      show (if r = 0 then (0 : Word) else if r = 62 ∧ th.trap.mode = true then v else th.sr[r.toNat]) = v
      rw [if_neg h0, if_pos h]
    · rename_i h
      show (if r = 0 then (0 : Word) else if r = 62 ∧ th.trap.mode = true then th.trap.hs
        else (th.sr.set r.toNat v)[r.toNat]) = v
      rw [if_neg h0, if_neg h]
      exact Vector.getElem_set_self _

/-- Every other register reads as before. -/
theorem regOf_setRegOf_other (th : Thread) {r q : Reg} (v : Word) (h : q ≠ r) : regOf (setRegOf th r v) q = regOf th q := by
  have hn : r.toNat ≠ q.toNat := fun e => h (BitVec.eq_of_toNat_eq e.symm)
  unfold setRegOf
  by_cases h0 : r = 0
  · simp [h0]
  · by_cases h1 : r = 62 ∧ th.trap.mode = true
    · have h2 : ¬ (q = 62 ∧ th.trap.mode = true) := fun e => h (e.1.trans h1.1.symm)
      rw [if_neg h0, if_pos h1]
      show (if q = 0 then (0 : Word) else if q = 62 ∧ th.trap.mode = true then v else th.sr[q.toNat]) = _
      unfold regOf
      rw [if_neg h2, if_neg h2]
    · rw [if_neg h0, if_neg h1]
      unfold regOf
      simp [hn]

/-- A register reads the value last written to it, and s0 reads 0 (R75). -/
@[simp] theorem getR_setR_same (s : State) (r : Reg) (v : Word) : getR (setR s r v) r = if r = 0 then 0 else v :=
  regOf_setRegOf_same s.th r v

theorem getR_setR_other (s : State) {r q : Reg} (v : Word) (h : q ≠ r) : getR (setR s r v) q = getR s q :=
  regOf_setRegOf_other s.th v h

@[simp] theorem getR_zero (s : State) : getR s 0 = 0 := rfl

@[simp] theorem getR_advance (s : State) (n : Nat) (r : Reg) : getR (advance s n) r = getR s r := rfl

@[simp] theorem getR_setPc (s : State) (pc : Word) (r : Reg) : getR (setPc s pc) r = getR s r := rfl

/-- A control register that was written reads as the value, and every other as before. -/
@[simp] theorem ctlGet_ctlSet_same (s : State) (o : Nat) (v : Word) : ctlGet (ctlSet s o v) o = v := smGet_smSet_same _ _ _

theorem ctlGet_ctlSet_other (s : State) {o p : Nat} (v : Word) (h : p ≠ o) : ctlGet (ctlSet s o v) p = ctlGet s p :=
  smGet_smSet_other _ v h

end Sys2Proof.Machine
end

