-- ==== Sys2Proof/Laws/Memory.lean ====
section
/-! SUPPORT. Memory: what a write leaves, and the canonical form, which every operation on memory keeps. -/
namespace Sys2Proof.Machine

/-- A byte that was written reads as the value. -/
@[simp] theorem memPut_single (m : Memory) (p : Nat) (b : Byte) : smGet (memPut m p [b]) p = b := by simp [memPut]

/-- A byte below the written ones reads as before. -/
theorem smGet_memPut_below (m : Memory) (p q : Nat) (bs : List Byte) (h : q < p) : smGet (memPut m p bs) q = smGet m q := by
  induction bs generalizing m p with
  | nil => rfl
  | cons b bs ih =>
    rw [memPut, ih _ _ (by omega), smGet_smSet_other _ _ (by omega)]

/-- A byte outside the written ones reads as before. -/
theorem smGet_memPut_outside (m : Memory) (p q : Nat) (bs : List Byte) (h : q < p ∨ p + bs.length ≤ q) :
    smGet (memPut m p bs) q = smGet m q := by
  induction bs generalizing m p with
  | nil => rfl
  | cons b bs ih =>
    simp only [List.length_cons] at h
    rw [memPut, ih _ _ (by omega), smGet_smSet_other _ _ (by omega)]

theorem smGet_memPut_inside (m : Memory) (p i : Nat) (bs : List Byte) (h : i < bs.length) :
    smGet (memPut m p bs) (p + i) = bs[i] := by
  induction bs generalizing m p i with
  | nil => simp at h
  | cons b bs ih =>
    cases i with
    | zero => rw [memPut]; simp [smGet_memPut_below]
    | succ i =>
      rw [memPut, show p + (i + 1) = p + 1 + i by omega, ih _ _ i (by simpa using h)]
      simp

/-- Reading a byte after some byte writes: a place that none of them has. -/
theorem smGet_putBytes_other (ws : List ByteWrite) (m : Memory) (q : Nat) (h : ∀ w ∈ ws, w.p ≠ q) :
    smGet (ws.foldl putByte m) q = smGet m q := by
  induction ws generalizing m with
  | nil => rfl
  | cons w ws ih =>
    rw [List.foldl_cons, ih _ fun x hx => h x (List.mem_cons_of_mem _ hx), putByte,
      smGet_smSet_other _ _ (Ne.symm (h w (by simp)))]

/-! ### The canonical form -/

theorem memPut_wf {m : Memory} (p : Nat) (bs : List Byte) (h : m.wf = true) : (memPut m p bs).wf = true := by
  induction bs generalizing m p with
  | nil => exact h
  | cons b bs ih => exact ih (p + 1) (smWf_smSet p b h)

@[simp] theorem ctlCount_mem (s : State) (o lo : Nat) : (ctlCount s o lo).mem = s.mem := ctlSet_mem _ _ _

theorem countUncorr_mem (s : State) (p : Nat) : (countUncorr s p).mem = s.mem := by
  have e : (ctlCount s regMerr 32).mem = s.mem := ctlCount_mem _ _ _
  unfold countUncorr
  revert e
  generalize ctlCount s regMerr 32 = t
  intro e
  dsimp only
  generalize bankOf t p = b
  obtain ⟨b, row, c⟩ := b
  simp only [apply_ite State.mem, ctlSet_mem, ite_self, e]

theorem countUncorrs_mem (ps : List Nat) (s : State) : (ps.foldl countUncorr s).mem = s.mem := by
  induction ps generalizing s with
  | nil => rfl
  | cons p ps ih => rw [List.foldl_cons, ih, countUncorr_mem]

theorem countCorr_mem (s : State) (ps : List Nat) : (countCorr s ps).mem = s.mem := by
  unfold countCorr
  split
  · rfl
  · generalize List.filter _ _ = l
    suffices ∀ t : State, (l.foldl (fun t _ => ctlCount t regMerr 0) t).mem = t.mem from this s
    induction l with
    | nil => intro t; rfl
    | cons p l ih => intro t; rw [List.foldl_cons, ih]; rfl

@[simp] theorem countRead_mem (s : State) (ps : List Nat) : (countRead s ps).mem = s.mem := by
  rw [countRead, countUncorrs_mem, countCorr_mem]

/-- Byte writes keep memory canonical. -/
theorem putBytes_wf (ws : List ByteWrite) {m : Memory} (h : m.wf = true) : Memory.wf (ws.foldl putByte m) = true := by
  induction ws generalizing m with
  | nil => exact h
  | cons w ws ih => exact ih (smWf_smSet _ _ h)

theorem admitted_sub {s : State} {who : Writer} {ws : List ByteWrite} {w : ByteWrite} (h : w ∈ admitted s who ws) : w ∈ ws := by
  unfold admitted at h
  split at h
  · exact h
  · exact (List.mem_filter.mp h).1

theorem keptWrites_sub {s : State} {ws : List ByteWrite} {w : ByteWrite} (h : w ∈ keptWrites s ws) : w ∈ ws := by
  unfold keptWrites at h
  split at h
  · exact h
  · exact (List.mem_filter.mp h).1

/-- A write at its home changes memory by writes of bytes that it has, however it joins the order of writes. -/
theorem landBits_mem (s : State) (who : Writer) (how : Landing) (ws : List ByteWrite) :
    ∃ kept : List ByteWrite, (∀ w ∈ kept, w ∈ ws) ∧ (landBits s who how ws).mem = kept.foldl putByte s.mem := by
  refine ⟨keptWrites s (admitted s who ws), fun w hw => admitted_sub (keptWrites_sub hw), ?_⟩
  show (keptWrites s _).foldl putByte ((brokenWords s _).foldl countUncorr s).mem = _
  rw [countUncorrs_mem]

/-- Every write of bytes keeps memory canonical. -/
theorem landBits_wf (s : State) (who : Writer) (how : Landing) (ws : List ByteWrite) (h : s.mem.wf = true) :
    (landBits s who how ws).mem.wf = true := by
  obtain ⟨kept, -, e⟩ := landBits_mem s who how ws
  rw [e]
  exact putBytes_wf _ h

theorem writeBits_wf (s : State) (who : Writer) (ws : List ByteWrite) (h : s.mem.wf = true) :
    (writeBits s who ws).mem.wf = true := landBits_wf _ _ _ _ h

theorem writePlaces_wf (s : State) (who : Writer) (ws : List (Nat × Byte)) (h : s.mem.wf = true) :
    (writePlaces s who ws).mem.wf = true := landBits_wf _ _ _ _ h

theorem landPlaces_wf (s : State) (who : Writer) (how : Landing) (ws : List (Nat × Byte)) (h : s.mem.wf = true) :
    (landPlaces s who how ws).mem.wf = true := landBits_wf _ _ _ _ h

/-- A byte outside a write reads as before. -/
theorem memByte_landBits_other (s : State) (who : Writer) (how : Landing) (ws : List ByteWrite) (q : Nat)
    (h : ∀ w ∈ ws, w.p ≠ q) : memByte (landBits s who how ws) q = memByte s q := by
  obtain ⟨kept, hk, e⟩ := landBits_mem s who how ws
  rw [memByte, e]
  exact smGet_putBytes_other _ _ _ fun w hw => h w (hk w hw)

/-! ### The L2 and the access counters -/

theorem countHostAccess_wf (touch : State → List Nat → State) (ht : ∀ s ps, s.mem.wf = true → (touch s ps).mem.wf = true)
    (s : State) (p : Nat) (h : s.mem.wf = true) : (countHostAccess touch s p).mem.wf = true := by
  unfold countHostAccess
  dsimp only
  repeat' split
  all_goals first
    | exact h
    | (rw [countUncorr_mem]; exact h)
    | (refine writePlaces_wf _ _ _ ?_; rw [countCorr_mem]; exact ht _ _ h)
    | (refine ht _ _ (writePlaces_wf _ _ _ (writePlaces_wf _ _ _ ?_)); rw [countCorr_mem]; exact ht _ _ h)

theorem l2Reach_wf (move : State → Nat → State) (hm : ∀ s p, s.mem.wf = true → (move s p).mem.wf = true) (s : State)
    (p : Nat) (cls : L2Class) (use : L2Use) (h : s.mem.wf = true) : (l2Reach move s p cls use).mem.wf = true := by
  unfold l2Reach
  dsimp only
  repeat' split
  all_goals first
    | exact h
    | exact hm _ _ h
    | exact hm _ _ (hm _ _ h)

/-- A line that moves between the L2 and host memory leaves memory canonical. -/
theorem movedLine_wf (n : Nat) (s : State) (line : Nat) (h : s.mem.wf = true) : (movedLine n s line).mem.wf = true := by
  induction n generalizing s line with
  | zero =>
    unfold movedLine
    split
    · exact countHostAccess_wf _ (fun _ _ h => h) _ _ h
    · exact h
  | succ n ih =>
    unfold movedLine
    split
    · refine countHostAccess_wf _ (fun s ps h => ?_) _ _ h
      generalize linesOf ps = ls
      induction ls generalizing s with
      | nil => exact h
      | cons p ls ihl => exact ihl _ (l2Reach_wf _ (fun s p => ih s p) _ _ _ _ h)
    · exact h

theorem l2Access_wf (s : State) (p : Nat) (cls : L2Class) (use : L2Use) (h : s.mem.wf = true) :
    (l2Access s p cls use).mem.wf = true := l2Reach_wf _ (movedLine_wf 2) _ _ _ _ h

/-- Touching lines of the L2 keeps memory canonical. -/
theorem l2Touch_wf (s : State) (ps : List Nat) (cls : L2Class) (use : L2Use) (h : s.mem.wf = true) :
    (l2Touch s ps cls use).mem.wf = true := by
  unfold l2Touch
  generalize linesOf ps = ls
  induction ls generalizing s with
  | nil => exact h
  | cons p ls ih => exact ih _ (l2Access_wf s p cls use h)

/-! ### Stores and reads -/

@[simp] theorem seeStore_mem (y : PendingStore) (s : State) : (seeStore y s).mem = s.mem := by
  unfold seeStore; split <;> rfl

@[simp] theorem markRelease_mem (y : PendingStore) (s : State) : (markRelease y s).mem = s.mem := by
  unfold markRelease
  split
  · split <;> rfl
  · rfl

theorem writeStore_wf (s : State) (y : PendingStore) (h : s.mem.wf = true) : (writeStore s y).mem.wf = true := by
  unfold writeStore
  refine l2Touch_wf _ _ _ _ ?_
  exact landBits_wf { s with pending := s.pending.filter fun x => x.serial != y.serial } .device {} y.ws h

/-- A write of a command, performed, keeps memory canonical. -/
theorem landUnit_wf (s : State) (y : PendingStore) (h : s.mem.wf = true) : (landUnit s y).mem.wf = true := by
  unfold landUnit
  split
  · exact h
  · rename_i c _
    have ht : ∀ who how, (l2Touch (landBits { s with pending := s.pending.filter fun x => x.serial != y.serial } who how y.ws)
        y.places c.cls .write).mem.wf = true := fun _ _ => l2Touch_wf _ _ _ _ (landBits_wf _ _ _ _ h)
    dsimp only
    rw [apply_ite State.mem, ite_self]
    exact ht _ _

/-- Performing the writes of commands keeps memory canonical. -/
theorem performUnits_wf (f : PendingStore → Bool) (s : State) (h : s.mem.wf = true) : (performUnits f s).mem.wf = true := by
  unfold performUnits
  dsimp only
  generalize List.filter _ _ = us
  induction us generalizing s with
  | nil => exact h
  | cons y us ih => exact ih _ (landUnit_wf s y h)

theorem performStore_wf (s : State) (y : PendingStore) (h : s.mem.wf = true) : (performStore s y).mem.wf = true := by
  unfold performStore
  split
  · exact performUnits_wf _ _ h
  · rw [markRelease_mem, seeStore_mem]
    exact writeStore_wf _ _ (performUnits_wf _ _ h)

/-- Performing the stores that can be keeps memory canonical. -/
theorem performList_wf (l : List PendingStore) (s : State) (h : s.mem.wf = true) :
    (l.foldl (fun t x => if storeReady t x then performStore t x else t) s).mem.wf = true := by
  induction l generalizing s with
  | nil => exact h
  | cons x l ih =>
    rw [List.foldl_cons]
    refine ih _ ?_
    split
    · exact performStore_wf _ _ h
    · exact h

theorem performAll_wf (s : State) (h : s.mem.wf = true) : (performAll s).mem.wf = true := performList_wf _ _ h

theorem performThrough_wf (s : State) (n k : Nat) (h : s.mem.wf = true) : (performThrough s n k).mem.wf = true :=
  performList_wf _ _ h

/-- The package an operation leaves, whether or not it stops. -/
def leaves {α : Type} (r : EStateM.Result Stop State α) : State :=
  match r with
  | .ok _ s => s
  | .error _ s => s

@[simp] theorem sawOwned_mem (ps : List Nat) (s : State) : (sawOwned ps s).mem = s.mem := by
  unfold sawOwned; split <;> rfl

/-- An access goes on, or waits for a line or for memory; nothing but what the thread has waited for is noted. -/
theorem awaitOwned_state (ps : List Nat) (s : State) : awaitOwned ps s = .ok () s ∨
    awaitOwned ps s = .error (.wait false) s ∨ awaitOwned ps s = .error (.wait false) (sawOwned ps s) := by
  unfold awaitOwned
  split
  · exact .inr (.inr rfl)
  · split
    · exact .inr (.inl rfl)
    · exact .inl rfl

theorem forceStores_wf (f : PendingStore → Bool) (s : State) (h : s.mem.wf = true) : (leaves (forceStores f s)).mem.wf = true := by
  unfold forceStores
  dsimp only
  split
  · exact h
  · split
    · exact h
    · exact performThrough_wf _ _ _ h

/-- One operation after another keeps memory canonical if each does. -/
theorem bind_wf {α β : Type} (x : Op α) (f : α → Op β) (s : State) (hx : (leaves (x s)).mem.wf = true)
    (hf : ∀ a t, t.mem.wf = true → (leaves (f a t)).mem.wf = true) : (leaves ((x >>= f) s)).mem.wf = true := by
  show (leaves (EStateM.bind x f s)).mem.wf = true
  unfold EStateM.bind
  revert hx
  cases x s with
  | ok a t => exact hf a t
  | error e t => exact id

theorem endAwait_wf (ps : List Nat) (s : State) (h : s.mem.wf = true) : (endAwait ps s).mem.wf = true := by
  unfold endAwait
  dsimp only
  split
  · exact h
  · exact performUnits_wf _ _ h

theorem awaitPlaces_wf (ps : List Nat) (s : State) (h : s.mem.wf = true) : (leaves (awaitPlaces ps s)).mem.wf = true := by
  unfold awaitPlaces
  rcases awaitOwned_state ps s with e | e | e <;> rw [e]
  · exact performUnits_wf _ _ (endAwait_wf _ _ h)
  · exact h
  · show Memory.wf (sawOwned ps s).mem = true
    rw [sawOwned_mem]; exact h

theorem awaitLines_wf (ps : List Nat) (s : State) (h : s.mem.wf = true) : (leaves (awaitLines ps s)).mem.wf = true := by
  unfold awaitLines
  rcases awaitOwned_state ps s with e | e | e <;> rw [e]
  · exact performUnits_wf _ _ (endAwait_wf _ _ h)
  · exact h
  · show Memory.wf (sawOwned ps s).mem = true
    rw [sawOwned_mem]; exact h

theorem checkWords_wf (ps : List Nat) (va : Word) (fi : Nat) (s : State) (h : s.mem.wf = true) :
    (leaves (checkWords ps va fi s)).mem.wf = true := by
  unfold checkWords
  dsimp only
  split <;> (show Memory.wf (countRead s ps).mem = true; rw [countRead_mem]; exact h)

/-- A read at the home of its places keeps memory canonical, however it is noted. -/
theorem readAt_wf (note : List Nat → State → State) (hn : ∀ ps s, (note ps s).mem = s.mem) (ps : List Nat) (va : Word) (fi : Nat)
    (s : State) (h : s.mem.wf = true) : (leaves (readAt note ps va fi s)).mem.wf = true :=
  bind_wf _ _ _ (awaitPlaces_wf _ _ h) fun _ _ h => bind_wf _ _ _ (forceStores_wf _ _ h) fun _ _ h =>
    bind_wf _ _ _ (checkWords_wf _ _ _ _ h) fun _ t h => by
      show Memory.wf (note ps (l2Touch t ps .normal .read)).mem = true
      rw [hn]; exact l2Touch_wf _ _ _ _ h

@[simp] theorem noteHome_mem (ps : List Nat) (s : State) : (noteHome ps s).mem = s.mem := by
  unfold noteHome; split <;> rfl

theorem readBytes_wf (ps : List Nat) (va : Word) (fi : Nat) (s : State) (h : s.mem.wf = true) :
    (leaves (readBytes ps va fi s)).mem.wf = true := readAt_wf _ noteHome_mem _ _ _ _ h

theorem writeBytes_wf (ps : List Nat) (bs : List Byte) (s : State) (h : s.mem.wf = true) :
    (leaves (writeBytes ps bs s)).mem.wf = true :=
  bind_wf _ _ _ (awaitPlaces_wf _ _ h) fun _ _ h => bind_wf _ _ _ (forceStores_wf _ _ h) fun _ _ h =>
    l2Touch_wf _ _ _ _ (writePlaces_wf _ _ _ h)

theorem zeroRange_wf (s : State) (p n : Nat) (h : s.mem.wf = true) : (zeroRange s p n).mem.wf = true := smWf_filter _ h

/-- Counting in GERR leaves memory. -/
theorem gerrCount_mem (s : State) : (gerrCount s).mem = s.mem := rfl

/-- A translation keeps memory canonical. -/
theorem translateVa_wf (s : State) (core : Nat) (asp : BitVec 16) (va : Nat) (acc : Access) (tm : Bool) (draw : Nat)
    (h : s.mem.wf = true) : (translateVa s core asp va acc tm draw).2.mem.wf = true := by
  have hl : (lookupVa s core asp va draw).2.mem.wf = true := by
    unfold lookupVa
    dsimp only
    repeat' split
    all_goals first
      | exact h
      | (refine l2Touch_wf _ _ _ _ ?_; simp only [countCorr_mem]; exact h)
  unfold translateVa
  dsimp only
  repeat' split
  all_goals exact hl

/-- The state after reset has canonical memory. -/
theorem reset_mem_wf : State.reset.mem.wf = true := rfl

end Sys2Proof.Machine
end

