-- ==== Sys2Proof/Laws/PerInstr.lean ====
section
/-! SUPPORT. Laws proved constructor by constructor: an instruction has a word unless it is an event. -/
namespace Sys2Proof.Laws.HasWord

/-- The encoder gives words to every instruction but the events of the device. -/
def Statement (i : Sys2Proof.Instr) : Prop := (Sys2Proof.encode i).isSome = !i.isEvent

theorem add : ∀ x0 x1 x2, Statement (.add x0 x1 x2) := fun _ _ _ => rfl
theorem sub : ∀ x0 x1 x2, Statement (.sub x0 x1 x2) := fun _ _ _ => rfl
theorem and : ∀ x0 x1 x2, Statement (.and x0 x1 x2) := fun _ _ _ => rfl
theorem or : ∀ x0 x1 x2, Statement (.or x0 x1 x2) := fun _ _ _ => rfl
theorem xor : ∀ x0 x1 x2, Statement (.xor x0 x1 x2) := fun _ _ _ => rfl
theorem andn : ∀ x0 x1 x2, Statement (.andn x0 x1 x2) := fun _ _ _ => rfl
theorem sll : ∀ x0 x1 x2, Statement (.sll x0 x1 x2) := fun _ _ _ => rfl
theorem srl : ∀ x0 x1 x2, Statement (.srl x0 x1 x2) := fun _ _ _ => rfl
theorem sra : ∀ x0 x1 x2, Statement (.sra x0 x1 x2) := fun _ _ _ => rfl
theorem slt : ∀ x0 x1 x2, Statement (.slt x0 x1 x2) := fun _ _ _ => rfl
theorem sltu : ∀ x0 x1 x2, Statement (.sltu x0 x1 x2) := fun _ _ _ => rfl
theorem min : ∀ x0 x1 x2, Statement (.min x0 x1 x2) := fun _ _ _ => rfl
theorem max : ∀ x0 x1 x2, Statement (.max x0 x1 x2) := fun _ _ _ => rfl
theorem minu : ∀ x0 x1 x2, Statement (.minu x0 x1 x2) := fun _ _ _ => rfl
theorem maxu : ∀ x0 x1 x2, Statement (.maxu x0 x1 x2) := fun _ _ _ => rfl
theorem mul : ∀ x0 x1 x2, Statement (.mul x0 x1 x2) := fun _ _ _ => rfl
theorem mulh : ∀ x0 x1 x2, Statement (.mulh x0 x1 x2) := fun _ _ _ => rfl
theorem mulhu : ∀ x0 x1 x2, Statement (.mulhu x0 x1 x2) := fun _ _ _ => rfl
theorem div : ∀ x0 x1 x2, Statement (.div x0 x1 x2) := fun _ _ _ => rfl
theorem divu : ∀ x0 x1 x2, Statement (.divu x0 x1 x2) := fun _ _ _ => rfl
theorem rem : ∀ x0 x1 x2, Statement (.rem x0 x1 x2) := fun _ _ _ => rfl
theorem remu : ∀ x0 x1 x2, Statement (.remu x0 x1 x2) := fun _ _ _ => rfl
theorem clz : ∀ x0 x1, Statement (.clz x0 x1) := fun _ _ => rfl
theorem ctz : ∀ x0 x1, Statement (.ctz x0 x1) := fun _ _ => rfl
theorem cpop : ∀ x0 x1, Statement (.cpop x0 x1) := fun _ _ => rfl
theorem addi : ∀ x0 x1 x2, Statement (.addi x0 x1 x2) := fun _ _ _ => rfl
theorem andi : ∀ x0 x1 x2, Statement (.andi x0 x1 x2) := fun _ _ _ => rfl
theorem ori : ∀ x0 x1 x2, Statement (.ori x0 x1 x2) := fun _ _ _ => rfl
theorem xori : ∀ x0 x1 x2, Statement (.xori x0 x1 x2) := fun _ _ _ => rfl
theorem slli : ∀ x0 x1 x2, Statement (.slli x0 x1 x2) := fun _ _ _ => rfl
theorem srli : ∀ x0 x1 x2, Statement (.srli x0 x1 x2) := fun _ _ _ => rfl
theorem srai : ∀ x0 x1 x2, Statement (.srai x0 x1 x2) := fun _ _ _ => rfl
theorem slti : ∀ x0 x1 x2, Statement (.slti x0 x1 x2) := fun _ _ _ => rfl
theorem sltiu : ∀ x0 x1 x2, Statement (.sltiu x0 x1 x2) := fun _ _ _ => rfl
theorem ldih : ∀ x0 x1, Statement (.ldih x0 x1) := fun _ _ => rfl
theorem addpc : ∀ x0 x1, Statement (.addpc x0 x1) := fun _ _ => rfl
theorem beq : ∀ x0 x1 x2, Statement (.beq x0 x1 x2) := fun _ _ _ => rfl
theorem bne : ∀ x0 x1 x2, Statement (.bne x0 x1 x2) := fun _ _ _ => rfl
theorem blt : ∀ x0 x1 x2, Statement (.blt x0 x1 x2) := fun _ _ _ => rfl
theorem bge : ∀ x0 x1 x2, Statement (.bge x0 x1 x2) := fun _ _ _ => rfl
theorem bltu : ∀ x0 x1 x2, Statement (.bltu x0 x1 x2) := fun _ _ _ => rfl
theorem bgeu : ∀ x0 x1 x2, Statement (.bgeu x0 x1 x2) := fun _ _ _ => rfl
theorem j : ∀ x0, Statement (.j x0) := fun _ => rfl
theorem jtab : ∀ x0 x1, Statement (.jtab x0 x1) := fun _ _ => rfl
theorem lb : ∀ x0 x1 x2, Statement (.lb x0 x1 x2) := fun _ _ _ => rfl
theorem lbu : ∀ x0 x1 x2, Statement (.lbu x0 x1 x2) := fun _ _ _ => rfl
theorem lh : ∀ x0 x1 x2, Statement (.lh x0 x1 x2) := fun _ _ _ => rfl
theorem lhu : ∀ x0 x1 x2, Statement (.lhu x0 x1 x2) := fun _ _ _ => rfl
theorem lw : ∀ x0 x1 x2, Statement (.lw x0 x1 x2) := fun _ _ _ => rfl
theorem lwu : ∀ x0 x1 x2, Statement (.lwu x0 x1 x2) := fun _ _ _ => rfl
theorem ld : ∀ x0 x1 x2, Statement (.ld x0 x1 x2) := fun _ _ _ => rfl
theorem ldaq : ∀ x0 x1 x2, Statement (.ldaq x0 x1 x2) := fun _ _ _ => rfl
theorem sb : ∀ x0 x1 x2, Statement (.sb x0 x1 x2) := fun _ _ _ => rfl
theorem sh : ∀ x0 x1 x2, Statement (.sh x0 x1 x2) := fun _ _ _ => rfl
theorem sw : ∀ x0 x1 x2, Statement (.sw x0 x1 x2) := fun _ _ _ => rfl
theorem sd : ∀ x0 x1 x2, Statement (.sd x0 x1 x2) := fun _ _ _ => rfl
theorem sdrl : ∀ x0 x1 x2, Statement (.sdrl x0 x1 x2) := fun _ _ _ => rfl
theorem amoadd : ∀ x0 x1 x2 x3 x4, Statement (.amoadd x0 x1 x2 x3 x4) := fun _ _ _ _ _ => rfl
theorem amoswap : ∀ x0 x1 x2 x3 x4, Statement (.amoswap x0 x1 x2 x3 x4) := fun _ _ _ _ _ => rfl
theorem amoand : ∀ x0 x1 x2 x3 x4, Statement (.amoand x0 x1 x2 x3 x4) := fun _ _ _ _ _ => rfl
theorem amoor : ∀ x0 x1 x2 x3 x4, Statement (.amoor x0 x1 x2 x3 x4) := fun _ _ _ _ _ => rfl
theorem amoxor : ∀ x0 x1 x2 x3 x4, Statement (.amoxor x0 x1 x2 x3 x4) := fun _ _ _ _ _ => rfl
theorem amomax : ∀ x0 x1 x2 x3 x4, Statement (.amomax x0 x1 x2 x3 x4) := fun _ _ _ _ _ => rfl
theorem amomin : ∀ x0 x1 x2 x3 x4, Statement (.amomin x0 x1 x2 x3 x4) := fun _ _ _ _ _ => rfl
theorem amomaxu : ∀ x0 x1 x2 x3 x4, Statement (.amomaxu x0 x1 x2 x3 x4) := fun _ _ _ _ _ => rfl
theorem amominu : ∀ x0 x1 x2 x3 x4, Statement (.amominu x0 x1 x2 x3 x4) := fun _ _ _ _ _ => rfl
theorem cas : ∀ x0 x1 x2 x3 x4, Statement (.cas x0 x1 x2 x3 x4) := fun _ _ _ _ _ => rfl
theorem fence : ∀ x0 x1 x2, Statement (.fence x0 x1 x2) := fun _ _ _ => rfl
theorem barComplete : ∀ x0, Statement (.barComplete x0) := fun _ => rfl
theorem waitc : ∀ x0 x1 x2, Statement (.waitc x0 x1 x2) := fun _ _ _ => rfl
theorem waitv : ∀ x0 x1, Statement (.waitv x0 x1) := fun _ _ => rfl
theorem waitq : ∀ x0 x1 x2, Statement (.waitq x0 x1 x2) := fun _ _ _ => rfl
theorem waitReturn : ∀ x0, Statement (.waitReturn x0) := fun _ => rfl
theorem waitTimeout : ∀ x0, Statement (.waitTimeout x0) := fun _ => rfl
theorem spawn : ∀ x0 x1 x2, Statement (.spawn x0 x1 x2) := fun _ _ _ => rfl
theorem csrr : ∀ x0 x1, Statement (.csrr x0 x1) := fun _ _ => rfl
theorem csrw : ∀ x0 x1 x2, Statement (.csrw x0 x1 x2) := fun _ _ _ => rfl
theorem csrs : ∀ x0 x1 x2, Statement (.csrs x0 x1 x2) := fun _ _ _ => rfl
theorem csrc : ∀ x0 x1 x2, Statement (.csrc x0 x1 x2) := fun _ _ _ => rfl
theorem trap : ∀ x0, Statement (.trap x0) := fun _ => rfl
theorem brk : ∀ x0, Statement (.brk x0) := fun _ => rfl
theorem convoy : ∀ x0 x1, Statement (.convoy x0 x1) := fun _ _ => rfl
theorem setvl : ∀ x0, Statement (.setvl x0) := fun _ => rfl
theorem setvlGrant : ∀ x0, Statement (.setvlGrant x0) := fun _ => rfl
theorem setvt : ∀ x0, Statement (.setvt x0) := fun _ => rfl
theorem vadd : ∀ x0, Statement (.vadd x0) := fun _ => rfl
theorem vsub : ∀ x0, Statement (.vsub x0) := fun _ => rfl
theorem vsadd : ∀ x0, Statement (.vsadd x0) := fun _ => rfl
theorem vssub : ∀ x0, Statement (.vssub x0) := fun _ => rfl
theorem vmin : ∀ x0, Statement (.vmin x0) := fun _ => rfl
theorem vmax : ∀ x0, Statement (.vmax x0) := fun _ => rfl
theorem vand : ∀ x0, Statement (.vand x0) := fun _ => rfl
theorem vor : ∀ x0, Statement (.vor x0) := fun _ => rfl
theorem vxor : ∀ x0, Statement (.vxor x0) := fun _ => rfl
theorem vandn : ∀ x0, Statement (.vandn x0) := fun _ => rfl
theorem vsll : ∀ x0, Statement (.vsll x0) := fun _ => rfl
theorem vsrl : ∀ x0, Statement (.vsrl x0) := fun _ => rfl
theorem vsra : ∀ x0, Statement (.vsra x0) := fun _ => rfl
theorem vshrr : ∀ x0, Statement (.vshrr x0) := fun _ => rfl
theorem vmul : ∀ x0, Statement (.vmul x0) := fun _ => rfl
theorem vmulh : ∀ x0, Statement (.vmulh x0) := fun _ => rfl
theorem vmacc : ∀ x0, Statement (.vmacc x0) := fun _ => rfl
theorem vabs : ∀ x0, Statement (.vabs x0) := fun _ => rfl
theorem vneg : ∀ x0, Statement (.vneg x0) := fun _ => rfl
theorem vclz : ∀ x0, Statement (.vclz x0) := fun _ => rfl
theorem vcpop : ∀ x0, Statement (.vcpop x0) := fun _ => rfl
theorem vcmp : ∀ x0, Statement (.vcmp x0) := fun _ => rfl
theorem vmerge : ∀ x0, Statement (.vmerge x0) := fun _ => rfl
theorem vmv : ∀ x0, Statement (.vmv x0) := fun _ => rfl
theorem vmvs : ∀ x0, Statement (.vmvs x0) := fun _ => rfl
theorem vslup : ∀ x0, Statement (.vslup x0) := fun _ => rfl
theorem vsldn : ∀ x0, Statement (.vsldn x0) := fun _ => rfl
theorem vperm : ∀ x0, Statement (.vperm x0) := fun _ => rfl
theorem vcompr : ∀ x0, Statement (.vcompr x0) := fun _ => rfl
theorem vexpnd : ∀ x0, Statement (.vexpnd x0) := fun _ => rfl
theorem vbfx : ∀ x0, Statement (.vbfx x0) := fun _ => rfl
theorem vbfi : ∀ x0, Statement (.vbfi x0) := fun _ => rfl
theorem vwid : ∀ x0, Statement (.vwid x0) := fun _ => rfl
theorem vnar : ∀ x0, Statement (.vnar x0) := fun _ => rfl
theorem vred : ∀ x0, Statement (.vred x0) := fun _ => rfl
theorem viota : ∀ x0, Statement (.viota x0) := fun _ => rfl
theorem kand : ∀ x0, Statement (.kand x0) := fun _ => rfl
theorem kor : ∀ x0, Statement (.kor x0) := fun _ => rfl
theorem kxor : ∀ x0, Statement (.kxor x0) := fun _ => rfl
theorem kandn : ∀ x0, Statement (.kandn x0) := fun _ => rfl
theorem knot : ∀ x0, Statement (.knot x0) := fun _ => rfl
theorem kwhile : ∀ x0, Statement (.kwhile x0) := fun _ => rfl
theorem kbefore : ∀ x0, Statement (.kbefore x0) := fun _ => rfl
theorem kincl : ∀ x0, Statement (.kincl x0) := fun _ => rfl
theorem kfirst : ∀ x0, Statement (.kfirst x0) := fun _ => rfl
theorem kpopc : ∀ x0, Statement (.kpopc x0) := fun _ => rfl
theorem klast : ∀ x0, Statement (.klast x0) := fun _ => rfl
theorem kmv : ∀ x0, Statement (.kmv x0) := fun _ => rfl
theorem vld : ∀ x0, Statement (.vld x0) := fun _ => rfl
theorem vlds : ∀ x0, Statement (.vlds x0) := fun _ => rfl
theorem vldx : ∀ x0, Statement (.vldx x0) := fun _ => rfl
theorem vldff : ∀ x0, Statement (.vldff x0) := fun _ => rfl
theorem vst : ∀ x0, Statement (.vst x0) := fun _ => rfl
theorem vsts : ∀ x0, Statement (.vsts x0) := fun _ => rfl
theorem vstx : ∀ x0, Statement (.vstx x0) := fun _ => rfl
theorem vldl : ∀ x0, Statement (.vldl x0) := fun _ => rfl
theorem vstl : ∀ x0, Statement (.vstl x0) := fun _ => rfl
theorem qld : ∀ x0, Statement (.qld x0) := fun _ => rfl
theorem qlds : ∀ x0, Statement (.qlds x0) := fun _ => rfl
theorem qgath : ∀ x0, Statement (.qgath x0) := fun _ => rfl
theorem qclr : ∀ x0, Statement (.qclr x0) := fun _ => rfl
theorem queueFillArrival : ∀ x0 x1, Statement (.queueFillArrival x0 x1) := fun _ _ => rfl
theorem vamoadd : ∀ x0, Statement (.vamoadd x0) := fun _ => rfl
theorem vamomax : ∀ x0, Statement (.vamomax x0) := fun _ => rfl
theorem vamomin : ∀ x0, Statement (.vamomin x0) := fun _ => rfl
theorem vamoxchg : ∀ x0, Statement (.vamoxchg x0) := fun _ => rfl
theorem vcapp : ∀ x0, Statement (.vcapp x0) := fun _ => rfl
theorem vcappRoom : ∀ x0, Statement (.vcappRoom x0) := fun _ => rfl
theorem vconfl : ∀ x0, Statement (.vconfl x0) := fun _ => rfl
theorem lsync : ∀ x0, Statement (.lsync x0) := fun _ => rfl
theorem vpref : ∀ x0, Statement (.vpref x0) := fun _ => rfl
theorem vcvt : ∀ x0 x1, Statement (.vcvt x0 x1) := fun _ _ => rfl
theorem vqnt : ∀ x0, Statement (.vqnt x0) := fun _ => rfl
theorem vqntAmax : ∀ x0, Statement (.vqntAmax x0) := fun _ => rfl
theorem vdqnt : ∀ x0, Statement (.vdqnt x0) := fun _ => rfl
theorem vsclMxin : ∀ x0, Statement (.vsclMxin x0) := fun _ => rfl
theorem vsclMxout : ∀ x0, Statement (.vsclMxout x0) := fun _ => rfl
theorem vsclAdde : ∀ x0, Statement (.vsclAdde x0) := fun _ => rfl
theorem vsclMxe4m3 : ∀ x0, Statement (.vsclMxe4m3 x0) := fun _ => rfl
theorem vsclMxe5m2 : ∀ x0, Statement (.vsclMxe5m2 x0) := fun _ => rfl
theorem vhad : ∀ x0, Statement (.vhad x0) := fun _ => rfl
theorem vlmul : ∀ x0, Statement (.vlmul x0) := fun _ => rfl
theorem vldiv : ∀ x0, Statement (.vldiv x0) := fun _ => rfl
theorem vladd : ∀ x0, Statement (.vladd x0) := fun _ => rfl
theorem vlsub : ∀ x0, Statement (.vlsub x0) := fun _ => rfl
theorem vlexp : ∀ x0, Statement (.vlexp x0) := fun _ => rfl
theorem vllog : ∀ x0, Statement (.vllog x0) := fun _ => rfl
theorem vlcmp : ∀ x0, Statement (.vlcmp x0) := fun _ => rfl
theorem vtlu : ∀ x0, Statement (.vtlu x0) := fun _ => rfl
theorem vtld : ∀ x0, Statement (.vtld x0) := fun _ => rfl
theorem vrand : ∀ x0, Statement (.vrand x0) := fun _ => rfl
theorem seed : ∀ x0, Statement (.seed x0) := fun _ => rfl
theorem vamax : ∀ x0, Statement (.vamax x0) := fun _ => rfl
theorem blease : ∀ x0, Statement (.blease x0) := fun _ => rfl
theorem brels : ∀ x0, Statement (.brels x0) := fun _ => rfl
theorem bstat : ∀ x0, Statement (.bstat x0) := fun _ => rfl
theorem cbld : ∀ x0, Statement (.cbld x0) := fun _ => rfl
theorem tload : ∀ x0, Statement (.tload x0) := fun _ => rfl
theorem tstore : ∀ x0, Statement (.tstore x0) := fun _ => rfl
theorem tbuild : ∀ x0, Statement (.tbuild x0) := fun _ => rfl
theorem tquery : ∀ x0, Statement (.tquery x0) := fun _ => rfl
theorem luacc : ∀ x0, Statement (.luacc x0) := fun _ => rfl
theorem luaccKv : ∀ x0, Statement (.luaccKv x0) := fun _ => rfl
theorem uadd : ∀ x0, Statement (.uadd x0) := fun _ => rfl
theorem usub : ∀ x0, Statement (.usub x0) := fun _ => rfl
theorem umax : ∀ x0, Statement (.umax x0) := fun _ => rfl
theorem umin : ∀ x0, Statement (.umin x0) := fun _ => rfl
theorem ushl : ∀ x0, Statement (.ushl x0) := fun _ => rfl
theorem ushr : ∀ x0, Statement (.ushr x0) := fun _ => rfl
theorem umov : ∀ x0, Statement (.umov x0) := fun _ => rfl
theorem uclr : ∀ x0, Statement (.uclr x0) := fun _ => rfl
theorem usat : ∀ x0, Statement (.usat x0) := fun _ => rfl
theorem ucvt : ∀ x0, Statement (.ucvt x0) := fun _ => rfl
theorem bred : ∀ x0, Statement (.bred x0) := fun _ => rfl
theorem vtou : ∀ x0, Statement (.vtou x0) := fun _ => rfl
theorem utov : ∀ x0, Statement (.utov x0) := fun _ => rfl
theorem xcopy : ∀ x0, Statement (.xcopy x0) := fun _ => rfl
theorem xcopym : ∀ x0, Statement (.xcopym x0) := fun _ => rfl
theorem xfill : ∀ x0, Statement (.xfill x0) := fun _ => rfl
theorem xstrm : ∀ x0, Statement (.xstrm x0) := fun _ => rfl
theorem xsclose : ∀ x0, Statement (.xsclose x0) := fun _ => rfl
theorem xstorRead : ∀ x0, Statement (.xstorRead x0) := fun _ => rfl
theorem xstorWrite : ∀ x0, Statement (.xstorWrite x0) := fun _ => rfl
theorem xstorFlush : ∀ x0, Statement (.xstorFlush x0) := fun _ => rfl
theorem xcoll : ∀ x0, Statement (.xcoll x0) := fun _ => rfl
theorem xcancel : ∀ x0, Statement (.xcancel x0) := fun _ => rfl
theorem engineAccept : ∀ x0, Statement (.engineAccept x0) := fun _ => rfl
theorem commandCompletion : ∀ x0, Statement (.commandCompletion x0) := fun _ => rfl
theorem streamBlock : ∀ x0, Statement (.streamBlock x0) := fun _ => rfl
theorem collectiveMatch : ∀ x0, Statement (.collectiveMatch x0) := fun _ => rfl
theorem kbindBind : ∀ x0, Statement (.kbindBind x0) := fun _ => rfl
theorem kbindUnbind : ∀ x0, Statement (.kbindUnbind x0) := fun _ => rfl
theorem kbindRebind : ∀ x0, Statement (.kbindRebind x0) := fun _ => rfl
theorem kcheck : ∀ x0, Statement (.kcheck x0) := fun _ => rfl
theorem kvWaitRelease : ∀ x0, Statement (.kvWaitRelease x0) := fun _ => rfl
theorem ksplice : ∀ x0, Statement (.ksplice x0) := fun _ => rfl
theorem spliceExecute : ∀ x0, Statement (.spliceExecute x0) := fun _ => rfl
theorem kprobe : ∀ x0, Statement (.kprobe x0) := fun _ => rfl
theorem krepair : ∀ x0, Statement (.krepair x0) := fun _ => rfl
theorem fidPlanStart : ∀ x0, Statement (.fidPlanStart x0) := fun _ => rfl
theorem fidMark : ∀ x0, Statement (.fidMark x0) := fun _ => rfl
theorem fidTaskSubmit : ∀ x0, Statement (.fidTaskSubmit x0) := fun _ => rfl
theorem fidSeal : ∀ x0, Statement (.fidSeal x0) := fun _ => rfl
theorem fidAbandon : ∀ x0, Statement (.fidAbandon x0) := fun _ => rfl
theorem kcommit : ∀ x0, Statement (.kcommit x0) := fun _ => rfl
theorem kstateRead : ∀ x0, Statement (.kstateRead x0) := fun _ => rfl
theorem kstateLoc : ∀ x0, Statement (.kstateLoc x0) := fun _ => rfl
theorem kstateFill : ∀ x0, Statement (.kstateFill x0) := fun _ => rfl
theorem kstateClean : ∀ x0, Statement (.kstateClean x0) := fun _ => rfl
theorem kstateReopen : ∀ x0, Statement (.kstateReopen x0) := fun _ => rfl
theorem krels : ∀ x0, Statement (.krels x0) := fun _ => rfl
theorem faultServiceRecord : ∀ x0, Statement (.faultServiceRecord x0) := fun _ => rfl
theorem watchdogExpiry : ∀ x0, Statement (.watchdogExpiry x0) := fun _ => rfl
theorem dispatchRound : ∀ x0, Statement (.dispatchRound x0) := fun _ => rfl
theorem successorSubmit : ∀ x0, Statement (.successorSubmit x0) := fun _ => rfl
theorem tabort : ∀ x0, Statement (.tabort x0) := fun _ => rfl
theorem vwait : Statement .vwait := rfl
theorem bar : Statement .bar := rfl
theorem nop : Statement .nop := rfl
theorem yield_ : Statement .yield_ := rfl
theorem halt : Statement .halt := rfl
theorem tret : Statement .tret := rfl
theorem mcfgLock : Statement .mcfgLock := rfl
theorem memInitDone : Statement .memInitDone := rfl
theorem merrClear : Statement .merrClear := rfl
theorem leaseHoldExpiry : Statement .leaseHoldExpiry := rfl
theorem gerrClear : Statement .gerrClear := rfl
theorem tlbinvComplete : Statement .tlbinvComplete := rfl
theorem icinvGo : Statement .icinvGo := rfl
theorem mbSeal : Statement .mbSeal := rfl
theorem mbVerify : Statement .mbVerify := rfl
theorem mbAttest : Statement .mbAttest := rfl
theorem mbFwupdate : Statement .mbFwupdate := rfl
theorem mbRekey : Statement .mbRekey := rfl
theorem mbCompletion : Statement .mbCompletion := rfl
theorem ucieLinkFailure : Statement .ucieLinkFailure := rfl
theorem perst : Statement .perst := rfl
theorem flr : Statement .flr := rfl
theorem shutdownTemperature : Statement .shutdownTemperature := rfl
theorem driveCompletion : ∀ x0 x1 x2 x3, Statement (.driveCompletion x0 x1 x2 x3) := fun _ _ _ _ => rfl
theorem driveTimeout : ∀ x0, Statement (.driveTimeout x0) := fun _ => rfl
theorem pcBoundary : ∀ x0, Statement (.pcBoundary x0) := fun _ => rfl
theorem refreshInterval : ∀ x0, Statement (.refreshInterval x0) := fun _ => rfl
theorem patrolScrub : ∀ x0 x1, Statement (.patrolScrub x0 x1) := fun _ _ => rfl
theorem pgraceExpiry : ∀ x0, Statement (.pgraceExpiry x0) := fun _ => rfl
theorem lgraceExpiry : ∀ x0, Statement (.lgraceExpiry x0) := fun _ => rfl
theorem lrevoke : ∀ x0, Statement (.lrevoke x0) := fun _ => rfl
theorem qdoor : ∀ x0, Statement (.qdoor x0) := fun _ => rfl
theorem preqset : ∀ x0, Statement (.preqset x0) := fun _ => rfl
theorem tlbinvWrite : ∀ x0, Statement (.tlbinvWrite x0) := fun _ => rfl
theorem fsreplyRetry : ∀ x0, Statement (.fsreplyRetry x0) := fun _ => rfl
theorem fsreplyFault : ∀ x0, Statement (.fsreplyFault x0) := fun _ => rfl
theorem fsreplyExhausted : ∀ x0, Statement (.fsreplyExhausted x0) := fun _ => rfl
theorem lmodeWrite : ∀ x0 x1, Statement (.lmodeWrite x0 x1) := fun _ _ => rfl
theorem drvctlBind : ∀ x0 x1, Statement (.drvctlBind x0 x1) := fun _ _ => rfl
theorem drvctlUnbind : ∀ x0 x1, Statement (.drvctlUnbind x0 x1) := fun _ _ => rfl
theorem mbBadCommand : ∀ x0, Statement (.mbBadCommand x0) := fun _ => rfl
theorem hostRegWrite : ∀ x0 x1, Statement (.hostRegWrite x0 x1) := fun _ _ => rfl
theorem hostWrite : ∀ x0 x1, Statement (.hostWrite x0 x1) := fun _ _ => rfl
theorem hostRead : ∀ x0 x1 x2, Statement (.hostRead x0 x1 x2) := fun _ _ _ => rfl
theorem hostMemoryWrite : ∀ x0 x1, Statement (.hostMemoryWrite x0 x1) := fun _ _ => rfl
theorem peerDataArrival : ∀ x0 x1 x2, Statement (.peerDataArrival x0 x1 x2) := fun _ _ _ => rfl
theorem stackHot : ∀ x0, Statement (.stackHot x0) := fun _ => rfl
theorem thermalThrottle : ∀ x0, Statement (.thermalThrottle x0) := fun _ => rfl
theorem stackCool : ∀ x0, Statement (.stackCool x0) := fun _ => rfl
theorem driveLinkTrained : ∀ x0, Statement (.driveLinkTrained x0) := fun _ => rfl
theorem portTrained : ∀ x0, Statement (.portTrained x0) := fun _ => rfl
theorem peerUnreachable : ∀ x0, Statement (.peerUnreachable x0) := fun _ => rfl
theorem firmwareHdmaDisable : ∀ x0, Statement (.firmwareHdmaDisable x0) := fun _ => rfl

end Sys2Proof.Laws.HasWord
end

