-- ==== Sys2Proof/Safety.lean ====
section
/-! DEFINITION. What counts as a safe run: every step answers a next state. -/
namespace Sys2Proof

/-- A step goes on. -/
def Machine.stepsOn (s : Machine.State) : Prop := ∃ t, Machine.step s = .next t

/-- A run of `n` steps from a state meets neither a fault nor a refusal. -/
def Machine.safeRun : Nat → Machine.State → Prop
  | 0, _ => True
  | n + 1, s => ∃ t, Machine.step s = .next t ∧ Machine.safeRun n t

end Sys2Proof
end

