-- ==== Sys2Proof/Tests/Slice0.lean ====
section
/-! SUPPORT. Tests of the model: words of the spec's tables that decode as they should, ill-formed terms that the
checks refuse, single steps with results worked out from the spec, and for every statement a state that meets its
hypotheses. -/
set_option Elab.async false
namespace Sys2Proof.Tests
open Sys2Proof Sys2Proof.Machine Sys2Proof.Claims

/-! ### Helpers -/

/-- Memory as `withFetchWord` leaves it: the entry of address space 1, its tables, and the word of NOP. -/
def mem0 : Memory := [(0x1008, 1), (0x100A, 0x10), (0x100000, 1), (0x100002, 0x20), (0x200000, 0x3F), (0x200003, 0x40), (0x40000000, 0xBE)]

/-- The translation of the 2^30 bytes from virtual address 0, which core 0 holds. -/
def tlb0 : TlbEntry := { core := 0, aspace := 1, va := 0, size := 30, pte := 0x4000003F }

/-- A package that runs one task on thread 0: the 2^30 bytes from virtual address 0 are region 1. -/
def base : State := { State.reset.withFetchWord 32 0xBE with mem := mem0, tlb := [tlb0] }

theorem test_base_mem : (State.reset.withFetchWord 32 0xBE).mem = base.mem := by decide +kernel

/-- All fields of a 64-bit word 0. -/
def f0 : W64 := W64.unpack 0

def withRegs (s : State) (rs : List (Reg × Word)) : State := rs.foldl (fun s r => setR s r.1 r.2) s

def withTh (s : State) (g : Thread → Thread) : State := { s with th := g s.th }

/-- Bytes at an offset of region 1 that holds 0. -/
def withMem (s : State) (a : Nat) (bs : List Byte) : State :=
  { s with mem := ((placed ((List.range bs.length).map (2 ^ 30 + a + ·)) bs).filter fun x => x.2 != 0).foldl (fun m x => smSet m x.1 x.2) s.mem }

/-- The thread in trap mode, with TPC 0x40. -/
def trapped : State := withTh base fun t => { t with trap := { t.trap with mode := true, tpc := 0x40 } }

/-- Four elements of 16 bits on lane group 0. -/
def lanes4 : Lanes := { gmap := 1, vl := 4, sew := 16, v := [(16384, 5), (16385, 0x7FFF), (32768, 3), (32769, 1)], k := [(16384, true)] }

def vec : State := withTh base fun t => { t with lanes := lanes4 }

def isOk {ε α : Type} (r : EStateM.Result ε State α) : Bool :=
  match r with
  | .ok _ _ => true
  | .error _ _ => false

def valOf {ε α : Type} [Inhabited α] (r : EStateM.Result ε State α) : α :=
  match r with
  | .ok a _ => a
  | .error _ _ => default

def stateOf {ε α : Type} (r : EStateM.Result ε State α) : State :=
  match r with
  | .ok _ s => s
  | .error _ s => s

/-- The state that an answer goes on with. -/
def nextOf (a : Answer) : State :=
  match a with
  | .next s => s
  | _ => State.reset

theorem ok_of {ε α : Type} [Inhabited α] (r : EStateM.Result ε State α) (h : isOk r = true) : r = .ok (valOf r) (stateOf r) := by
  cases r with
  | ok a s => rfl
  | error e s => cases h

theorem some_of {α : Type} {o : Option α} (h : o.isSome = true) : o = some (o.get h) := by simp

theorem getD_of {α : Type} (o : Option α) (d : α) (h : o.isSome = true) : o = some (o.getD d) := by
  cases o with
  | some a => rfl
  | none => cases h

theorem all_of {α : Type} {o : Option α} {p : α → Bool} (h : o.all p = true) : ∀ k, o = some k → p k = true := by
  intro k hk
  subst hk
  exact h

theorem not_recording (s : State) (h : ((curTask s).all fun k => !recRecord k.launch) = true) : NotRecording s := by
  intro k hk
  have := all_of h k hk
  simpa using this

/-- What `VecReady` asks of an instruction without a queue source. -/
def readyB (i : Instr) (s : State) : Bool :=
  s.th.viq.isEmpty && !s.th.trap.mode && !s.stopped && (absentUnit s i).isNone && !isForward i && (queueOf i).isNone

theorem ready (i : Instr) (s : State) (h : readyB i s = true) : VecReady i s := by
  simp only [readyB, Bool.and_eq_true, List.isEmpty_iff, Bool.not_eq_true', Option.isNone_iff_eq_none] at h
  obtain ⟨⟨⟨⟨⟨h1, h2⟩, h3⟩, h4⟩, h5⟩, h6⟩ := h
  refine ⟨h1, h2, h3, h4, h5, ?_⟩
  simp [QueueReady, h6]

/-- What `NothingOpen` asks, for all places at once. -/
def quietB (s : State) : Bool := s.past.isEmpty && s.pending.isEmpty && s.th.q.toList.all fun q => q.all fun e => e.src.isEmpty

theorem nothing_open (s : State) (ps : List Nat) (h : quietB s = true) : NothingOpen s ps := by
  simp only [quietB, Bool.and_eq_true, List.isEmpty_iff] at h
  refine ⟨by simp [h.1.1], by simp [h.1.2], fun q hq e he x hx => ?_⟩
  have := List.all_eq_true.mp (List.all_eq_true.mp h.2 q hq) e he
  simp only [List.isEmpty_iff] at this
  simp [this] at hx

theorem no_stores (s : State) (h : s.pending = []) : NoOwnStores s := by simp [NoOwnStores, h]

theorem no_commands (s : State) (h : s.pending = []) : NoCommandWrites s := by simp [NoCommandWrites, h]

theorem units_none (f : PendingStore → Bool) (s : State) (h : s.pending = []) : performUnits f s = s := by simp [performUnits, h]

theorem no_marks (s : State) (ps : List Nat) (h : s.marks = []) : NoMarks s ps := by simp [NoMarks, h]

/-- What `Reaches` asks. -/
def reachesB (s : State) (va : Word) (n : Nat) (acc : Access) : Bool :=
  let r := resolve (curCtx s) va n n acc 0 s
  isOk r && decide (valOf r).Nodup && (firstUncorr (stateOf r) (valOf r)).isNone && !(valOf r).any (isOwned (stateOf r)) &&
    memReady (stateOf r) && ((curTask s).all fun k => !recRecord k.launch) && ctlGet s regAcrange == 0 && quietB s

/-- The places an aligned access of the thread finds, and the package after its translation. -/
def placesOf (s : State) (va : Word) (n : Nat) (acc : Access) : List Nat := valOf (resolve (curCtx s) va n n acc 0 s)

def afterOf (s : State) (va : Word) (n : Nat) (acc : Access) : State := stateOf (resolve (curCtx s) va n n acc 0 s)

theorem reaches (s : State) (va : Word) (n : Nat) (acc : Access) (h : reachesB s va n acc = true) :
    Reaches s (afterOf s va n acc) va n acc (placesOf s va n acc) := by
  simp only [reachesB, Bool.and_eq_true, decide_eq_true_eq, Option.isNone_iff_eq_none, beq_iff_eq, Bool.not_eq_true'] at h
  obtain ⟨⟨⟨⟨⟨⟨⟨h1, h2⟩, h3⟩, h4⟩, h5⟩, h6⟩, h7⟩, h8⟩ := h
  exact ⟨ok_of _ h1, h2, h3, h4, .inl h5, not_recording s h6, h7, nothing_open s _ h8⟩

theorem fills_read (s : State) (h : (s.th.q.toList.all fun q => q.all fun e => e.src.isEmpty) = true) : FillsRead s := by
  intro q hq e he
  have := List.all_eq_true.mp (List.all_eq_true.mp h q hq) e he
  simpa using this

/-- What `Open` asks. -/
def openB (s s1 : State) (ps : List Nat) : Bool :=
  (firstUncorr s1 ps).isNone && !ps.any (isOwned s1) && memReady s1 && ((curTask s).all fun k => !recRecord k.launch) &&
    ctlGet s regAcrange == 0 && decide (s.group = {}) && quietB s

theorem opened (s s1 : State) (ps : List Nat) (h : openB s s1 ps = true) : Open s s1 ps := by
  simp only [openB, Bool.and_eq_true, decide_eq_true_eq, Option.isNone_iff_eq_none, beq_iff_eq, Bool.not_eq_true'] at h
  obtain ⟨⟨⟨⟨⟨⟨h1, h2⟩, h3⟩, h4⟩, h5⟩, h6⟩, h7⟩ := h
  exact ⟨h1, h2, .inl h3, not_recording s h4, h5, h6, nothing_open s _ h7⟩

theorem no_pc (s : State) (h : s.cmds = []) : ∀ c ∈ s.cmds, s.th.task ≠ some c.task := by simp [h]

/-- What `NothingPending` asks. -/
def idleB (s : State) : Bool :=
  s.th.viq.isEmpty && (s.th.q.toList.all fun q => q.all fun e => e.src.isEmpty) && s.pending.isEmpty && s.cmds.isEmpty &&
    s.th.order.lastScalar.isNone && s.th.order.lastVector.isNone

theorem nothing_pending (s : State) (h : idleB s = true) : NothingPending s := by
  simp only [idleB, Bool.and_eq_true, List.isEmpty_iff, Option.isNone_iff_eq_none] at h
  obtain ⟨⟨⟨⟨⟨h1, h2⟩, h3⟩, h4⟩, h5⟩, h6⟩ := h
  exact ⟨h1, fills_read s h2, no_stores s h3, no_pc s h4, by simp [h3], by simp [h5], by simp [h6]⟩

theorem plain (s : State) (ps : List Nat) (h : ps.all (fun p => !isControlled s p) = true) : PlainPlaces s ps := by
  intro p hp
  have := List.all_eq_true.mp h p hp
  simpa using this

theorem sew_ok (s : State) (h : (decide (1 ≤ sewOf s) && decide (sewOf s ≤ 32)) = true) : SewOk s := by
  simpa [SewOk] using h

theorem can_trap (s : State) (h : (!s.th.trap.mode && decide (s.th.trap.tvec.toNat % 4 = 0) &&
    s.th.viq.head?.all fun e => e.reserved.isNone && e.runs.all fun r => !r.started) = true) : CanTrap s := by
  simp only [Bool.and_eq_true, Bool.not_eq_true', decide_eq_true_eq] at h
  refine ⟨h.1.1, h.1.2, fun e he hm => ?_⟩
  have := all_of h.2 e he
  simp only [Bool.and_eq_true, Option.isNone_iff_eq_none, List.all_eq_true, Bool.not_eq_true'] at this
  rcases hm with hm | ⟨r, hr, hs⟩
  · exact hm this.1
  · simp [this.2 r hr] at hs

theorem ok_is {ε α : Type} [DecidableEq α] (r : EStateM.Result ε State α) (a : α) (h : (match r with
    | .ok b _ => decide (b = a)
    | .error _ _ => false) = true) : r = .ok a (stateOf r) := by
  cases r with
  | ok b s => rw [of_decide_eq_true h]; rfl
  | error e s => cases h

def readOk {α : Type} (r : Except Nat α × State) : Bool :=
  match r.1 with
  | .ok _ => true
  | .error _ => false

def readVal {α : Type} [Inhabited α] (r : Except Nat α × State) : α :=
  match r.1 with
  | .ok a => a
  | .error _ => default

theorem read_ok {α : Type} [Inhabited α] (r : Except Nat α × State) (h : readOk r = true) : r = (.ok (readVal r), r.2) := by
  obtain ⟨a, s⟩ := r
  cases a with
  | ok a => rfl
  | error e => cases h

theorem wrote_ok (r : Option Nat × State) (h : r.1.isNone = true) : r = (none, r.2) := by
  obtain ⟨a, s⟩ := r
  cases a with
  | none => rfl
  | some e => cases h

theorem except_ok {ε α : Type} (r : Except ε α) (h : (match r with
    | .ok _ => true
    | .error _ => false) = true) : ∃ a, r = .ok a := by
  cases r with
  | ok a => exact ⟨a, rfl⟩
  | error e => cases h

theorem next_of (a : Answer) (h : (match a with
    | .next _ => true
    | _ => false) = true) : a = .next (nextOf a) := by
  cases a with
  | next s => rfl
  | fault x => cases h
  | refused x => cases h

/-! ### Hypotheses that some state meets: words, scalar instructions, traps -/

theorem test_meets_DecodeOfEncode : ∃ (i : Instr) (ps : List Parcel), i.wf = true ∧ encode i = some ps :=
  ⟨.jtab 10 3, _, by decide, rfl⟩

theorem test_meets_EncodeOfDecode : ∃ (ps : List Parcel) (i : Instr), decode ps = .ok i := ⟨[0xBE, 0xBE], .nop, rfl⟩

/-- At both ends of each range of blank cells. -/
theorem test_meets_ReservedMajorsRefused :
    ∀ m ∈ [0x01, 0x0F, 0x1B, 0x1F, 0x28, 0x2F, 0x3D, 0x3F, 0x4A, 0x4F, 0x5D, 0x5E, 0x61, 0x7F],
      ∃ w : Parcel, w.getLsbD 0 = false ∧ blankMajor (w.extractLsb' 1 7).toNat ∧ (w.extractLsb' 1 7).toNat = m := by
  intro m hm
  refine ⟨BitVec.ofNat 32 (2 * m), ?_⟩
  simp only [List.mem_cons, List.not_mem_nil, or_false] at hm
  unfold blankMajor
  rcases hm with h | h | h | h | h | h | h | h | h | h | h | h | h | h <;> subst h <;> decide

theorem test_meets_AluRegister : ∃ (i : Instr) (s : State) (d : Reg) (v : Word), aluValue i s = some (d, v) :=
  ⟨.rem 0 1 2, base, _, _, rfl⟩

theorem test_meets_AluCounts : ∃ d : Reg, d ≠ 0 := ⟨63, by decide⟩

theorem test_meets_AluImmediate : ∃ (i : Instr) (s : State) (d : Reg) (v : Word), aluImmValue i s = some (d, v) :=
  ⟨.addpc 5 0x3FFFF, base, _, _, rfl⟩

theorem test_meets_Branches : ∃ (i : Instr) (s : State) (pc : Word), branchTarget i s = some pc :=
  ⟨.jtab 1 255, base, _, rfl⟩

theorem test_meets_ScalarLoads : ∃ (i : Instr) (s s1 : State) (d : Reg) (va : Word) (n : Nat) (sg : Bool) (ps : List Nat),
    loadOf i s = some (d, va, n, sg) ∧ Reaches s s1 va n .read ps ∧ NoMarks s ps :=
  ⟨.ldaq 3 0 2, base, _, _, _, _, _, _, rfl, reaches _ _ _ _ (by decide +kernel), no_marks _ _ rfl⟩

theorem test_meets_StoresCommit : ∃ (i : Instr) (s s1 : State) (d : Reg) (va : Word) (n : Nat) (ps : List Nat),
    storeOf i s = some (d, va, n) ∧ Reaches s s1 va n .write ps ∧ PlainPlaces s1 ps ∧ FillsRead s ∧ s.group = {} :=
  ⟨.sb 3 0 0x7FF, base, _, _, _, _, _, rfl, reaches _ _ _ _ (by decide +kernel), plain _ _ (by decide +kernel),
    fills_read _ (by decide +kernel), rfl⟩

/-- A store of thread 0 that waits to be performed: the byte 7 at offset 64 of region 1. -/
def store7 (lane : Option Nat) : PendingStore :=
  { serial := 0, thread := 0, core := 0, lane := lane, ws := byteWrites [(2 ^ 30 + 64, 7)] }

/-- A store of the thread, and a write of a command that is the only one left. -/
theorem test_meets_StorePerformed : ∀ y ∈ [store7 none, { store7 none with cmd := some { task := 1 } }], ∃ s : State, s.pending = [y] ∧
    firstUncorr s y.places = none ∧ PlainPlaces s y.places ∧ ctlGet s regAcrange = 0 ∧
    (if y.cmd = none then ∀ x ∈ s.pending, x.cmd ≠ none → ∀ w ∈ x.ws, w.p ∉ y.places
      else (s.pending.filter fun x => x.cmd.isSome) = [y]) := by
  intro y hy
  refine ⟨{ base with pending := [y], nextStore := 1 }, rfl, ?_⟩
  simp only [List.mem_cons, List.not_mem_nil, or_false] at hy
  rcases hy with rfl | rfl
  · exact ⟨by decide +kernel, plain _ _ (by decide +kernel), by decide +kernel, by simp [store7]⟩
  · exact ⟨by decide +kernel, plain _ _ (by decide +kernel), by decide +kernel, by simp⟩

theorem test_meets_ScalarAtomics : ∃ (i : Instr) (s s1 : State) (d : Reg) (va : Word) (f : Word → Word) (sc : BitVec 3)
    (o : BitVec 2) (ps : List Nat), atomicOf i s = some (d, va, f, sc, o) ∧ Reaches (orderedFrom sc o s) s1 va 8 .atomic ps ∧
    PlainPlaces s1 ps ∧ FillsRead s ∧ (o.getLsbD 0 = true → NoMarks s ps) ∧
    (o = 3 ∧ 4 ≤ sc.toNat → NothingPending s) :=
  ⟨.amoadd 0 0 2 4 3, base, _, _, _, _, _, _, _, rfl, reaches _ _ _ _ (by decide +kernel), plain _ _ (by decide +kernel),
    fills_read _ (by decide +kernel), fun _ => no_marks _ _ rfl,
    fun _ => nothing_pending _ (by decide +kernel)⟩

theorem test_meets_ScalarMisaligned : ∃ (s : State) (va : Word) (n : Nat), (∃ d sg, loadOf (.ld 3 0 4) s = some (d, va, n, sg)) ∧
    va.toNat % n ≠ 0 ∧ va.toNat < 2 ^ 56 ∧ WindowOpen s va n ∧ CanTrap s :=
  ⟨base, _, _, ⟨_, _, rfl⟩, by decide, by decide, fun h => absurd h (by decide), can_trap _ rfl⟩

/-- The task holds 64 KiB of its core's scratchpad. -/
def scratch : State := { base with tasks := [{ id := 1, base := 1, launch := placedRecord + BitVec.ofNat 1024 (2 ^ (8 * 0x38 + 8)) }] }

theorem test_meets_ScalarMisaligned_store : ∃ (s : State) (va : Word) (n : Nat), (∃ d, storeOf (.sd 3 4 0) s = some (d, va, n)) ∧
    va.toNat % n ≠ 0 ∧ va.toNat < 2 ^ 56 ∧ WindowOpen s va n ∧ CanTrap s :=
  ⟨withRegs scratch [(4, 0xFFFF0000000001)], _, _, ⟨_, rfl⟩, by decide, by decide, fun _ => except_ok _ (by decide +kernel), can_trap _ rfl⟩

/-- An aligned atomic in a window of swizzle mode X4, ordered .ar at .sys. -/
theorem test_meets_ScalarMisaligned_atomic : ∃ (s : State) (va : Word),
    (windowBase ≤ va.toNat ∧ va.toNat / 2 ^ 30 % 4 = 3) ∧
    (∃ d f sc o, atomicOf (.cas 3 4 5 5 3) s = some (d, va, f, sc, o) ∧ (o = 3 ∧ 4 ≤ sc.toNat → NothingPending s)) ∧
    va.toNat < 2 ^ 56 ∧ WindowOpen s va 8 ∧ CanTrap s :=
  ⟨withRegs scratch [(4, 0xFFFF00C0000008)], _, by decide, ⟨_, _, _, _, rfl, fun _ => nothing_pending _ (by decide +kernel)⟩, by decide,
    fun _ => except_ok _ (by decide +kernel), can_trap _ rfl⟩

theorem test_meets_FencesPass : ∃ s : State, s.th.task = some 1 ∧ NothingPending s := ⟨base, rfl, nothing_pending _ (by decide +kernel)⟩

theorem test_meets_VwaitPasses : ∃ s : State, s.th.viq = [] ∧ s.pending ≠ [] :=
  ⟨{ base with pending := [store7 none], nextStore := 1 }, rfl, by decide⟩

/-- A command of task 1 in flight. -/
def cmd1 (i : Instr) : Cmd :=
  { id := 0, insn := i, task := 1, launch := placedRecord, rank := 0, core := 0, sd := 0x1000, sa := 0x2000, sn := 16, slot := 0x3000 }

theorem test_meets_FenceHoldsForCommands : ∃ (s : State) (k : BitVec 4) (sc : Bool), s.th.viq = [] ∧
    (sc = true ∨ k.getLsbD 2 = true) ∧ ∃ c ∈ s.cmds, s.th.task = some c.task :=
  ⟨{ base with cmds := [cmd1 (.xcopy f0)] }, 4, false, rfl, .inr rfl, _, List.mem_singleton.mpr rfl, rfl⟩

/-- An XCOPY of task 1 that owns the line of offset 64 of region 1. -/
def owner : Cmd := { cmd1 (.xcopy f0) with owned := [(2 ^ 30, 128)] }

theorem test_meets_FenceHoldsForStores : ∃ (s : State) (k : BitVec 4) (y : PendingStore), s.th.viq = [] ∧ FillsRead s ∧
    k.getLsbD 2 = false ∧ s.pending = [y] ∧ y.thread = s.th.id ∧ y.cmd = none ∧
    (if y.lane = none then k.getLsbD 0 = true else k.getLsbD 1 = true) ∧ y.places.any (isOwned s) = true :=
  ⟨{ base with pending := [store7 none], nextStore := 1, cmds := [owner] }, 1, _, rfl, fills_read _ (by decide +kernel), rfl, rfl, rfl, rfl,
    by decide, by decide +kernel⟩

theorem test_meets_NopAndYield : ∃ s : State, s.th.trap.mode = true ∨ ∀ k, curTask s = some k → k.pend = false :=
  ⟨base, .inr (fun k hk => by have := all_of (p := fun k => !k.pend) (by decide +kernel : (curTask base).all _ = true) k hk; simpa using this)⟩

theorem test_meets_ProgramTraps : ∃ s : State, s.th.task = some 1 ∧ CanTrap s := ⟨base, rfl, can_trap _ rfl⟩

theorem test_meets_TretReturns : ∃ s : State, s.th.trap.mode = true ∧ s.th.trap.tpc.toNat % 4 = 0 ∧ s.th.viq = [] :=
  ⟨trapped, rfl, by decide, rfl⟩

theorem test_meets_TretOutsideTrapMode : ∃ s : State, CanTrap s := ⟨base, can_trap _ rfl⟩

theorem test_meets_TrapEntry : ∃ s : State, CanTrap s := ⟨base, can_trap _ rfl⟩

/-- A VCAPP at the head that has reserved its ring entries. -/
def reserving : VEntry := { conv := false, member := 0, cnt := 0, addr := 0, insn := .vcapp { f0 with vs1 := 1, vs2 := 0 }, reserved := some (0, 0) }

theorem test_meets_TrapWaitsForAppend : ∃ (s : State) (e : VEntry) (es : List VEntry), s.th.trap.mode = false ∧
    s.th.viq = e :: es ∧ MustEnd e :=
  ⟨withTh base fun t => { t with viq := [reserving] }, _, _, rfl, rfl, .inl (by decide)⟩

/-- A bank instruction inside a unit: its run on pseudo-channel 0 is in progress. -/
def inUnit : VEntry :=
  { conv := false, member := 0, cnt := 0, addr := 0, insn := .tload f0, runs := [{ pc := 0, ready := 0, left := 1, running := true, started := true }] }

theorem test_meets_TrapWaitsForAppend_unit : ∃ (s : State) (e : VEntry) (es : List VEntry), s.th.trap.mode = false ∧
    s.th.viq = e :: es ∧ MustEnd e :=
  ⟨withTh base fun t => { t with viq := [inUnit] }, _, _, rfl, rfl, .inr ⟨_, List.mem_singleton.mpr rfl, rfl⟩⟩

theorem test_meets_DoubleFault : ∃ s : State, s.th.trap.mode = true := ⟨trapped, rfl⟩

/-! ### Hypotheses that some state meets: the lanes -/

theorem regs_ok (f : W64) (s : State) (a b c : Nat)
    (h : (decide (f.form = 2 ∨ bitsOf f.x16.toNat 0 5 ≤ sewOf s) && decide (a ≤ 16 ∨ f.vs1.toNat % 2 = 0) &&
      decide (f.form ≠ 0 ∨ b ≤ 16 ∨ f.vs2.toNat % 2 = 0) && decide (c ≤ 16 ∨ f.vd.toNat % 2 = 0)) = true) : RegsOk f s a b c := by
  simp only [Bool.and_eq_true, decide_eq_true_eq] at h
  exact ⟨h.1.1.1, h.1.1.2, h.1.2, h.2⟩

/-- A standalone register form: vd 4, vs1 2, vs2 0. -/
def f1 : W64 := { f0 with vd := 4, vs1 := 2, vs2 := 0 }

theorem test_meets_LaneArithmetic : ∃ (i : Instr) (op : BitVec 8) (f : W64) (s : State), vecKey i = some (0, op, f) ∧
    (laneOut i f 1 0 0).isSome = true ∧ VecReady i s ∧ SewOk s ∧ RegsOk f s (sewOf s) (sewOf s) (sewOf s) :=
  ⟨.vsadd f1, _, f1, vec, rfl, rfl, ready _ _ (by decide +kernel), sew_ok _ rfl, regs_ok _ _ _ _ _ (by decide +kernel)⟩

/-- A queue whose head has arrived with the thread's VL and SEW. -/
def entry4 : QEntry := { vl := 4, sew := 16, arrived := true, doff := 0, width := 16, data := [1, 2, 3, 4] }

def queued : State := withTh vec fun t => { t with q := t.q.setIfInBounds 2 [entry4] }

theorem test_meets_LaneArithmetic_queue : ∃ (f : W64) (s : State), VecReady (.vadd f) s ∧ SewOk s ∧ (queueOf (.vadd f)).isSome = true ∧
    RegsOk f s (sewOf s) (sewOf s) (sewOf s) :=
  ⟨{ f1 with form := 3, vs2 := 2 }, queued, ⟨rfl, rfl, rfl, rfl, rfl,
    ⟨_, _, rfl, rfl, rfl, rfl, rfl, rfl⟩⟩, sew_ok _ rfl, rfl, regs_ok _ _ _ _ _ (by decide +kernel)⟩

theorem test_meets_LaneMultiply : ∃ (f : W64) (s : State), (mulExact (.vmulh f) f s 0).isSome = true ∧ VecReady (.vmulh f) s ∧ SewOk s ∧
    RegsOk f s (sewOf s) (wOf f s) (sewOf s) ∧ (uBit f = true ∨ wOf f s ≠ 1) :=
  ⟨f1, vec, rfl, ready _ _ (by decide +kernel), sew_ok _ rfl, regs_ok _ _ _ _ _ (by decide +kernel), by decide +kernel⟩

theorem test_meets_LaneMoves : ∃ (i : Instr) (op : BitVec 8) (f : W64) (s : State), vecKey i = some (0, op, f) ∧ isMove i = true ∧
    VecReady i s ∧ SewOk s ∧ RegsOk f s (sewOf s) (sewOf s) (sewOf s) :=
  ⟨.vsldn { f1 with form := 2, x16 := 1, vs2 := 0 }, _, _, vec, rfl, rfl, ready _ _ (by decide +kernel), sew_ok _ rfl,
    regs_ok _ _ _ _ _ (by decide +kernel)⟩

theorem test_meets_MaskResults : ∃ (i : Instr) (u : BitVec 3) (op : BitVec 8) (f : W64) (s : State), vecKey i = some (u, op, f) ∧
    (maskOut i f s 0).isSome = true ∧ VecReady i s ∧ SewOk s ∧ ((∃ g, i = .vcmp g) → RegsOk f s (sewOf s) (sewOf s) 0) :=
  ⟨.vcmp { f1 with fn4 := 2 }, _, _, _, vec, rfl, rfl, ready _ _ (by decide +kernel), sew_ok _ rfl,
    fun _ => regs_ok _ _ _ _ _ (by decide +kernel)⟩

theorem test_meets_LaneScalarResults : ∃ (i : Instr) (op : BitVec 8) (f : W64) (s : State) (v : Word), vecKey i = some (0, op, f) ∧
    scalarOut i f s = some v ∧ VecReady i s ∧ SewOk s ∧ ((∃ g, i = .vmvs g) → RegsOk f s (sewOf s) 0 0) :=
  ⟨.vmvs { f1 with form := 1, rs := 4, vs2 := 0 }, _, _, vec, _, rfl, rfl, ready _ _ (by decide +kernel), sew_ok _ rfl,
    fun _ => regs_ok _ _ _ _ _ (by decide +kernel)⟩

theorem test_meets_SetvtSetsSew : ∃ (f : W64) (s : State), VecReady (.setvt f) s := ⟨{ f0 with x16 := 32 }, vec, ready _ _ (by decide +kernel)⟩

theorem test_meets_LaneFields : ∃ (f : W64) (s : State), (fieldsOut (.vnar f) f s 0).isSome = true ∧ VecReady (.vnar f) s ∧ SewOk s ∧
    RegsOk f s (sewOf s) (sewOf s) (narWidth f) ∧ 1 ≤ narWidth f ∧ narWidth f ≤ sewOf s :=
  ⟨{ f1 with form := 2, x16 := 0x1FC4, vs2 := 0 }, withTh vec fun t => { t with lanes := { lanes4 with sew := 32, v := [] } }, rfl,
    ready _ _ (by decide +kernel), sew_ok _ rfl, regs_ok _ _ _ _ _ (by decide +kernel), by decide +kernel, by decide +kernel⟩

theorem test_meets_Reductions : ∃ (f : W64) (s : State), VecReady (.vred f) s ∧ SewOk s ∧ RegsOk f s (sewOf s) (sewOf s) (sewOf s) ∧
    s.th.lanes.vl ≠ 0 :=
  ⟨f1, vec, ready _ _ (by decide +kernel), sew_ok _ rfl, regs_ok _ _ _ _ _ (by decide +kernel), by decide⟩

theorem test_meets_Reductions_empty : ∃ (f : W64) (s : State), VecReady (.vred f) s ∧ SewOk s ∧ RegsOk f s (sewOf s) (sewOf s) (sewOf s) ∧
    s.th.lanes.vl = 0 :=
  ⟨f1, base, ready _ _ (by decide +kernel), sew_ok _ rfl, regs_ok _ _ _ _ _ (by decide +kernel), rfl⟩

/-- A record like the placed one with REQ 2 and MIN 1, so that SETVL may grant lane groups. -/
def wide : State := { vec with tasks := [{ id := 1, base := 1, launch := placedRecord + BitVec.ofNat 1024 (258 * 2 ^ 320) }] }

theorem test_meets_SetvlGrants : ∃ (f : W64) (s : State) (k : Task), VecReady (.setvl f) s ∧ f.form = 1 ∧ curTask s = some k ∧
    k.pend = false ∧ s.sleepers = [] ∧ s.th.csr.wdogDue = false ∧ s.th.task.isSome = true ∧ s.parked = [] ∧ lanesWanted s k (getR s f.rs).toNat = 2 ∧
    min (recMin k.launch) (lanesWanted s k (getR s f.rs).toNat) ≤ min (lanesWanted s k (getR s f.rs).toNat) (laneCount (openLanes s)) :=
  ⟨{ f0 with form := 1, rs := 5, vd := 6, x16 := 32 }, withRegs wide [(5, 1025)], _, ready _ _ (by decide +kernel), rfl,
    some_of (by decide +kernel), by decide +kernel, rfl, rfl, rfl, rfl, by decide +kernel, by decide +kernel⟩

/-! ### Hypotheses that some state meets: conversions and vector memory -/

theorem test_meets_ConvElements : ∃ (i : Instr) (op : BitVec 8) (f : W64) (s : State), vecKey i = some (2, op, f) ∧ f.form ≠ 2 ∧
    (convOut i f s 0).isSome = true ∧ VecReady i s ∧ SewOk s ∧ ((convWidths i f s).1 ≤ 16 ∨ f.vs1.toNat % 2 = 0) ∧
    ((convWidths i f s).2 ≤ 16 ∨ f.vd.toNat % 2 = 0) ∧ ((∃ g, i = .vhad g) → convScalar f s % 16 ≤ 13) :=
  ⟨.vhad { f1 with form := 1, rs := 7, vs2 := 0 }, _, _, withRegs vec [(7, 13)], rfl, by decide, rfl, ready _ _ (by decide +kernel),
    sew_ok _ rfl, .inr rfl, .inr rfl, fun _ => by decide +kernel⟩

theorem test_meets_ConvBlocks : ∃ (f : W64) (s : State), f.form ≠ 2 ∧ (scaleOut (.vqnt f) f s 0).isSome = true ∧ VecReady (.vqnt f) s ∧
    SewOk s ∧ (fmtWidth f.fn4.toNat (sewOf s) ≤ 16 ∨ f.vs1.toNat % 2 = 0) ∧ (blockWide (.vqnt f) f s ≤ 16 ∨ f.vd.toNat % 2 = 0) :=
  ⟨{ f1 with fn4 := 5 }, withTh vec fun t => { t with lanes := { lanes4 with sew := 32 } }, by decide, rfl, ready _ _ (by decide +kernel),
    sew_ok _ rfl, .inr rfl, .inr rfl⟩

theorem test_meets_ConvBlocks_scale : ∃ (f : W64) (s : State), f.form ≠ 2 ∧ (scaleOut (.vsclMxout f) f s 0).isSome = true ∧
    VecReady (.vsclMxout f) s ∧ SewOk s ∧ (blockWide (.vsclMxout f) f s ≤ 16 ∨ f.vs1.toNat % 2 = 0) :=
  ⟨f1, vec, by decide, rfl, ready _ _ (by decide +kernel), sew_ok _ rfl, .inr rfl⟩

/-- A scale byte of 255 governs the active elements of both block forms. -/
theorem test_meets_ConvBlocks_nan : ∃ (f : W64) (s : State), f.form ≠ 2 ∧ (scaleOut (.vsclMxin f) f s 0).isSome = true ∧
    (scaleOut (.vsclMxout f) f s 0).isSome = true ∧ VecReady (.vsclMxin f) s ∧ VecReady (.vsclMxout f) s ∧ SewOk s ∧
    scaleOf s.th.lanes f.vs1.toNat 0 = 255 ∧ activeOf f s ≠ [] ∧ (blockOut (.vsclMxin f) f s 0).map Prod.snd = some flagInval :=
  ⟨f1, withTh vec fun t => { t with lanes := { lanes4 with z := [(2048, 255)] } }, by decide, rfl, rfl, ready _ _ (by decide +kernel),
    ready _ _ (by decide +kernel), sew_ok _ rfl, by decide +kernel, by decide +kernel, by decide +kernel⟩

/-- A tie, in every mode: 2.5 and -2.5. -/
theorem test_meets_RoundsByMode : RoundsTo .rne 5 0 1 0 2 ∧ RoundsTo .rna 5 0 1 0 3 ∧ RoundsTo .rtz 5 0 1 0 2 ∧
    RoundsTo .rup 5 0 1 0 3 ∧ RoundsTo .rdn 5 0 1 0 2 ∧ RoundsTo .rup (-5) 0 1 0 2 ∧ RoundsTo .rdn (-5) 0 1 0 3 ∧
    RoundsTo .sr 5 0 1 0x7FFF 2 ∧ RoundsTo .sr 5 0 1 0x8000 3 := by
  simp [RoundsTo, RoundedTo]

/-- E4M3's greatest number, its NaN, its least subnormal number and its zero: one code for each clause. -/
theorem test_meets_FormatsDecode : ∀ a ∈ [0x7E, 0x7F, 0x01, 0x80], floatShape 8 = some (4, 3, 7) ∧ a < 2 ^ (1 + 4 + 3) := by decide

/-- Into E4M3: 464 is a tie and gives 448, 480 overflows, and 2^-10 rounds to 0. -/
theorem test_meets_FormatsEncode : ∀ x ∈ [((29 : Int), (4 : Int), (8 : Int), 14), (15, 5, 8, 15), (1, -10, -10, 0)],
    x.1 ≠ 0 ∧ Binade x.1 x.2.1 x.2.2.1 ∧ RoundsTo .rne x.1 x.2.1 (max x.2.2.1 (1 - 7) - 3) 0 x.2.2.2 := by
  simp [Binade, RoundsTo, RoundedTo] <;> decide

/-- 3 lies 128 256ths of the way to 4, and the code 0x3FF0 rounds past LNS8. -/
theorem test_meets_FormatsEncode_lns : (Binade 3 0 1 ∧ 2 ^ (1 - 0) * (256 + 128) ≤ 256 * 3 ∧ 256 * 3 < 2 ^ (1 - 0) * (257 + 128)) ∧
    isLnsZero 0x3FF0 = false ∧ RoundsTo .rne (logOf 0x3FF0) 0 5 0 512 := by
  refine ⟨by simp [Binade], by decide, ?_⟩
  rw [show logOf 0x3FF0 = 16368 by decide]
  simp [RoundsTo, RoundedTo]

/-- Both zeros of LNS16 and the codes next to its ends, for each clause of the arithmetic. -/
theorem test_meets_LnsArithmetic : (isLnsZero 0x4000 = true ∧ isLnsZero 0xC000 = true) ∧
    (isLnsZero 0x3FFF = false ∧ logOf 0x3FFF = 16383 ∧ signBit 0x3FFF = false) ∧ isLnsZero 0xC001 = false ∧ logOf 0xC001 = -16383 ∧
    signBit 0xC001 = true := by decide

/-- 3.5 under E 127 lies midway between 3 and 4, and 448 is the largest of a block. -/
theorem test_meets_BlockQuantised : RoundsTo .rne 7 (-1) (127 - 127) 0 4 ∧ Binade 7 6 8 ∧ magLess 7 (-1) 7 6 = true := by
  refine ⟨by simp [RoundsTo, RoundedTo], by simp [Binade], by decide⟩

/-- The product 1 is one unit of 2^0, saturates where the unit is 2^-31, and a zero product is 0. -/
theorem test_meets_TableEntries : FixOf 0 0 (1, false) ∧ FixOf 0 (-31) (2 ^ 31 - 1, true) ∧ FixOf 0x4000 0 (0, false) := by
  have h0 : isLnsZero 0 = false := by decide
  have h1 : logOf 0 = 0 := by decide
  have h2 : exp2Table 0 = 32768 := by decide
  refine ⟨⟨by simp [h0], fun r _ hr => ?_⟩, ⟨by simp [h0], fun r _ hr => ?_⟩, ⟨fun _ => rfl, fun r h => absurd h (by decide)⟩⟩ <;>
    simp [RoundsTo, RoundedTo, h1, h2, signBit] at hr ⊢
  · have : r = 1 := by omega
    subst this
    decide
  · have : r = 2 ^ 31 := by omega
    subst this
    decide

/-- A slot one of whose scales is 255; two like images; and two whose distance is past the limit. -/
theorem test_meets_SlotDeviations : (∃ c < 8, kScale (fun _ => 255) 255 c = 255) ∧
    ∀ x ∈ [((0 : Nat), 0), (0x11, 2 ^ 25)],
      (¬ ∃ c < 8, kScale (fun _ => 0) 0 c = 255 ∨ vScale (fun _ => 0) 0 c = 255 ∨ kScale (fun _ => x.1) 0 c = 255 ∨ vScale (fun _ => x.1) 0 c = 255) ∧
      (∀ c < 8, kScale (fun _ => 0) 0 c ≤ 0) ∧ (∃ c < 8, kScale (fun _ => 0) 0 c = 0) ∧
      RoundedTo .rne false (((List.range 128).map fun d =>
        apart (kElem (fun _ => 0) 0 d) (kScale (fun _ => 0) 0 (d / 16)) (kElem (fun _ => x.1) 0 d) (kScale (fun _ => x.1) 0 (d / 16)) +
        apart (vElem (fun _ => 0) 0 d) (vScale (fun _ => 0) 0 (d / 16)) (vElem (fun _ => x.1) 0 d) (vScale (fun _ => x.1) 0 (d / 16))).sum)
        (2 ^ 0) 0 x.2 := by
  refine ⟨⟨0, by decide⟩, fun x hx => ?_⟩
  simp only [List.mem_cons, List.not_mem_nil, or_false] at hx
  rcases hx with rfl | rfl
  · exact ⟨by decide, by decide, by decide, by unfold RoundedTo; decide +kernel⟩
  · exact ⟨by decide, by decide, by decide, by unfold RoundedTo; decide +kernel⟩

theorem test_meets_TablesAndSeed : ∃ (f : W64) (s : State), VecReady (.vtld f) s ∧ SewOk s ∧ f.form ≠ 2 ∧ (sewOf s ≤ 16 ∨ f.vs1.toNat % 2 = 0) :=
  ⟨{ f1 with vd := 0, x16 := 0x700 }, vec, ready _ _ (by decide +kernel), sew_ok _ rfl, by decide, .inr rfl⟩

theorem test_meets_TablesAndSeed_seed : ∃ (f : W64) (s : State), VecReady (.seed f) s ∧ f.form = 1 ∧ NotRecording s :=
  ⟨{ f0 with form := 1, rs := 9 }, vec, ready _ _ (by decide +kernel), rfl, not_recording _ (by decide +kernel)⟩

/-- A base in s20, an index source in s21, a stride in s22. -/
def vmem : State := withMem (withRegs vec [(20, 0x10000), (21, 4), (22, 0x20000)]) 0x10000 [1, 2, 3, 4, 5, 6, 7, 8]

def f20 : W64 := { f0 with vd := 4, vs1 := 20 }

theorem test_meets_AmaxWord_empty : ∃ (f : W64) (s : State), VecReady (.vamax f) s ∧ SewOk s ∧ f.form = 1 ∧
    (fmtWidth f.fn4.toNat (sewOf s) ≤ 16 ∨ f.vs1.toNat % 2 = 0) ∧ activeOf f s = [] :=
  ⟨{ f0 with form := 1, rs := 20, vs1 := 2 }, base, ready _ _ (by decide +kernel), sew_ok _ rfl, rfl, .inr rfl, by decide +kernel⟩

theorem test_meets_AmaxWord : ∃ (f : W64) (s s1 : State) (ps : List Nat), VecReady (.vamax f) s ∧ SewOk s ∧ f.form = 1 ∧
    (fmtWidth f.fn4.toNat (sewOf s) ≤ 16 ∨ f.vs1.toNat % 2 = 0) ∧ activeOf f s ≠ [] ∧
    resolve (vecCtx (postedOf (.vamax f) s)) (getR s f.rs) 4 4 .atomic 0 (postedOf (.vamax f) s) = .ok ps s1 ∧
    Open s s1 ps ∧ ps.Nodup ∧ PlainPlaces s1 ps :=
  ⟨{ f0 with form := 1, rs := 20, vs1 := 2 }, vmem, _, _, ready _ _ (by decide +kernel), sew_ok _ rfl, rfl, .inr rfl, by decide +kernel,
    ok_of _ (by decide +kernel), opened _ _ _ (by decide +kernel), by decide +kernel, plain _ _ (by decide +kernel)⟩

theorem widths_ok (m : VecForm) (i : Instr) (f : W64) (s : State)
    (h : (decide (elemWidth f s ≤ sewOf s) && decide (m = .unit ∨ elemWidth f s = 8 ∨ elemWidth f s = 16 ∨ elemWidth f s = 32) &&
      decide (sewOf s ≤ 16)) = true) : VecWidthsOk m i f s := by
  simp only [Bool.and_eq_true, decide_eq_true_eq] at h
  exact ⟨h.1.1, h.1.2, .inl h.2⟩

/-- The elements that an instruction probes and the package after their translation. -/
def probed (i : Instr) (m : VecForm) (f : W64) (s : State) (acc : Access) : EStateM.Result Stop State (List Elem) :=
  probe (vecCtx (postedOf i s)) acc (vecAddr m f s) (fromStart f s) (postedOf i s)

def reachesAllB (i : Instr) (m : VecForm) (f : W64) (s : State) (acc : Access) : Bool :=
  let r := probed i m f s acc
  isOk r && openB s (stateOf r) ((valOf r).flatMap Elem.ps)

theorem reaches_all (i : Instr) (m : VecForm) (f : W64) (s : State) (acc : Access) (h : reachesAllB i m f s acc = true) :
    ReachesAll i m f s (stateOf (probed i m f s acc)) acc (fromStart f s) (valOf (probed i m f s acc)) := by
  simp only [reachesAllB, Bool.and_eq_true] at h
  exact ⟨ok_of _ h.1, opened _ _ _ h.2⟩

theorem test_meets_VectorLoads : ∃ (f : W64) (s s1 : State) (els : List Elem), VecReady (.vld f) s ∧ SewOk s ∧
    VecWidthsOk .unit (.vld f) f s ∧ ReachesAll (.vld f) .unit f s s1 .read (fromStart f s) els ∧ els.length = 4 :=
  ⟨f20, vmem, _, _, ready _ _ (by decide +kernel), sew_ok _ rfl, widths_ok _ _ _ _ (by decide +kernel),
    reaches_all _ _ _ _ _ (by decide +kernel), by decide +kernel⟩

theorem test_meets_VectorLoads_strided : ∃ (f : W64) (s s1 : State) (els : List Elem), VecReady (.vlds f) s ∧ SewOk s ∧
    VecWidthsOk .strided (.vlds f) f s ∧ ReachesAll (.vlds f) .strided f s s1 .read (fromStart f s) els ∧ els.length = 2 :=
  ⟨{ f20 with vs2 := 22 }, withTh vmem fun t => { t with csr := { t.csr with vstart := 2 } }, _, _, ready _ _ (by decide +kernel), sew_ok _ rfl,
    widths_ok _ _ _ _ (by decide +kernel), reaches_all _ _ _ _ _ (by decide +kernel), by decide +kernel⟩

theorem test_meets_VectorStores : ∃ (f : W64) (s s1 : State) (els : List Elem), VecReady (.vstx f) s ∧ SewOk s ∧
    VecWidthsOk .indexed (.vstx f) f s ∧ ReachesAll (.vstx f) .indexed f s s1 .write (fromStart f s) els ∧
    PlainPlaces s1 (els.flatMap Elem.ps) ∧ els.length = 4 :=
  ⟨{ f20 with vs2 := 6, rs := 21, fn4 := 3 }, vmem, _, _, ready _ _ (by decide +kernel), sew_ok _ rfl, widths_ok _ _ _ _ (by decide +kernel),
    reaches_all _ _ _ _ _ (by decide +kernel), plain _ _ (by decide +kernel), by decide +kernel⟩

theorem test_meets_VectorAtomics : ∃ (f : W64) (s s1 : State) (els : List Elem) (g : Nat → Nat → Nat),
    (∀ old d, vecAtomic (.vamoadd f) f s (elemWidth f s) old d = some (g old d)) ∧ VecReady (.vamoadd f) s ∧ SewOk s ∧
    VecWidthsOk .indexed (.vamoadd f) f s ∧ (elemWidth f s = 16 ∨ elemWidth f s = 32) ∧
    ReachesAll (.vamoadd f) .indexed f s s1 .atomic (fromStart f s) els ∧ PlainPlaces s1 (els.flatMap Elem.ps) ∧ els.length = 4 :=
  ⟨{ f20 with vs2 := 6, rs := 21 }, vmem, _, _, _, fun _ _ => rfl, ready _ _ (by decide +kernel), sew_ok _ rfl, widths_ok _ _ _ _ (by decide +kernel),
    .inl (by decide +kernel), reaches_all _ _ _ _ _ (by decide +kernel), plain _ _ (by decide +kernel), by decide +kernel⟩

/-- The elements a VLDFF keeps and where it stops. -/
def kept (f : W64) (s : State) : EStateM.Result Stop State (List (Nat × Nat) × Option (Nat × BitVec 8)) :=
  firstFault (vecCtx (postedOf (.vldff f) s)) (elemWidth f s) ((s.th.pc.setWidth 56).setWidth 64) (vecAddr .unit f s) true
    (fromStart f s) (nextVector (postedOf (.vldff f) s))

theorem kept_ok (f : W64) (s : State) (h : isOk (kept f s) = true) : kept f s = .ok ((valOf (kept f s)).1, (valOf (kept f s)).2) (stateOf (kept f s)) :=
  ok_of _ h

theorem test_meets_FirstFaultCompletes : ∃ (f : W64) (s s1 : State) (els : List Elem), VecReady (.vldff f) s ∧ SewOk s ∧
    VecWidthsOk .unit (.vldff f) f s ∧ ReachesAll (.vldff f) .unit f s s1 .read ((fromStart f s).take 1) els ∧
    s.cmds = [] ∧ NoCommandWrites s ∧ memReady s = true ∧ FillsRead s ∧ NoOwnStores s ∧ els.length = 1 :=
  have h : isOk (probe (vecCtx (postedOf (.vldff f20) vmem)) .read (vecAddr .unit f20 vmem) ((fromStart f20 vmem).take 1) (postedOf (.vldff f20) vmem)) = true := by
    decide +kernel
  ⟨f20, vmem, _, _, ready _ _ (by decide +kernel), sew_ok _ rfl, widths_ok _ _ _ _ (by decide +kernel), ⟨ok_of _ h, opened _ _ _ (by decide +kernel)⟩,
    rfl, no_commands _ rfl, by decide +kernel, fills_read _ (by decide +kernel), no_stores _ rfl, by decide +kernel⟩

theorem test_meets_FirstFaultResult : ∃ (f : W64) (s s1 : State) (xs : List (Nat × Nat)) (c : Option (Nat × BitVec 8)),
    VecReady (.vldff f) s ∧ SewOk s ∧ VecWidthsOk .unit (.vldff f) f s ∧ NotRecording s ∧ ctlGet s regAcrange = 0 ∧ NoOwnStores s ∧
    NoCommandWrites s ∧ kept f s = .ok (xs, c) s1 ∧ c = none :=
  ⟨f20, vmem, _, _, _, ready _ _ (by decide +kernel), sew_ok _ rfl, widths_ok _ _ _ _ (by decide +kernel), not_recording _ (by decide +kernel),
    by decide +kernel, no_stores _ rfl, no_commands _ rfl, kept_ok _ _ (by decide +kernel), by decide +kernel⟩

/-- The load runs over the end of the mapped addresses: two elements are kept. -/
theorem test_meets_FirstFaultResult_cut : ∃ (f : W64) (s s1 : State) (xs : List (Nat × Nat)) (c : Option (Nat × BitVec 8)),
    VecReady (.vldff f) s ∧ SewOk s ∧ VecWidthsOk .unit (.vldff f) f s ∧ NotRecording s ∧ ctlGet s regAcrange = 0 ∧ NoOwnStores s ∧
    NoCommandWrites s ∧ kept f s = .ok (xs, c) s1 ∧ c.map Prod.fst = some 2 :=
  ⟨f20, withRegs vec [(20, 0x3FFFFFFC)], _, _, _, ready _ _ (by decide +kernel), sew_ok _ rfl, widths_ok _ _ _ _ (by decide +kernel),
    not_recording _ (by decide +kernel), by decide +kernel, no_stores _ rfl, no_commands _ rfl, kept_ok _ _ (by decide +kernel), by decide +kernel⟩

theorem test_meets_LanePrivate : ∃ (f : W64) (s : State), SewOk s ∧ VecWidthsOk .unit (.vldl f) f s ∧ (sewOf s ≤ 16 ∨ f.vs2.toNat % 2 = 0) ∧
    s.uncorr = [] ∧ (∀ e ∈ fromStart f s, laneAt f s e + elemWidth f s ≤ 262144) ∧ VecReady (.vldl f) s ∧ VecReady (.vstl f) s :=
  ⟨{ f20 with vs1 := 23, vs2 := 6 }, withRegs vec [(23, 262128)], sew_ok _ rfl, widths_ok _ _ _ _ (by decide +kernel), .inr rfl, rfl, by decide +kernel,
    ready _ _ (by decide +kernel), ready _ _ (by decide +kernel)⟩

theorem test_meets_ConflictsAndPrefetch : ∃ (f : W64) (s : State), VecReady (.vconfl f) s ∧ SewOk s ∧
    (sewOf s ≤ 16 ∨ (f.vd.toNat % 2 = 0 ∧ f.vs2.toNat % 2 = 0)) ∧ VecReady (.lsync f) s ∧ VecReady (.vpref f) s ∧
    elemWidth f s ≤ sewOf s ∧ ctlGet s regAcrange = 0 ∧ (∀ x ∈ s.pending, x.thread = s.th.id → x.lane = none) :=
  ⟨f20, vmem, ready _ _ (by decide +kernel), sew_ok _ rfl, .inr ⟨rfl, rfl⟩, ready _ _ (by decide +kernel), ready _ _ (by decide +kernel),
    by decide +kernel, by decide +kernel, fun x hx => by simp [show vmem.pending = [] from rfl] at hx⟩

/-- LSYNC while a store of lane group 3 waits. -/
def behind : State := { vmem with pending := [store7 (some 3)], nextStore := 1 }

theorem test_meets_ConflictsAndPrefetch_lsync : ∃ (f : W64) (s s1 : State), VecReady (.lsync f) s ∧
    forceStores laneStore (postedOf (.lsync f) s) = .ok () s1 ∧ s.pending ≠ [] ∧ s1.pending = [] :=
  have h : isOk (forceStores laneStore (postedOf (.lsync f0) behind)) = true := by decide +kernel
  ⟨f0, behind, _, ready _ _ (by decide +kernel), ok_of _ h, by decide, by decide +kernel⟩

/-- A VCAPP descriptor at 0x40000: 16 entries at 0x50000, TAIL 6, HEAD 5. -/
def ring : State := withMem (withRegs vec [(20, 0x40000), (21, 100)]) 0x40000 (dwords [0x50000, 4, 6, 5])

def fRing : W64 := { f0 with vs1 := 20, rs := 21, form := 1 }

/-- What an append reads: places and bytes of the descriptor, and the elements. -/
def apPlaces (s : State) := resolveWith (vecCtx (postedOf (.vcapp fRing) s)) (getR s fRing.vs1) 64
  (decide ((getR s fRing.vs1).toNat % 64 ≠ 0)) .atomic 0 false (postedOf (.vcapp fRing) s)
def apBytes (s : State) := readBytes (valOf (apPlaces s)) (getR s fRing.vs1) 0 (stateOf (apPlaces s))
def apRank (s : State) (e : Nat) : Nat := ((fromStart fRing s).filter (· < e)).length
def apElems (s : State) := probe (vecCtx (postedOf (.vcapp fRing) s)) .write
  (fun e => ownAddr (BitVec.ofNat 64 (dwordOf (valOf (apBytes s)) 0) +
    BitVec.ofNat 64 (4 * ((dwordOf (valOf (apBytes s)) 2 + apRank s e) % 2 ^ dwordOf (valOf (apBytes s)) 1))) 32) (fromStart fRing s)
  (stateOf (apBytes s))

/-- What `AppendsEntries` asks of the ring's append. -/
def Appending (s : State) : Prop :=
  VecReady (.vcapp fRing) s ∧ s.group = {} ∧ fromStart fRing s ≠ [] ∧ NoOwnStores s ∧
    NoMarks s (valOf (apPlaces s)) ∧ ¬ (windowBase ≤ (getR s fRing.vs1).toNat ∧ (getR s fRing.vs1).toNat / 2 ^ 30 % 4 = 3) ∧
    apPlaces s = .ok (valOf (apPlaces s)) (stateOf (apPlaces s)) ∧ apBytes s = .ok (valOf (apBytes s)) (stateOf (apBytes s)) ∧
    dwordOf (valOf (apBytes s)) 1 = 4 ∧ (BitVec.ofNat 64 (dwordOf (valOf (apBytes s)) 0)).toNat % 4 = 0 ∧
    (∀ b ∈ (valOf (apBytes s)).drop 32, b = 0) ∧ (fromStart fRing s).length ≤ 2 ^ 4 ∧
    (dwordOf (valOf (apBytes s)) 2 + (fromStart fRing s).length - dwordOf (valOf (apBytes s)) 3) % 2 ^ 64 ≤ 2 ^ 4 ∧
    apElems s = .ok (valOf (apElems s)) (stateOf (apElems s)) ∧
    Open s (stateOf (apElems s)) (valOf (apPlaces s) ++ (valOf (apElems s)).flatMap Elem.ps) ∧
    PlainPlaces (stateOf (apElems s)) (valOf (apPlaces s) ++ (valOf (apElems s)).flatMap Elem.ps) ∧
    (∀ p ∈ (valOf (apElems s)).flatMap Elem.ps, p ∉ valOf (apPlaces s)) ∧ (valOf (apPlaces s)).Nodup ∧
    s.th.task.isSome = true ∧ s.parked = []

theorem test_meets_AppendsEntries : Appending ring ∧ (fromStart fRing ring).length = 4 :=
  ⟨⟨ready _ _ (by decide +kernel), rfl, by decide +kernel, no_stores _ rfl, no_marks _ _ rfl, by decide +kernel, ok_of _ (by decide +kernel),
    ok_of _ (by decide +kernel), by decide +kernel, by decide +kernel, by decide +kernel, by decide +kernel, by decide +kernel,
    ok_of _ (by decide +kernel), opened _ _ _ (by decide +kernel), plain _ _ (by decide +kernel), by decide +kernel, by decide +kernel, rfl, rfl⟩,
    by decide +kernel⟩

/-- The same append from VSTART 1 on. -/
def ring1 : State := withTh ring fun t => { t with csr := { t.csr with vstart := 1 } }

theorem test_meets_AppendsEntries_vstart : Appending ring1 ∧ (fromStart fRing ring1).length = 3 :=
  ⟨⟨ready _ _ (by decide +kernel), rfl, by decide +kernel, no_stores _ rfl, no_marks _ _ rfl, by decide +kernel, ok_of _ (by decide +kernel),
    ok_of _ (by decide +kernel), by decide +kernel, by decide +kernel, by decide +kernel, by decide +kernel, by decide +kernel,
    ok_of _ (by decide +kernel), opened _ _ _ (by decide +kernel), plain _ _ (by decide +kernel), by decide +kernel, by decide +kernel, rfl, rfl⟩,
    by decide +kernel⟩

theorem test_meets_AppendsNothing : ∃ (f : W64) (s : State), VecReady (.vcapp f) s ∧ fromStart f s = [] :=
  ⟨fRing, withTh ring fun t => { t with csr := { t.csr with vstart := 4 } }, ready _ _ (by decide +kernel), by decide +kernel⟩

theorem test_meets_QueueLoads : ∃ (f : W64) (s s1 : State) (els : List Elem) (q : Fin 8), vecForm (.qld f) = some .unit ∧
    q.val = f.vd.toNat % 8 ∧ QueueRoom (.qld f) q s ∧ s.th.viq = [] ∧ SewOk s ∧ VecWidthsOk .unit (.qld f) f s ∧
    probe (curCtx s) .read (vecAddr .unit f s) (List.range s.th.lanes.vl.toNat) s = .ok els s1 ∧ Open s s1 (els.flatMap Elem.ps) :=
  have hq : (vmem.th.q[7]).length < vmem.th.csr.rad.toNat := by decide +kernel
  ⟨{ f20 with vd := 7 }, vmem, _, _, 7, rfl, rfl, ⟨rfl, rfl, fun _ => hq, by decide +kernel⟩, rfl, sew_ok _ rfl,
    widths_ok _ _ _ _ (by decide +kernel), ok_of _ (by decide +kernel), opened _ _ _ (by decide +kernel)⟩

theorem test_meets_QueueClears : ∃ (f : W64) (s : State) (q : Fin 8), q.val = f.vd.toNat % 8 ∧ s.th.trap.mode = false ∧
    absentUnit s (.qclr f) = none ∧ s.th.viq = [] :=
  ⟨{ f0 with vd := 2 }, queued, 2, rfl, rfl, rfl, rfl⟩

/-! ### Hypotheses that some state meets: banks -/

/-- Region 2 bank-linear and in KV domain 3, which is the task's; virtual address 2^30 is its first page of 2 MiB, and the
next page follows. -/
def kv : State :=
  let s := ctlSet (ctlSet vec regRview 4) regKvdom 0x30000
  { s with tlb := [tlb0, { core := 0, aspace := 1, va := 0x40000000, size := 21, pte := 0x8000003F }]
           mem := [(0x1008, 1), (0x100A, 0x10), (0x100000, 1), (0x100002, 0x20), (0x200000, 0x3F), (0x200003, 0x40), (0x200008, 1), (0x20000A, 0x30),
                   (0x300000, 0x3F), (0x300003, 0x80), (0x300008, 0x3F), (0x30000A, 0x20), (0x30000B, 0x80), (0x40000000, 0xBE)] }

def kvRecord : BitVec 1024 := placedRecord + BitVec.ofNat 1024 (3 * 2 ^ 272)

def leased : Task :=
  { id := 1, base := 1, launch := kvRecord
    lease := { active := true, p0 := 0, npc := 1, tbound := 0xFFFFFFFF, cbound := 0xFF
               pins := [{ bank := 0, va := 0x40000000, pa := 0x80000000, w := true }] } }

def bankS : State := withTh { kv with tasks := [leased] } fun t => { t with csr := { t.csr with bmask := 1 } }

theorem leased_ok (s : State) (h : curTask s = some leased) : Leased s leased := ⟨h, rfl, rfl⟩

theorem chosen_bank (s : State) (h : s.th.csr.bmask = 1) {b : Nat} (hb : Chosen s leased b) : b = 0 := by
  obtain ⟨i, j, hi, _, _, hj, hm, rfl⟩ := hb
  have hi : i < 1 := hi
  rw [h] at hm
  have key : ∀ j : Fin 16, (1 : BitVec 32).getLsbD j.val = true → j.val = 0 := by decide
  have := key ⟨j, hj⟩ hm
  simp only at this
  have : i = 0 := by omega
  subst_vars
  rfl

theorem pinned (s : State) (rows : List Nat) (h : s.th.csr.bmask = 1)
    (hr : rows.all (fun r => (leaseRow leased.lease 0 r).isSome) = true) : Pinned s leased rows := by
  intro b hb r hm
  rw [chosen_bank s h hb]
  exact List.all_eq_true.mp hr r hm

theorem sound_logic (s : State) (k : Task) (h : s.banks = []) : SoundLogic s k := by
  intro b _
  simp only [bankAt, h]
  rfl

/-- What `RunsFree` asks. -/
def freeB (s : State) (k : Task) : Bool :=
  s.debt.isEmpty && s.revoking.isEmpty && (s.parked.all fun th => (headRuns th).isEmpty) &&
    (chosenBanks s k).all fun b => decide (((chosenBanks s k).map (· / 16)).eraseDups.length ≤ admitLimit s (b / 2048))

theorem runs_free (s : State) (k : Task) (h : freeB s k = true) : RunsFree s k := by
  simp only [freeB, Bool.and_eq_true, List.isEmpty_iff, List.all_eq_true, decide_eq_true_eq] at h
  refine ⟨fun p => ?_, h.1.1.2, h.1.2, h.2⟩
  rw [h.1.1.1]
  exact (by decide : 0 < 8)

theorem runs_open (s : State) (k : Task) (hb : s.banks = [])
    (h : (freeB s k && s.cmds.isEmpty && s.uncorr.isEmpty && memReady s && s.past.isEmpty && s.pending.isEmpty) = true) : RunsOpen s k := by
  rw [Bool.and_eq_true, List.isEmpty_iff] at h
  obtain ⟨h, hp⟩ := h
  simp only [Bool.and_eq_true, List.isEmpty_iff] at h
  exact ⟨runs_free s k h.1.1.1.1, h.1.1.1.2, no_commands s hp, h.1.1.2, h.1.2, sound_logic s k hb, by simp [h.2]⟩

/-- An upper register form: vd v40, vs1 v36. -/
def fu : W64 := { f0 with vd := 40, vs1 := 36, vs2 := 37 }

theorem test_meets_UpperArithmetic : ∃ (i : Instr) (op : BitVec 8) (f : W64) (s : State) (k : Task), vecKey i = some (3, op, f) ∧
    (upperOut i f s default 0).isSome = true ∧ VecReady i s ∧ Leased s k ∧ SoundLogic s k ∧ 32 ≤ f.vd.toNat ∧ ((∃ g, i = .ucvt g) → f.form = 1) ∧
    s.th.csr.vstart = 0 ∧ Chosen s k 0 :=
  ⟨.ucvt { fu with form := 1, vs2 := 0 }, _, _, bankS, leased, rfl, rfl, ready _ _ (by decide +kernel), leased_ok _ (by decide +kernel), sound_logic _ _ rfl, by decide, fun _ => rfl, rfl,
    ⟨0, 0, by decide, by decide, by decide, by decide, by decide, rfl⟩⟩

theorem test_meets_UpperArithmetic_vstart : ∃ (f : W64) (s : State) (k : Task), (upperOut (.uadd f) f s default 0).isSome = true ∧
    VecReady (.uadd f) s ∧ Leased s k ∧ SoundLogic s k ∧ 32 ≤ f.vd.toNat ∧ s.th.csr.vstart ≠ 0 :=
  ⟨fu, withTh bankS fun t => { t with csr := { t.csr with vstart := 1 } }, leased, rfl, ready _ _ (by decide +kernel), leased_ok _ (by decide +kernel),
    sound_logic _ _ rfl, by decide, by decide⟩

theorem test_meets_BankMoves_bred : ∃ (f : W64) (s : State) (k : Task), VecReady (.bred f) s ∧ s.th.csr.vstart = 0 ∧ Leased s k ∧ SoundLogic s k ∧ 32 ≤ f.vd.toNat ∧
    chosenBanks s k = [0] :=
  ⟨{ fu with vs2 := 0 }, bankS, leased, ready _ _ (by decide +kernel), rfl, leased_ok _ (by decide +kernel), sound_logic _ _ rfl, by decide, by decide +kernel⟩

theorem test_meets_BankMoves_vtou : ∃ (f : W64) (s : State) (k : Task), VecReady (.vtou f) s ∧ s.th.csr.vstart = 0 ∧ SewOk s ∧ Leased s k ∧ 32 ≤ f.vd.toNat ∧
    (sewOf s ≤ 16 ∨ f.vs1.toNat % 2 = 0) ∧
    moveField f s 0 14 + 256 * (if moveField f s 16 1 = 1 then (chosenBanks s k).length else 1) ≤ 16384 :=
  ⟨{ fu with vs1 := 2, vs2 := 0, form := 1, rs := 8 }, withRegs bankS [(8, 0x13F00)], leased, ready _ _ (by decide +kernel), rfl, sew_ok _ rfl,
    leased_ok _ (by decide +kernel), by decide, .inr rfl, by decide +kernel⟩

theorem test_meets_BankMoves_utov : ∃ (f : W64) (s : State) (k : Task), VecReady (.utov f) s ∧ s.th.csr.vstart = 0 ∧ SewOk s ∧ Leased s k ∧ SoundLogic s k ∧ f.tail = false ∧
    (sewOf s ≤ 16 ∨ f.vd.toNat % 2 = 0) ∧
    moveField f s 0 14 + 256 * (if moveField f s 16 1 = 1 then (chosenBanks s k).length else 1) ≤ 16384 :=
  ⟨{ fu with vd := 2, vs2 := 0 }, bankS, leased, ready _ _ (by decide +kernel), rfl, sew_ok _ rfl,
    leased_ok _ (by decide +kernel), sound_logic _ _ rfl, rfl, .inr rfl, by decide +kernel⟩

/-- A page that BLEASE adds: that at virtual address 0x40200000, in a bank of pseudo-channel 0. -/
def leaseS : State := withMem (withRegs bankS [(9, 0x10000)]) 0x10000 (dwords [1, 0x40200000])

def fLease : W64 := { f0 with form := 1, rs := 9 }

def blHead := resolve (vecCtx (postedOf (.blease fLease) leaseS)) (getR leaseS fLease.rs) 8 8 .read 0 (postedOf (.blease fLease) leaseS)
def blCount := readBytes (valOf blHead) (getR leaseS fLease.rs) 0 (stateOf blHead)
def blBody := resolve (vecCtx (postedOf (.blease fLease) leaseS)) (getR leaseS fLease.rs) (8 + 8 * 1) 8 .read 0 (stateOf blCount)
def blBytes := readBytes (valOf blBody) (getR leaseS fLease.rs) 0 (stateOf blBody)
def blPages := checkPages (vecCtx (postedOf (.blease fLease) leaseS)) leased.lease ((List.range 1).map fun i => dwordOf (valOf blBytes) (i + 1)) (stateOf blBytes)

theorem test_meets_Leases_blease : VecReady (.blease fLease) leaseS ∧ leaseS.th.csr.vstart = 0 ∧ Leased leaseS leased ∧ isOk blHead = true ∧ isOk blCount = true ∧
    natOfBytes (valOf blCount) % 2 ^ 32 = 1 ∧ isOk blBody = true ∧ isOk blBytes = true ∧ isOk blPages = true :=
  ⟨ready _ _ (by decide +kernel), rfl, leased_ok _ (by decide +kernel), by decide +kernel, by decide +kernel, by decide +kernel, by decide +kernel,
    by decide +kernel, by decide +kernel⟩

theorem test_meets_Leases_brels : ∃ (f : W64) (s : State) (k : Task), VecReady (.brels f) s ∧ s.th.csr.vstart = 0 ∧ curTask s = some k ∧ k.lease.active = true :=
  ⟨f0, bankS, leased, ready _ _ (by decide +kernel), rfl, by decide +kernel, rfl⟩

theorem test_meets_Leases_bstat : ∃ (f : W64) (s s1 : State) (k : Task) (ps : List Nat), VecReady (.bstat f) s ∧ s.th.csr.vstart = 0 ∧ Leased s k ∧
    resolve (vecCtx (postedOf (.bstat f) s)) (BitVec.ofNat 64 ((getR s f.rs).toNat / 64 * 64)) 64 64 .write 0
      (postedOf (.bstat f) s) = .ok ps s1 ∧ Open s s1 ps ∧ ps.Nodup ∧ PlainPlaces s1 ps ∧ (getR s f.rs).getLsbD 0 = true :=
  ⟨fLease, withRegs bankS [(9, 0x10001)], _, leased, _, ready _ _ (by decide +kernel), rfl, leased_ok _ (by decide +kernel), ok_of _ (by decide +kernel),
    opened _ _ _ (by decide +kernel), by decide +kernel, plain _ _ (by decide +kernel), by decide +kernel⟩

theorem test_meets_TableLoads_cbld : ∃ (f : W64) (s : State) (k : Task), VecReady (.cbld f) s ∧ s.th.csr.vstart = 0 ∧ Leased s k ∧ SoundLogic s k :=
  ⟨{ fu with vd := 0, vs2 := 0 }, bankS, leased, ready _ _ (by decide +kernel), rfl, leased_ok _ (by decide +kernel), sound_logic _ _ rfl⟩

/-- Slots 30 and 31 from rows 3 and 4 of the lease: row 3, quarter 3 on, two slots. -/
def slots : State := withRegs bankS [(9, 3 + 3 * 2 ^ 16 + 2 * 2 ^ 24 + 0x82 * 2 ^ 32)]

def fSlots : W64 := { f0 with form := 1, rs := 9, x16 := 30 }

theorem test_meets_TableLoads_tload : ∃ (f : W64) (s : State) (k : Task), VecReady (.tload f) s ∧ Leased s k ∧ s.th.csr.vstart = 0 ∧ RunsOpen s k ∧
    1 ≤ slotCount f s ∧ slotCount f s ≤ 32 ∧ bTs f + slotCount f s = 32 ∧
    Pinned s k ((List.range (slotCount f s)).map fun j => (slotPlace f s j).1) :=
  ⟨fSlots, slots, leased, ready _ _ (by decide +kernel), leased_ok _ (by decide +kernel), rfl, runs_open _ _ rfl (by decide +kernel), by decide +kernel,
    by decide +kernel, by decide +kernel, pinned _ _ (by decide +kernel) (by decide +kernel)⟩

theorem plain_bytes (s : State) (h : ∀ j : Fin 96, ctlGet s (regKvdom + 8 * j.val) = 0) (p : Nat) : isControlled s p = false := by
  have hd : regionDomain s (p / 2 ^ 30) = 0 := by
    unfold regionDomain
    split
    · rename_i hr
      have hr : p / 2 ^ 30 < 768 := by
        simp only [regionPresent, Bool.and_eq_true, decide_eq_true_eq] at hr
        omega
      rw [h ⟨p / 2 ^ 30 / 8, by omega⟩]
      simp [bitsOf]
    · rfl
  unfold isControlled
  rw [decide_eq_false (p := regionDomain s (p / 2 ^ 30) ≠ 0) (fun h => h hd), Bool.and_false]

/-- The same lease where no region is in a KV domain, so that no byte is controlled. -/
def slotsPlain : State := ctlSet slots regKvdom 0

theorem test_meets_TableStores : ∃ (f : W64) (s : State) (k : Task), VecReady (.tstore f) s ∧ Leased s k ∧ s.th.csr.vstart = 0 ∧ RunsOpen s k ∧
    ctlGet s regAcrange = 0 ∧ 1 ≤ slotCount f s ∧ slotCount f s ≤ 32 ∧ bTs f + slotCount f s ≤ 32 ∧
    (∀ n, bTs f ≤ n → n < bTs f + slotCount f s → k.lease.tbound.getLsbD n = true) ∧ PinsApart k ∧
    Pinned s k ((List.range (slotCount f s)).map fun j => (slotPlace f s j).1) ∧ (∀ p ∈ k.lease.pins, p.w = true) ∧
    (∀ p, isControlled s p = false) := by
  refine ⟨fSlots, slotsPlain, leased, ready _ _ (by decide +kernel), leased_ok _ (by decide +kernel), rfl, runs_open _ _ rfl (by decide +kernel), by decide +kernel, by decide +kernel,
    by decide +kernel, by decide +kernel, ?_, ⟨by decide, by decide⟩, pinned _ _ (by decide +kernel) (by decide +kernel), by decide, ?_⟩
  · intro n _ hn
    have hn : n < 32 := by
      have : bTs fSlots + slotCount fSlots slotsPlain = 32 := by decide +kernel
      omega
    have key : ∀ n : Fin 32, leased.lease.tbound.getLsbD n.val = true := by decide
    exact key ⟨n, hn⟩
  · intro p
    exact plain_bytes slotsPlain (by decide +kernel) p

theorem test_meets_TableBuilds_tbuild : ∃ (f : W64) (s : State) (k : Task), VecReady (.tbuild f) s ∧ Leased s k ∧ s.th.csr.vstart = 0 ∧ RunsOpen s k ∧
    bG f * bB f ≤ 8 ∧ 1 ≤ buildField f s 0 16 ∧ buildField f s 36 8 + buildField f s 0 16 * bG f ≤ 256 ∧
    (tablePlace f s (buildField f s 0 16 * bT f - 1)).1 ≤ 31 ∧ 32 ≤ f.vs1.toNat ∧ f.vs1.toNat + bT f ≤ 64 ∧
    (f.fn4.getLsbD 0 = true → k.lease.cbound.getLsbD (bCb f) = true) :=
  ⟨{ f0 with form := 1, rs := 9, vs1 := 63, fn4 := 1, x16 := 0 }, withRegs bankS [(9, 2)], leased, ready _ _ (by decide +kernel),
    leased_ok _ (by decide +kernel), rfl, runs_open _ _ rfl (by decide +kernel), by decide +kernel, by decide +kernel, by decide +kernel, by decide +kernel,
    by decide, by decide +kernel, fun _ => by decide +kernel⟩

theorem test_meets_TableBuilds_tquery : ∃ (f : W64) (s : State) (k : Task), VecReady (.tquery f) s ∧ s.th.csr.vstart = 0 ∧ Leased s k ∧ SoundLogic s k ∧ RunsFree s k ∧
    32 ≤ f.vd.toNat ∧ k.lease.tbound.getLsbD (bTs f) = true :=
  ⟨{ fu with vs2 := 0, x16 := 31 }, bankS, leased, ready _ _ (by decide +kernel), rfl, leased_ok _ (by decide +kernel), sound_logic _ _ rfl,
    runs_free _ _ (by decide +kernel), by decide, by decide +kernel⟩

theorem test_meets_Accumulates_luacc : ∃ (f : W64) (s : State) (k : Task), VecReady (.luacc f) s ∧ Leased s k ∧ s.th.csr.vstart = 0 ∧ RunsOpen s k ∧
    bG f * bB f ≤ 8 ∧ 32 ≤ f.vd.toNat ∧ f.vd.toNat + bT f ≤ 64 ∧ buildField f s 16 15 ≤ 24576 ∧ 1 ≤ buildField f s 16 15 ∧
    (luSlots f s).2 ≤ 31 ∧
    (∀ n, (luSlots f s).1 ≤ n → n ≤ (luSlots f s).2 → k.lease.tbound.getLsbD n = true) ∧
    Pinned s k ((List.range (buildField f s 16 15)).map (buildField f s 0 15 + ·)) ∧
    Pinned s k ((List.range (buildField f s 16 15)).flatMap fun i => (scaleRowsAt f s i).map (buildField f s 32 15 + ·)) ∧
    f.fn4.getLsbD 0 = true := by
  refine ⟨{ f0 with vd := 40, form := 1, rs := 9, fn4 := 1, x16 := 0 }, withRegs bankS [(9, 511 + 1 * 2 ^ 16)], leased, ready _ _ (by decide +kernel),
    leased_ok _ (by decide +kernel), rfl, runs_open _ _ rfl (by decide +kernel), by decide +kernel, by decide, by decide +kernel, by decide +kernel, by decide +kernel,
    by decide +kernel, ?_, pinned _ _ (by decide +kernel) (by decide +kernel), pinned _ _ (by decide +kernel) (by decide +kernel), rfl⟩
  intro n _ hn
  have hn : n < 32 := by
    refine Nat.lt_of_le_of_lt hn ?_
    decide +kernel
  have key : ∀ n : Fin 32, leased.lease.tbound.getLsbD n.val = true := by decide
  exact key ⟨n, hn⟩

/-! ### Hypotheses that some state meets: commands and KV blocks -/

/-- Destination, source, bytes and slot of a copy in s11 to s14. -/
def copyS : State := withMem (withRegs bankS [(11, 0x12000), (12, 0x11000), (13, 5), (14, 0x13000)]) 0x11000 [9, 8, 7, 6, 5]

def fCopy : W64 := { f0 with vd := 11, vs1 := 12, vs2 := 13, rs := 14, form := 1 }

theorem test_meets_CommandsAccepted : ∃ (i : Instr) (u : BitVec 3) (op : BitVec 8) (f : W64) (s s1 : State) (k : Task) (ps : List Nat),
    vecKey i = some (u, op, f) ∧ isCmd i = true ∧ VecReady i s ∧ curTask s = some k ∧ getR s f.rs ≠ 0 ∧ LimitsOk i f s ∧ FillsRead s ∧ NoOwnStores s ∧ NoCommandWrites s ∧ s.th.task.isSome = true ∧ s.parked = [] ∧
    resolve (engineCtx (postedOf i s)) (getR s f.rs) 8 8 .write 0 (postedOf i s) = .ok ps s1 ∧
    (∀ r ∈ windowRanges i f s, windowFault s1 (engineCtx s1) r.1 r.2 = none) ∧
    (isCancel i = true ∨ (s.cmds.filter fun x => x.task == k.id && !x.isCancel).length < 256) :=
  ⟨.xcopy fCopy, _, _, _, copyS, _, leased, _, rfl, rfl, ready _ _ (by decide +kernel), by decide +kernel, by decide +kernel,
    (by decide +kernel : (getR copyS 13).toNat < 2 ^ 40), fills_read _ (by decide +kernel), no_stores _ rfl, no_commands _ rfl, rfl, rfl, ok_of _ (by decide +kernel), by decide +kernel, .inr (by decide +kernel)⟩

theorem test_meets_CommandsAccepted_repair : ∃ (f : W64) (s s1 : State) (ps : List Nat), VecReady (.krepair f) s ∧ getR s f.rs ≠ 0 ∧
    LimitsOk (.krepair f) f s ∧
    resolve (engineCtx (postedOf (.krepair f) s)) (getR s f.rs) 8 8 .write 0 (postedOf (.krepair f) s) = .ok ps s1 :=
  ⟨{ f0 with vs1 := 12, rs := 14, form := 1 }, copyS, _, _, ready _ _ (by decide +kernel), by decide +kernel,
    (by decide +kernel : (getR copyS 12).toNat % 64 = 0), ok_of _ (by decide +kernel)⟩

/-- An XCOPY of five bytes and an XFILL, accepted. -/
def copyCmd : Cmd := { cmd1 (.xcopy fCopy) with sd := 0x12000, sa := 0x11000, sn := 5, slot := 0x13000 }

def copying : State := { copyS with cmds := [copyCmd] }

def copyRead := reachBytes (cmdCtx copyCmd) .read copyCmd.sa 5 copying
def copyWrite := reachBytes (cmdCtx copyCmd) .write copyCmd.sd 5 copyRead.2

theorem test_meets_CopiesAndFills : ∃ (s s1 s2 : State) (c : Cmd) (src : Nat → Byte) (rs ds : List Reached) (ps : List Nat),
    s.stopped = false ∧ (s.cmds.find? fun k => k.id == c.id) = some c ∧ c.prog = .whole ∧ c.target = none ∧ c.cancelled = false ∧ grantHeld s c = false ∧ c.sn.toNat = 5 ∧ s.uncorr = [] ∧
    ctlGet s regAcrange = 0 ∧ reachBytes (cmdCtx c) .read c.sa 5 s = (rs, s1) ∧
    (∃ qs, allPlaces rs = some qs ∧ (∀ x ∈ s.past, c.since < x.at' → x.p ∉ qs) ∧ ∀ i, i < 5 → src i = memByte s (qs.getD i 0)) ∧
    reachBytes (cmdCtx c) .write c.sd 5 s1 = (ds, s2) ∧ allPlaces ds = some ps ∧ ps.Nodup ∧ PlainPlaces s ps :=
  ⟨copying, copyRead.2, copyWrite.2, copyCmd, _, copyRead.1, copyWrite.1, _, rfl, by decide +kernel, rfl, rfl, rfl, by decide +kernel, rfl, by decide +kernel, by decide +kernel, (Prod.eta _).symm,
    ⟨(allPlaces copyRead.1).get (by decide +kernel), some_of _, fun x hx => (by simp [show copying.past = [] from rfl] at hx), fun _ _ => rfl⟩, (Prod.eta _).symm, some_of (by decide +kernel), by decide +kernel, plain _ _ (by decide +kernel)⟩

theorem test_meets_CopiesAndFills_slot : ∃ (c : Ctx) (va : Word) (s s1 : State) (rs : List Reached) (ps : List Nat),
    reachBytes c .atomic va 8 s = (rs, s1) ∧ va.toNat % 8 = 0 ∧ allPlaces rs = some ps ∧ ps.Nodup ∧ firstUncorr s1 ps = none ∧
    ctlGet s regAcrange = 0 ∧ PlainPlaces s ps ∧ (∀ x ∈ s.pending, x.cmd ≠ none → ∀ w ∈ x.ws, w.p ∉ ps) :=
  ⟨cmdCtx copyCmd, 0x13000, copying, (reachBytes (cmdCtx copyCmd) .atomic 0x13000 8 copying).2, (reachBytes (cmdCtx copyCmd) .atomic 0x13000 8 copying).1, _,
    (Prod.eta _).symm, by decide, some_of (by decide +kernel), by decide +kernel, by decide +kernel, by decide +kernel, plain _ _ (by decide +kernel),
    by simp [show copying.pending = [] from rfl]⟩

/-- A block at virtual address 2^30 (physical 0x80000000) with TAG 7, and STATE and REFCNT as given. -/
def block (st ref : Nat) : State :=
  withMem (withRegs bankS [(15, 0x40000000), (16, 7), (17, 0x10000), (18, 0x20000)]) (2 ^ 30 + 9 * 4096) (dwords [7, seqWord 3 ref st])

def fBlock : W64 := { f0 with vd := 10, vs1 := 15, vs2 := 16, form := 1 }

theorem block_at (i : Instr) (f : W64) (s : State) (acc : Access) (pa : Nat)
    (h : (let r := kvBlock (getR s f.vs1) acc (postedOf i s)
          isOk r && valOf r == pa && decide ((getR s f.vs1).toNat % 4096 = 0) && openB s (stateOf r) (hdrPlaces pa)) = true) :
    BlockAt i f s (stateOf (kvBlock (getR s f.vs1) acc (postedOf i s))) acc pa := by
  simp only [Bool.and_eq_true, decide_eq_true_eq, beq_iff_eq] at h
  obtain ⟨⟨⟨h1, h2⟩, h3⟩, h4⟩ := h
  refine ⟨h3, ?_, opened _ _ _ h4⟩
  have := ok_of _ h1
  rwa [h2] at this

theorem test_meets_KvHeaders_read : ∃ (f : W64) (s s1 : State) (pa : Nat), VecReady (.kstateRead f) s ∧ BlockAt (.kstateRead f) f s s1 .read pa :=
  ⟨fBlock, block 2 1, _, 0x80000000, ready _ _ (by decide +kernel), block_at _ _ _ _ _ (by decide +kernel)⟩

theorem test_meets_KvHeaders_loc : ∃ (f : W64) (s s1 : State) (pa : Nat), VecReady (.kstateLoc f) s ∧ BlockAt (.kstateLoc f) f s s1 .read pa :=
  ⟨fBlock, block 2 1, _, 0x80000000, ready _ _ (by decide +kernel), block_at _ _ _ _ _ (by decide +kernel)⟩

theorem test_meets_KvHeaders_fill : ∃ (f : W64) (s s1 : State) (pa : Nat), VecReady (.kstateFill f) s ∧ BlockAt (.kstateFill f) f s s1 .write pa ∧
    getR s f.vs2 ≠ 0 ∧ hdrState s pa = 0 :=
  ⟨fBlock, block 0 0, _, 0x80000000, ready _ _ (by decide +kernel), block_at _ _ _ _ _ (by decide +kernel), by decide +kernel, by decide +kernel⟩

theorem test_meets_KvHeaders_clean : ∃ (f : W64) (s s1 : State) (pa : Nat), VecReady (.kstateClean f) s ∧ BlockAt (.kstateClean f) f s s1 .write pa ∧
    hdrState s pa = 1 :=
  ⟨fBlock, block 1 1, _, 0x80000000, ready _ _ (by decide +kernel), block_at _ _ _ _ _ (by decide +kernel), by decide +kernel⟩

theorem test_meets_KvHeaders_reopen : ∃ (f : W64) (s s1 : State) (pa : Nat), VecReady (.kstateReopen f) s ∧ BlockAt (.kstateReopen f) f s s1 .write pa ∧
    hdrState s pa = 2 ∧ hdrRef s pa = 1 :=
  ⟨fBlock, block 2 1, _, 0x80000000, ready _ _ (by decide +kernel), block_at _ _ _ _ _ (by decide +kernel), by decide +kernel, by decide +kernel⟩

theorem test_meets_KvHeaders_rels : ∃ (f : W64) (s s1 : State) (pa : Nat), VecReady (.krels f) s ∧ BlockAt (.krels f) f s s1 .write pa ∧
    hdrRef s pa ≠ 0 ∧ hdrState s pa ≠ 4 :=
  ⟨fBlock, block 5 65535, _, 0x80000000, ready _ _ (by decide +kernel), block_at _ _ _ _ _ (by decide +kernel), by decide +kernel, by decide +kernel⟩

/-- A sequence descriptor at 0x10000: sets at 0x40000 and 0x50000, the second published, reader counts 2^32 - 2 and 1. -/
def bound : State := withMem (block 2 1) 0x10000 (dwords [0, 0, 0x40000, 0x50000, 0x50000, 0x1FFFFFFFE])

def fBind : W64 := { fBlock with vs1 := 17, vs2 := 16 }

def bindPlaces := kvPlaces (getR bound fBind.vs1) 64 .write 0 (postedOf (.kbindBind fBind) bound)

theorem test_meets_KvBindings_bind : ∃ rc : Nat, VecReady (.kbindBind fBind) bound ∧ (getR bound fBind.vs1).toNat % 64 = 0 ∧
    isWindow (getR bound fBind.vs1).toNat = false ∧ bindPlaces = .ok (valOf bindPlaces) (stateOf bindPlaces) ∧
    Open bound (stateOf bindPlaces) (valOf bindPlaces) ∧ (valOf bindPlaces).Nodup ∧ PlainPlaces (stateOf bindPlaces) (valOf bindPlaces) ∧
    rcAfter (.kbindBind fBind) ((valOf bindPlaces).map (memByte bound)) (getR bound fBind.vs2).toNat = some rc ∧
    FillsRead bound ∧ NoOwnStores bound ∧ NoMarks bound (valOf bindPlaces) :=
  ⟨0x2FFFFFFFE, ready _ _ (by decide +kernel), by decide +kernel, by decide +kernel, ok_of _ (by decide +kernel), opened _ _ _ (by decide +kernel), by decide +kernel,
    plain _ _ (by decide +kernel), by decide +kernel, fills_read _ (by decide +kernel), no_stores _ rfl, no_marks _ _ rfl⟩

/-- Two block-table entries of the block at 0x10000. -/
def entryOne : BlockEntry := { pa := 0x80000000, tag := 7, delta := 0, seqpos := 0, flags := 0, count := 1, first := 255 }

def tableS (st : Nat) : State := withMem (withRegs (block st 1) [(16, 2)]) 0x10000 (entryBytes entryOne ++ entryBytes entryOne)

theorem test_meets_KvBindings_check : ∃ (f : W64) (s s1 : State) (es : List (BlockEntry × Bool)), VecReady (.kcheck f) s ∧ (getR s f.vs1).toNat % 32 = 0 ∧
    (getR s f.vs2).toNat ≤ 64 ∧ ctlGet s regAcrange = 0 ∧ NoOwnStores s ∧ NoCommandWrites s ∧
    checkEntries (getR s f.vs1) (visOf f) (List.range (getR s f.vs2).toNat) (postedOf (.kcheck f) s) = .ok es s1 ∧
    (visOf f ≠ 0 ∨ ∀ x ∈ es, x.2 = false) ∧ es.map Prod.snd = [true, true] :=
  ⟨{ fBind with x16 := 0x2000 }, tableS 4, _, _, ready _ _ (by decide +kernel), by decide +kernel, by decide +kernel, by decide +kernel,
    no_stores _ rfl, no_commands _ rfl, ok_of _ (by decide +kernel), .inl (by decide +kernel), by decide +kernel⟩

/-- A probe descriptor at 0x20000: staging image at 0x30000, token list of 256 positions at 0x40000. The stored scale byte of
slot 255 is 0xFF. -/
def probeS : State := withMem (withMem (withMem (tableS 2) (2 ^ 30 + 8 * 4096 + 255) [255]) 0x20000 (dwords [0x30000, 0x40000])) 0x40000 (dwords [256 * 2 ^ 32])

def fProbe : W64 := { fBind with vs2 := 18 }

def prEntry := kvEntry (getR probeS fProbe.vs1) 0 (fun _ _ => true) (postedOf (.kprobe fProbe) probeS)
def prSeen := kvVisible entryOne (getR probeS fProbe.vs1) 0 (visOf fProbe) (stateOf prEntry)
def prDesc := kvRead (getR probeS fProbe.vs2) 64 0 (stateOf prSeen)
def prHead := kvRead 0x40000 8 0 (stateOf prDesc)
def prStage := readOffsets 0x30000 ((entrySlots entryOne).flatMap slotBytes) (stateOf prHead)
/-- What KPROBE's clause asks, apart from `VecReady`. -/
def probeB : Bool :=
  probeS.past.isEmpty && probeS.uncorr.isEmpty && probeS.cmds.isEmpty && memReady probeS && ctlGet probeS regAcrange == 0 && (getR probeS fProbe.vs1).toNat % 32 == 0 &&
  (getR probeS fProbe.vs2).toNat % 64 == 0 && (match prEntry with
    | .ok e _ => e == entryOne
    | .error _ _ => false) && isOk prSeen && !valOf prSeen && isOk prDesc && dwordOf (valOf prDesc) 0 == 0x30000 && dwordOf (valOf prDesc) 1 == 0x40000 &&
  ((valOf prDesc).drop 16).all (· == 0) && isOk prHead && dwordOf (valOf prHead) 0 == 256 * 2 ^ 32 &&
  (entrySlots entryOne).all (fun j => decide (hdrPos probeS entryOne.pa + j < 256))&&
  match prStage with
  | .ok xs s5 =>
    (match checkListBits 0x40000 (movedBits entryOne probeS 0 (stagedByte xs)) (countCorr s5 ((List.range (9 * 4096)).map (entryOne.pa + ·))) with
     | .ok _ s6 => isOk (setListBits 0x40000 (movedBits entryOne probeS 0 (stagedByte xs)) (withDeviations entryOne probeS s6 (stagedByte xs)))
     | .error _ _ => false)
  | .error _ _ => false


/-- A commit descriptor at 0x20000: staging image at 0x30000, and a mask of slots. The first byte of the image, which is one of slot 0, is 7. -/
def commitS (mask : Nat) : State :=
  withMem (withMem (withRegs (block 4 1) [(16, 0x20000)]) 0x30000 [7]) 0x20000
    (dwords ([0x30000, 0] ++ (List.range 4).map fun i => mask / 2 ^ (64 * i) % 2 ^ 64))

def coDesc (mask : Nat) := kvRead (getR (commitS mask) fBlock.vs2) 64 0 (joinVector (publish true (postedOf (.kcommit fBlock) (commitS mask))))
def coStage (mask : Nat) := readOffsets 0x30000 ((maskSlots mask).flatMap slotBytes) (stateOf (coDesc mask))
def coBlock (mask : Nat) := kvBlock (getR (commitS mask) fBlock.vs1) .write (stateOf (coStage mask))

/-- What KCOMMIT's clause asks, apart from `VecReady`. -/
def commitB (mask : Nat) : Bool :=
  let s := commitS mask
  s.uncorr.isEmpty && s.cmds.isEmpty && memReady s && !blockRead s 0x80000000 && (getR s fBlock.vs1).toNat % 4096 == 0 && (getR s fBlock.vs2).toNat % 64 == 0 && isOk (coDesc mask) &&
  dwordOf (valOf (coDesc mask)) 0 == 0x30000 && dwordOf (valOf (coDesc mask)) 1 == 0 && natOfBytes (((valOf (coDesc mask)).drop 16).take 32) == mask &&
  dwordOf (valOf (coDesc mask)) 6 == 0 && dwordOf (valOf (coDesc mask)) 7 == 0 && isOk (coStage mask) && isOk (coBlock mask) && valOf (coBlock mask) == 0x80000000 &&
  openB s (stateOf (coBlock mask)) (hdrPlaces 0x80000000) && hdrState s 0x80000000 == 4 && hdrRef s 0x80000000 == 1

theorem test_meets_KvProbeCommit_commit : VecReady (.kcommit fBlock) (commitS 0) ∧ FillsRead (commitS 0) ∧ NoOwnStores (commitS 0) ∧ NoCommandWrites (commitS 0) ∧ commitB 0 = true :=
  ⟨ready _ _ (by decide +kernel), fills_read _ (by decide +kernel), no_stores _ rfl, no_commands _ rfl, by decide +kernel⟩

/-- Slots 0 and 255 in the mask. -/
theorem test_meets_KvProbeCommit_slots : VecReady (.kcommit fBlock) (commitS (2 ^ 255 + 1)) ∧ FillsRead (commitS (2 ^ 255 + 1)) ∧
    NoOwnStores (commitS (2 ^ 255 + 1)) ∧ NoCommandWrites (commitS (2 ^ 255 + 1)) ∧ commitB (2 ^ 255 + 1) = true ∧ maskSlots (2 ^ 255 + 1) = [0, 255] :=
  ⟨ready _ _ (by decide +kernel), fills_read _ (by decide +kernel), no_stores _ rfl, no_commands _ rfl, by decide +kernel, by decide +kernel⟩

/-- LUACC.kv of the block over outputs 0 to 255: the entry of bank 0 at 0x10000. -/
def accS : State := withRegs (tableS 2) [(9, 0x10000)]

def fAcc : W64 := { f0 with vd := 40, form := 1, rs := 9 }

def accEntries := kvBankEntries (ctxOf (.luaccKv fAcc) fAcc accS) leased.lease ((List.range (chosenBanks accS leased).length).zip (chosenBanks accS leased))
  (postedOf (.luaccKv fAcc) accS)

theorem test_meets_Accumulates_kv : VecReady (.luaccKv fAcc) accS ∧ Leased accS leased ∧ accS.th.csr.vstart = 0 ∧ RunsOpen accS leased ∧ NoOwnStores accS ∧ ctlGet accS regAcrange = 0 ∧
    bG fAcc * bB fAcc ≤ 8 ∧ 32 ≤ fAcc.vd.toNat ∧ fAcc.vd.toNat + bT fAcc ≤ 64 ∧ buildField fAcc accS 0 2 + buildField fAcc accS 2 2 + 1 ≤ 4 ∧ kvLastSlot fAcc accS ≤ 31 ∧
    (∀ n, bTs fAcc ≤ n → n ≤ kvLastSlot fAcc accS → leased.lease.tbound.getLsbD n = true) ∧ isOk accEntries = true ∧
    (match accEntries with
     | .ok r _ => r.1.length == 1 && !r.2
     | .error _ _ => false) = true := by
  refine ⟨ready _ _ (by decide +kernel), leased_ok _ (by decide +kernel), by decide +kernel, runs_open _ _ rfl (by decide +kernel), no_stores _ rfl, by decide +kernel, by decide +kernel,
    by decide +kernel, by decide +kernel, by decide +kernel, by decide +kernel, ?_, by decide +kernel, by decide +kernel⟩
  intro n _ hn
  have hn : n < 32 := Nat.lt_of_le_of_lt hn (by decide +kernel)
  have key : ∀ n : Fin 32, leased.lease.tbound.getLsbD n.val = true := by decide
  exact key ⟨n, hn⟩

/-! ### Hypotheses that some state meets: convoys, CSRs, waits, barriers, spawning and task ends -/

def memberWord (i : Instr) : BitVec 64 :=
  match encode i with
  | some [a, b] => b ++ a
  | _ => 0

/-- The first member's result is forward-only; the second reads it. -/
def fFirst : W64 := { f1 with x16 := 0x8000 }
def fSecond : W64 := { f1 with vd := 6, vs1 := 4, c1 := true }
def convoyWords : List (BitVec 64) := [memberWord (.vadd fFirst), memberWord (.vsub fSecond)]

theorem test_meets_ConvoyPosts : ∃ (h : Parcel) (ms : List (BitVec 64)) (s : State), convoyLegal h ms = true ∧ s.vlag = true ∧ s.th.viq = [] ∧
    s.th.trap.mode = false ∧ s.stopped = false ∧ ∀ i ∈ ms.filterMap memberInstr, absentUnit s i = none ∧ queueOf i = none :=
  ⟨0xC0, convoyWords, vec, by decide +kernel, rfl, rfl, rfl, rfl, by decide +kernel⟩

theorem convoy_ready : ConvoyReady vec := ⟨rfl, rfl, rfl, rfl, .inl rfl, sew_ok _ rfl, by decide +kernel⟩

theorem test_meets_ConvoyForwards : ∃ (h : Parcel) (x y : BitVec 64) (s : State), convoyLegal h [x, y] = true ∧
    memberInstr x = some (.vadd fFirst) ∧ memberInstr y = some (.vsub fSecond) ∧ isForward (.vadd fFirst) = true ∧
    (laneOut (.vadd fFirst) fFirst 1 0 0).isSome = true ∧ queueOf (.vadd fFirst) = none ∧ queueOf (.vsub fSecond) = none ∧
    ConvoyReady s ∧ absentUnit s (.vadd fFirst) = none ∧ absentUnit s (.vsub fSecond) = none ∧
    RegsOk fFirst s (sewOf s) (sewOf s) (sewOf s) ∧ RegsOk fSecond s (sewOf s) (sewOf s) (sewOf s) :=
  ⟨0xC0, memberWord (.vadd fFirst), memberWord (.vsub fSecond), vec, by decide +kernel, rfl, rfl, rfl, rfl, rfl, rfl, convoy_ready, rfl, rfl,
    regs_ok _ _ _ _ _ (by decide +kernel), regs_ok _ _ _ _ _ (by decide +kernel)⟩

/-- A convoy of two members and one of six, the first with a forward-only result. -/
theorem test_meets_ConvoyCompletes : ∀ x ∈ [(0xC0, [(.vadd fFirst, fFirst), (.vsub fSecond, fSecond)]),
      (0x4C0, List.replicate 6 (Instr.vsub { fSecond with c1 := false }, { fSecond with c1 := false }))],
    convoyLegal x.1 (x.2.map fun y => memberWord y.1) = true ∧
    (x.2.map fun y => memberWord y.1).map memberInstr = x.2.map (fun y => some y.1) ∧
    (∀ y ∈ x.2, (∃ op, vecKey y.1 = some (0, op, y.2)) ∧ (laneOut y.1 y.2 1 0 0).isSome = true ∧ queueOf y.1 = none ∧
      absentUnit vec y.1 = none ∧ RegsOk y.2 vec (sewOf vec) (sewOf vec) (sewOf vec)) ∧ ConvoyReady vec := by
  intro x hx
  simp only [List.mem_cons, List.not_mem_nil, or_false] at hx
  rcases hx with rfl | rfl
  · refine ⟨by decide +kernel, by decide +kernel, fun y hy => ?_, convoy_ready⟩
    simp only [List.mem_cons, List.not_mem_nil, or_false] at hy
    rcases hy with rfl | rfl
    · exact ⟨⟨_, rfl⟩, rfl, rfl, rfl, regs_ok _ _ _ _ _ (by decide +kernel)⟩
    · exact ⟨⟨_, rfl⟩, rfl, rfl, rfl, regs_ok _ _ _ _ _ (by decide +kernel)⟩
  · refine ⟨by decide +kernel, by decide +kernel, fun y hy => ?_, convoy_ready⟩
    rw [List.eq_of_mem_replicate hy]
    exact ⟨⟨_, rfl⟩, rfl, rfl, rfl, regs_ok _ _ _ _ _ (by decide +kernel)⟩

theorem test_meets_CsrAccess_read : ∃ (c : BitVec 12) (s : State) (v : Word), (csrWritable c).isSome = true ∧ CsrOpen s c ∧ csrHolds s c = some v :=
  ⟨0x109, base, _, rfl, ⟨.inl (by decide), fun h => absurd h (by decide), not_recording _ (by decide +kernel)⟩, rfl⟩

theorem test_meets_CsrAccess_write : ∃ (i : Instr) (d : Reg) (c : BitVec 12) (g : Word → Word) (s : State) (m : Nat), csrChange i s = some (d, c, g) ∧
    csrWritable c = some true ∧ CsrOpen s c ∧ csrBits c s.th.trap.mode = some m :=
  ⟨.csrs 3 4 0x20A, _, _, _, trapped, _, rfl, rfl, ⟨.inr rfl, fun _ => .inl rfl, not_recording _ (by decide +kernel)⟩, rfl⟩

theorem test_meets_TrapModeOnly_csr : ∃ (i : Instr) (c : BitVec 12) (s : State),
    ((∃ d, i = .csrr d c) ∨ (∃ d a, i = .csrw d a c) ∨ (∃ d a, i = .csrs d a c) ∨ (∃ d a, i = .csrc d a c)) ∧
    i.wf = true ∧ 0x200 ≤ c.toNat ∧ CanTrap s :=
  ⟨.csrr 3 0x200, _, base, .inl ⟨_, rfl⟩, by decide, by decide, can_trap _ rfl⟩

def vecTrapped : State := withTh vec fun t => { t with trap := { t.trap with mode := true } }

theorem test_meets_TrapModeOnly_vector : ∃ (f : W64) (s : State), isForward (.vadd f) = false ∧ absentUnit s (.vadd f) = none ∧ SewOk s ∧
    RegsOk f s (sewOf s) (sewOf s) (sewOf s) ∧ s.th.trap.mode = true :=
  ⟨f1, vecTrapped, rfl, rfl, sew_ok _ rfl, regs_ok _ _ _ _ _ (by decide +kernel), rfl⟩

/-- Two members of a gang with base 1, task 1 on the thread. -/
def gang2 (a : Bool) (st : TaskStatus) : State :=
  { base with tasks := [{ id := 1, base := 1, launch := placedRecord },
                        { id := 2, base := 1, rank := 1, launch := placedRecord, arrived := a, status := st }] }

theorem test_meets_Barriers_complete : ∃ (s : State) (id : BitVec 32) (k : Task), s.th.task = some id ∧ curTask s = some k ∧
    (∀ m ∈ s.tasks, m.id = id → m = k) ∧ k.arrived = false ∧ s.th.viq = [] ∧ FillsRead s ∧ NoOwnStores s ∧
    ∀ m ∈ s.tasks.filter (fun m => m.base = k.base ∧ m.id ≠ id), k.barK.toNat + 1 ≤ m.barK.toNat ∨ (m.arrived = true ∧ m.barK.toNat + 1 = k.barK.toNat + 1) :=
  ⟨gang2 true .running, 1, _, rfl, rfl, by decide +kernel, rfl, rfl, fills_read _ (by decide +kernel), no_stores _ rfl, by decide +kernel⟩

/-- The other member has arrived and then ended: the barrier completes. -/
theorem test_meets_Barriers_both : ∃ (s : State) (id : BitVec 32) (k m : Task), s.th.task = some id ∧ curTask s = some k ∧
    (∀ m ∈ s.tasks, m.id = id → m = k) ∧ k.arrived = false ∧ s.th.viq = [] ∧ FillsRead s ∧ NoOwnStores s ∧
    (∀ m ∈ s.tasks.filter (fun m => m.base = k.base ∧ m.id ≠ id), k.barK.toNat + 1 ≤ m.barK.toNat ∨ (m.arrived = true ∧ m.barK.toNat + 1 = k.barK.toNat + 1)) ∧
    m ∈ s.tasks ∧ m.base = k.base ∧ m.id ≠ id ∧ (∃ st, m.status = .ended st) ∧ m.barK.toNat < k.barK.toNat + 1 :=
  ⟨gang2 true (.ended 0x20), 1, _, { id := 2, base := 1, rank := 1, launch := placedRecord, arrived := true, status := .ended 0x20 }, rfl, rfl, by decide +kernel, rfl, rfl,
    fills_read _ (by decide +kernel), no_stores _ rfl, by decide +kernel, by decide +kernel, rfl, by decide, ⟨_, rfl⟩, by decide⟩

theorem test_meets_Barriers_wait : ∃ (s : State) (id : BitVec 32) (k : Task), s.th.task = some id ∧ curTask s = some k ∧
    (∀ m ∈ s.tasks, m.id = id → m = k) ∧ k.arrived = false ∧ s.th.viq = [] ∧ FillsRead s ∧ NoOwnStores s ∧ k.status = .running ∧
    (∃ m ∈ s.tasks, m.base = k.base ∧ m.id ≠ id ∧ m.barK.toNat < k.barK.toNat + 1 ∧ m.arrived = false) ∧
    ∀ m ∈ s.tasks, m.status = .running :=
  ⟨gang2 false .running, 1, _, rfl, rfl, by decide +kernel, rfl, rfl, fills_read _ (by decide +kernel), no_stores _ rfl, rfl, by decide +kernel, by decide +kernel⟩

theorem test_meets_Barriers_broken : ∃ (s : State) (id : BitVec 32) (k m : Task), s.th.task = some id ∧ curTask s = some k ∧
    (∀ m ∈ s.tasks, m.id = id → m = k) ∧ k.arrived = false ∧ s.th.viq = [] ∧ FillsRead s ∧ NoOwnStores s ∧ CanTrap s ∧
    m ∈ s.tasks ∧ m.base = k.base ∧ m.id ≠ id ∧ m.arrived = false ∧ (∃ st, m.status = .ended st) ∧ m.barK.toNat < k.barK.toNat + 1 :=
  ⟨gang2 false (.ended 0x20), 1, _, { id := 2, base := 1, rank := 1, launch := placedRecord, status := .ended 0x20 }, rfl, rfl, by decide +kernel, rfl, rfl,
    fills_read _ (by decide +kernel), no_stores _ rfl, can_trap _ rfl, by decide +kernel, rfl, by decide, rfl, ⟨_, rfl⟩, by decide⟩

/-- A completion slot at 0x18 that is done. -/
def slotDone : State := withMem (withRegs base [(4, 0x18)]) 0x18 (dwords [2 ^ 63 + 5])

theorem test_meets_WaitsMet_waitc : ∃ (s s1 : State) (a : Reg) (ps : List Nat), Reaches s s1 (getR s a) 8 .read ps ∧
    NoMarks s ps ∧ 2 ^ 63 ≤ valueAt s ps :=
  ⟨slotDone, _, 4, _, reaches _ _ _ _ (by decide +kernel), no_marks _ _ rfl, by decide +kernel⟩

theorem test_meets_WaitsMet_waitv : ∃ (s : State) (w : Word), s.th.latch = some w ∧ NotRecording s :=
  ⟨withTh base fun t => { t with latch := some 77 }, 77, rfl, not_recording _ (by decide +kernel)⟩

theorem test_meets_WaitsMet_waitq : ∃ (s : State) (q : BitVec 3), ¬ NotYet (.waitq 3 q 0) s ∧ s.th.q[q.toNat] ≠ [] :=
  ⟨queued, 2, (by
    rintro ⟨e, he, ha⟩
    have h : queued.th.q[(2 : BitVec 3).toNat].find? (fun e => !e.claimed) = some entry4 := by decide +kernel
    rw [h] at he
    cases he
    cases ha), by decide +kernel⟩

theorem test_meets_WaitsUnmet_wait : ∃ (i : Instr) (s : State) (tm : Reg) (n : Nat) (a : Word), waitsWith i s = some (tm, n, a) ∧ NotYet i s ∧
    waitTime s tm ≠ some 0 :=
  ⟨.waitv 3 0, base, _, _, _, rfl, rfl, by decide⟩

theorem test_meets_WaitsUnmet_trap : ∃ (i : Instr) (s : State) (tm : Reg) (n : Nat) (a : Word), waitsWith i s = some (tm, n, a) ∧ NotYet i s ∧
    waitTime s tm = some 0 ∧ CanTrap s :=
  ⟨.waitv 3 5, base, _, _, _, rfl, rfl, by decide +kernel, can_trap _ rfl⟩

theorem test_meets_WaitsUnmet_waitc : ∃ (s s1 : State) (a : Reg) (ps : List Nat), Reaches s s1 (getR s a) 8 .read ps ∧ valueAt s ps < 2 ^ 63 ∧ CanTrap s :=
  ⟨withRegs base [(4, 0x18)], _, 4, _, reaches _ _ _ _ (by decide +kernel), by decide +kernel, can_trap _ rfl⟩

/-- The queue table at physical 2^30 + 0x8000: queue 1 is enabled, owned by the device, and holds `n` of its 2 records, at
2^30 + 0x9000; its descriptor is at virtual address 0x8040, and a record at 0x6000. -/
def spawnS (n : Nat) : State :=
  withMem (ctlSet (withRegs base [(6, 0x8040), (7, 0x6000)]) regQbase 0x40008000) 0x8040 (dwords [0x40009000, 2 ^ 25 + 2 ^ 24 + 1, n, 0])

def spRecord (n : Nat) := resolve (curCtx (spawnS n)) (getR (spawnS n) 7) 128 64 .read 0 (released (spawnS n))
def spBytes (n : Nat) := readHome (valOf (spRecord n)) (getR (spawnS n) 7) 0 (stateOf (spRecord n))
def spDesc (n : Nat) := resolve (curCtx (spawnS n)) (getR (spawnS n) 6) 64 64 .write 0 (stateOf (spBytes n))

theorem await_ok (ps : List Nat) (s : State) (h : (s.cmds.isEmpty && memReady s && s.pending.isEmpty && s.th.order.awaited.isEmpty) = true) :
    awaitPlaces ps s = .ok () s := by
  simp only [Bool.and_eq_true, List.isEmpty_iff] at h
  simp [awaitPlaces, awaitOwned, endAwait, units_none, h.1.1.1, h.1.1.2, h.1.2, h.2]

theorem spawn_meets (n : Nat) (h : ((spawnS n).th.viq.isEmpty && ((spawnS n).th.q.toList.all fun q => q.all fun e => e.src.isEmpty) &&
    ((curTask (spawnS n)).all fun k => !recRecord k.launch) && isOk (spRecord n) && isOk (spBytes n) && isOk (spDesc n) &&
    ((stateOf (spDesc n)).cmds.isEmpty && memReady (stateOf (spDesc n)) && (stateOf (spDesc n)).pending.isEmpty &&
      (stateOf (spDesc n)).th.order.awaited.isEmpty)) = true) :
    (spawnS n).th.viq = [] ∧ FillsRead (spawnS n) ∧ NotRecording (spawnS n) ∧ spRecord n = .ok (valOf (spRecord n)) (stateOf (spRecord n)) ∧
    spBytes n = .ok (valOf (spBytes n)) (stateOf (spBytes n)) ∧ spDesc n = .ok (valOf (spDesc n)) (stateOf (spDesc n)) ∧
    awaitPlaces (valOf (spDesc n)) (stateOf (spDesc n)) = .ok () (stateOf (spDesc n)) := by
  rw [Bool.and_eq_true] at h
  obtain ⟨h, h7⟩ := h
  simp only [Bool.and_eq_true, List.isEmpty_iff] at h
  obtain ⟨⟨⟨⟨⟨h1, h2⟩, h3⟩, h4⟩, h5⟩, h6⟩ := h
  exact ⟨h1, fills_read _ h2, not_recording _ h3, ok_of _ h4, ok_of _ h5, ok_of _ h6, await_ok _ _ h7⟩

/-- A record is placed in a queue with room; its place and the package after it. -/
def spPlaced (n : Nat) : Bool :=
  match submitTo (stateOf (spDesc n)) 1 (BitVec.ofNat 1024 (natOfBytes (valOf (spBytes n)))) true with
  | .placed pos _ => pos == n
  | _ => false

theorem test_meets_Spawns : NoOwnStores (spawnS 1) ∧ (spawnS 1).th.viq = [] ∧ FillsRead (spawnS 1) ∧ NotRecording (spawnS 1) ∧
    spRecord 1 = .ok (valOf (spRecord 1)) (stateOf (spRecord 1)) ∧ spBytes 1 = .ok (valOf (spBytes 1)) (stateOf (spBytes 1)) ∧
    spDesc 1 = .ok (valOf (spDesc 1)) (stateOf (spDesc 1)) ∧ awaitPlaces (valOf (spDesc 1)) (stateOf (spDesc 1)) = .ok () (stateOf (spDesc 1)) :=
  ⟨no_stores _ (by decide +kernel), spawn_meets 1 (by decide +kernel)⟩

theorem test_meets_Spawns_placed : queueAt (stateOf (spDesc 1)) (valOf (spDesc 1)) = some 1 ∧ spPlaced 1 = true ∧ (spawnS 1).uncorr = [] ∧
    NoCommandWrites (spawnS 1) ∧ ctlGet (spawnS 1) regAcrange = 0 :=
  ⟨by decide +kernel, by decide +kernel, by decide +kernel, no_commands _ (by decide +kernel), by decide +kernel⟩

theorem test_meets_Spawns_full : ∃ (s : State) (n : Nat) (e : QueueDesc), queueDesc s n = some e ∧ pendingRecords e.tail e.head = 2 ^ e.sz ∧ e.dev = true :=
  ⟨spawnS 2, 1, { ring := 0x40009000, dev := true, md := 0, weight := 1, cls := 0, sz := 1, tail := 2, head := 0 }, by decide +kernel, by decide, rfl⟩

/-- The queue's ring lies where no memory is; the line of its descriptor's last entry is an engine's. -/
def spLost : State := withMem (spawnS 1) 0x8040 (dwords [0xC000000000])
def spOwned : State := { spawnS 1 with cmds := [{ owner with owned := [(0x40009080, 128)] }] }

theorem test_meets_Spawns_lost : (match submitTo spLost 1 0 true with
    | .noEntry _ => true
    | _ => false) = true ∧ (match submitTo spOwned 1 0 true with
    | .owned => true
    | _ => false) = true ∧ CanTrap spLost :=
  ⟨by decide +kernel, by decide +kernel, can_trap _ (by decide +kernel)⟩

theorem test_meets_Spawns_refused : queueAt base [0x40000001] = none ∧ queueDesc base 0 = none := ⟨by decide +kernel, by decide +kernel⟩

theorem test_meets_Halts : ∃ (s : State) (id : BitVec 32) (k : Task), s.th.task = some id ∧ curTask s = some k ∧ s.th.viq = [] ∧ FillsRead s ∧
    NoOwnStores s ∧ ∀ m ∈ s.tasks, m.base = k.base → m = k :=
  ⟨base, 1, _, rfl, rfl, rfl, fills_read _ (by decide +kernel), no_stores _ rfl, by decide +kernel⟩

theorem test_meets_Halts_trap : ∃ (s : State) (id : BitVec 32) (k : Task), s.th.task = some id ∧ curTask s = some k ∧ s.th.trap.mode = true :=
  ⟨trapped, 1, _, rfl, rfl, rfl⟩
/-! Ranges that are reached whole, without listing their bytes. -/

theorem bytesOfNat_len (n v : Nat) : (bytesOfNat n v).length = n := by
  induction n generalizing v with
  | zero => rfl
  | succ n ih => simp [bytesOfNat, ih]

theorem dwords_len (xs : List Nat) : (dwords xs).length = 8 * xs.length := by
  induction xs with
  | nil => rfl
  | cons x xs ih =>
    simp only [dwords, List.flatMap_cons, List.length_append, bytesOfNat_len, List.length_cons] at ih ⊢
    omega

def piecesOk (c : Ctx) (acc : Access) : List (Nat × Nat) → State → Bool
  | [], _ => true
  | (a, _) :: rest, s =>
    decide (a % 2 ^ 64 < 2 ^ 56) && !isWindow (a % 2 ^ 64) &&
    match translateVa s c.core (recAspace c.launch) (a % 2 ^ 64) acc c.trapMode (c.draw.getD s.free) with
    | (.at _ _, s) => piecesOk c acc rest { s with free := s.free + 1 }
    | _ => false

theorem reachPiece_at {c : Ctx} {acc : Access} {a m pa pte : Nat} {s u : State} (h1 : a < 2 ^ 56) (h2 : isWindow a = false)
    (h3 : translateVa s c.core (recAspace c.launch) a acc c.trapMode (c.draw.getD s.free) = (.at pa pte, u)) :
    reachPiece c acc a m s = ((List.range m).map fun i => .ok (pa + i), { u with free := u.free + 1 }) := by
  unfold reachPiece
  rw [if_neg (Nat.not_le.mpr h1), h2, h3]
  rfl

theorem reachPieces_ok (c : Ctx) (acc : Access) (xs : List (Nat × Nat)) (s : State) (h : piecesOk c acc xs s = true) :
    ∀ r ∈ (reachPieces c acc xs s).1, ∃ p, r = .ok p := by
  induction xs generalizing s with
  | nil => simp [reachPieces]
  | cons x xs ih =>
    obtain ⟨a, m⟩ := x
    simp only [piecesOk, Bool.and_eq_true, decide_eq_true_eq, Bool.not_eq_true'] at h
    obtain ⟨⟨h1, h2⟩, h3⟩ := h
    split at h3
    · rename_i pa pte u hu
      simp only [reachPieces, reachPiece_at h1 h2 hu]
      intro r hr
      rcases List.mem_append.mp hr with hr | hr
      · obtain ⟨i, _, rfl⟩ := List.mem_map.mp hr
        exact ⟨_, rfl⟩
      · exact ih _ h3 r hr
    · cases h3

theorem allPlaces_some (rs : List Reached) (h : ∀ r ∈ rs, ∃ p, r = .ok p) : (allPlaces rs).isSome = true := by
  induction rs with
  | nil => rfl
  | cons r rs ih =>
    obtain ⟨p, rfl⟩ := h r (List.mem_cons_self ..)
    have := ih fun r hr => h r (List.mem_cons_of_mem _ hr)
    obtain ⟨qs, hq⟩ := Option.isSome_iff_exists.mp this
    simp only [allPlaces] at hq
    simp [allPlaces, Reached.place, hq]

theorem writeSave_done (s : State) (t : Task) (sv : Word) (image : List Byte) (n : Nat) (hl : image.length = n)
    (hp : piecesOk (taskCtx t (coreOf s.th)) .write (reachSplit sv.toNat n) s = true)
    (hr : ((reachPieces (taskCtx t (coreOf s.th)) .write (reachSplit sv.toNat n) s).2.cmds.isEmpty &&
      memReady (reachPieces (taskCtx t (coreOf s.th)) .write (reachSplit sv.toNat n) s).2) = true) :
    ∃ u, writeSave s t sv image = .done u := by
  have ha := allPlaces_some _ (reachPieces_ok _ _ _ _ hp)
  obtain ⟨ps, hps⟩ := Option.isSome_iff_exists.mp ha
  simp only [Bool.and_eq_true] at hr
  have hw : ∀ qs, mustWait (reachPieces (taskCtx t (coreOf s.th)) .write (reachSplit sv.toNat n) s).2 qs = false := by
    intro qs
    simp [mustWait, awaitOwned, hr.1, hr.2]
  simp only [writeSave, reachBytes, hl, hps, hw, Bool.false_eq_true, if_false]
  exact ⟨_, rfl⟩

theorem fitTo_len (n : Nat) (xs : List Nat) : (fitTo n xs).length = n := by simp [fitTo]

theorem flatMap_len {α β : Type} (xs : List α) (g : α → List β) (n : Nat) (h : ∀ x, (g x).length = n) : (xs.flatMap g).length = n * xs.length := by
  induction xs with
  | nil => simp
  | cons x xs ih => simp only [List.flatMap_cons, List.length_append, h, ih, List.length_cons]; rw [Nat.mul_succ]; omega

/-- A save without lane groups is 0x22000 bytes long (R438). -/
theorem saveImage_len (th : Thread) (t : Task) (pc vcp : BitVec 56) (h : onesBelow 16 th.lanes.gmap.toNat = []) :
    (saveImage th t true pc vcp).length = 139264 := by
  have h1 : (saveHeader th t true pc vcp).length = 16 := by simp [saveHeader]
  have h2 : (saveCsrs th t).length = 16 := by simp [saveCsrs]
  have h3 := flatMap_len th.q.toList (fun q : List QEntry => fitTo 32 (q.flatMap queueRecord)) 32 fun _ => fitTo_len 32 _
  simp only [saveImage, List.length_append, dwords_len, h1, h2, h3, fitTo_len, shareImage, bytesOfNat_len, h, List.length_replicate, List.length_cons, List.length_map,
    List.length_range, Vector.length_toList, if_true, List.flatMap_nil, List.length_nil]

theorem saveMember_done (s : State) (t : Task) (pc : BitVec 56) (h1 : curTask s = some t) (h2 : arriveAll s = some s)
    (h3 : ¬ (recSave t.launch = 0 ∨ (recSave t.launch).toNat % 128 ≠ 0 ∨ isWindow (recSave t.launch).toNat ∨
      recSavesz t.launch < saveSize true (laneCount s.th.lanes.gmap))) (h4 : onesBelow 16 s.th.lanes.gmap.toNat = [])
    (hp : piecesOk (taskCtx t (coreOf s.th)) .write (reachSplit (recSave t.launch).toNat 139264) s = true)
    (hr : ((reachPieces (taskCtx t (coreOf s.th)) .write (reachSplit (recSave t.launch).toNat 139264) s).2.cmds.isEmpty &&
      memReady (reachPieces (taskCtx t (coreOf s.th)) .write (reachSplit (recSave t.launch).toNat 139264) s).2) = true) :
    ∃ u, saveMember true pc s = .done u := by
  obtain ⟨u, hu⟩ := writeSave_done s t (recSave t.launch) _ _ (saveImage_len s.th t pc (vcpOf { s.th with pc := pc.setWidth 64 }) h4) hp hr
  have hl : laneWords s (coreOf s.th) s.th.lanes.gmap = [] := by simp [laneWords, h4]
  have hc : countRead s [] = s := by simp [countRead, countCorr, badWords]
  simp only [saveMember, h1, h2, if_neg h3, if_true, hl, hc, hu]
  exact ⟨_, rfl⟩


/-! ### Hypotheses that some state meets: events -/

theorem test_meets_RegisterEvents_lmode : ∃ s : State, s.cmds = [] := ⟨base, rfl⟩

/-- Drive slot 3 with queues of 2^12 entries and blocks of 4 KiB. -/
def driveS : State := ctlSet (ctlSet base (regDrv + 96 + 8) 12) (regDrv + 96 + 24) (12 * 2 ^ 16)

theorem test_meets_RegisterEvents_drive : ∃ (n : BitVec 2) (s : State), s.cmds = [] ∧ 2 ≤ slotField s n.toNat 1 0 4 ∧ slotField s n.toNat 1 0 4 ≤ 12 ∧
    (slotField s n.toNat 3 16 8 = 9 ∨ slotField s n.toNat 3 16 8 = 12) :=
  ⟨3, driveS, by decide +kernel, by decide +kernel, by decide +kernel, by decide +kernel⟩

theorem test_meets_RegisterEvents_write : ∃ (o o' o'' : BitVec 24) (m : Nat) (x : Word), base.posted = [] ∧ plainBits o.toNat = some m ∧ o'.toNat % 8 ≠ 0 ∧
    limitedValue o''.toNat 300 = some x ∧ x = 256 :=
  ⟨0x060140, 0x060144, 0x000108, _, _, rfl, rfl, by decide, rfl, by decide⟩

theorem test_meets_RegisterEvents_posted : ∃ (s : State) (x : HostPost), s.posted = [x] ∧ x.order = some 0 ∧ postReady { s with posted := [] } x = false :=
  ⟨{ base with posted := [{ ws := [(2 ^ 30 + 64, 7)] }], cmds := [owner] }, _, rfl, rfl, by decide +kernel⟩

/-- A mailbox command in progress, and a buffer of `n` bytes at 2^30 + 0x10000. -/
def mailS (v : BitVec 8) (n : Nat) : State :=
  ctlSet (ctlSet { base with hkc := { base.hkc with busy := some v } } regMbbuf 0x40010000) regMblen (BitVec.ofNat 64 n)

theorem test_meets_MailboxEvents_command : ∃ (i : Instr) (v : BitVec 8) (s : State), mailboxCommand i = some v ∧ s.hkc.busy = none :=
  ⟨.mbBadCommand 6, 6, base, rfl, rfl⟩

theorem test_meets_MailboxEvents_idle : ∃ s s5 s6 : State, s.hkc.busy = none ∧ s5.hkc.busy = some 5 ∧ s6.hkc.busy = some 6 := ⟨base, mailS 5 0, mailS 6 0, rfl, rfl, rfl⟩

theorem test_meets_MailboxEvents_buffer : ∃ (s s1 : State) (v : BitVec 8), s.hkc.busy = some v ∧ 1 ≤ v.toNat ∧ v.toNat ≤ 4 ∧ memReady s = true ∧
    NoCommandWrites s ∧ mailboxBytes s = (none, s1) :=
  have h : (mailboxBytes (mailS 4 (2 ^ 26 + 1))).1 = none := by decide +kernel
  ⟨mailS 4 (2 ^ 26 + 1), _, 4, rfl, by decide, by decide, by decide +kernel, no_commands _ rfl, (Prod.eta _).symm.trans (by rw [h])⟩

theorem span_of (f : Nat → Nat → Bool) (p n : Nat) (h : (List.range n).all (fun i => f p (p + i)) = true) : ∀ q ∈ span p n, f p q = true := by
  intro q hq
  simp only [span, List.mem_map] at hq
  obtain ⟨i, hi, rfl⟩ := hq
  exact List.all_eq_true.mp h i hi

theorem mailbox_zeros (v : BitVec 8) (n : Nat) (h : (match (mailboxBytes (mailS v n)).1 with
    | some bs => decide (bs = List.replicate n 0)
    | none => false) = true) : mailboxBytes (mailS v n) = (some (List.replicate n 0), (mailboxBytes (mailS v n)).2) := by
  rcases hb : mailboxBytes (mailS v n) with ⟨b, s1⟩
  rw [hb] at h
  cases b with
  | none => cases h
  | some bs => rw [of_decide_eq_true h]

theorem test_meets_MailboxEvents_verify : ∃ (s s1 : State) (bs : List Byte), memReady s = true ∧ NoCommandWrites s ∧ mailboxBytes s = (some bs, s1) ∧ 96 ≤ bs.length ∧
    s.hkc.busy = some 2 :=
  ⟨mailS 2 96, _, _, by decide +kernel, no_commands _ rfl, mailbox_zeros 2 96 (by decide +kernel), by decide, rfl⟩

theorem test_meets_MailboxEvents_image : ∃ (s s1 : State) (bs : List Byte), memReady s = true ∧ NoCommandWrites s ∧ mailboxBytes s = (some bs, s1) ∧
    s.hkc.busy = some 4 :=
  ⟨mailS 4 8, _, _, by decide +kernel, no_commands _ rfl, mailbox_zeros 4 8 (by decide +kernel), rfl⟩

theorem test_meets_MailboxEvents_tag : ∃ (s s1 : State) (bs : List Byte), memReady s = true ∧ NoCommandWrites s ∧ mailboxBytes s = (some bs, s1) ∧ 96 ≤ bs.length ∧
    s.hkc.busy = some 1 ∧ ctlGet s regAcrange = 0 ∧ s.uncorr = [] ∧ ∀ n, PlainPlaces s (span (mailboxBase s + (bs.length - 32)) n) :=
  ⟨mailS 1 96, _, _, by decide +kernel, no_commands _ rfl, mailbox_zeros 1 96 (by decide +kernel), by decide, rfl, by decide +kernel, rfl, fun _ q _ => plain_bytes _ (by decide +kernel) q⟩

/-- A buffer that holds ATTEST's report. -/
def reportS : State := mailS 3 29968

theorem report_bytes : mailboxBytes reportS = (some (((List.range 29968).map (0x40010000 + ·)).map (memByte reportS)),
    countRead reportS ((List.range 29968).map (0x40010000 + ·))) := by
  have h1 : (ctlGet reportS regMblen).toNat = 29968 := by decide +kernel
  have h2 : mailboxBase reportS = 0x40010000 := by decide +kernel
  have h3 : regionPresent reportS 1 = true := by decide +kernel
  have h4 : (((List.range 29968).map (0x40010000 + ·)).all fun p => isDevice p && physPresent reportS p) = true := by
    simp only [List.all_eq_true, List.mem_map, List.mem_range, Bool.and_eq_true]
    rintro p ⟨i, hi, rfl⟩
    have h5 : (0x40010000 + i) / 2 ^ 30 = 1 := by omega
    have h6 : isDevice (0x40010000 + i) = true := decide_eq_true (by omega)
    exact ⟨h6, by rw [physPresent, if_pos h6, h5]; exact h3⟩
  have h7 : reportS.uncorr.isEmpty = true := by decide +kernel
  simp only [mailboxBytes, h1, h2, if_neg (by decide : ¬ 2 ^ 26 < 29968)]
  rw [if_pos h4]
  simp only [quietRead, units_none _ _ (show reportS.pending = [] by decide +kernel), firstUncorr, if_pos h7, Option.isSome_none, Bool.false_eq_true,
    if_false]

theorem test_meets_MailboxEvents_report : ∃ (s s1 : State) (bs : List Byte), memReady s = true ∧ NoCommandWrites s ∧ mailboxBytes s = (some bs, s1) ∧ 29968 ≤ bs.length ∧
    s.hkc.busy = some 3 ∧ ctlGet s regAcrange = 0 ∧ s.uncorr = [] ∧ ∀ n, PlainPlaces s (span (mailboxBase s + 0) n) :=
  ⟨reportS, _, _, by decide +kernel, no_commands _ (by decide +kernel), report_bytes, by simp only [List.length_map, List.length_range]; exact Nat.le_refl _, by decide +kernel, by decide +kernel,
    by decide +kernel, fun _ q _ => plain_bytes _ (by decide +kernel) q⟩

theorem test_meets_MailboxEvents_short : ∃ (s s1 : State) (bs : List Byte), memReady s = true ∧ NoCommandWrites s ∧ mailboxBytes s = (some bs, s1) ∧ bs.length < 96 ∧
    (s.hkc.busy = some 1 ∨ s.hkc.busy = some 2) :=
  ⟨mailS 2 95, _, _, by decide +kernel, no_commands _ rfl, mailbox_zeros 2 95 (by decide +kernel), by decide, .inr rfl⟩

theorem host_open (s : State) (ps : List Nat) (h : (ps.all (fun p => isDevice p && physPresent s p) && memReady s && !ps.any (isOwned s) && s.uncorr.isEmpty &&
    ctlGet s regAcrange == 0 && s.pending.isEmpty) = true) : HostOpen s ps := by
  simp only [Bool.and_eq_true, List.all_eq_true, List.isEmpty_iff, beq_iff_eq, Bool.not_eq_true'] at h
  obtain ⟨⟨⟨⟨⟨h1, h2⟩, h3⟩, h4⟩, h5⟩, h6⟩ := h
  exact ⟨h1, h2, h3, h4, h5, by simp [h6]⟩

theorem test_meets_MemoryEvents_write : ∃ (h : HostPlace) (p : Nat) (bs : List Byte) (s : State), h.ha.toNat = s.hdmBase + p ∧ s.posted = [] ∧
    HostOpen s (span p bs.length) ∧ PlainPlaces s (span p bs.length) ∧ bs.length = 3 ∧ h.way = .cxlMem :=
  ⟨{ ha := 0x8000007F, way := .cxlMem }, 0x4000007F, [1, 2, 3], { base with hdmBase := 2 ^ 30 }, by decide, rfl, host_open _ _ (by decide +kernel), plain _ _ (by decide +kernel), rfl, rfl⟩

theorem test_meets_MemoryEvents_waits : ∃ (h : HostPlace) (p : Nat) (bs : List Byte) (s : State), h.ha.toNat = s.hdmBase + p ∧ s.posted = [] ∧
    (∀ q ∈ span p bs.length, isDevice q = true ∧ physPresent s q = true) ∧ mustWait s (span p bs.length) = true :=
  ⟨{ ha := 0x40000040, way := .posted 2 }, 0x40000040, [1], { base with cmds := [owner] }, by decide, rfl, by decide +kernel, by decide +kernel⟩

theorem test_meets_MemoryEvents_host : ∃ (pa : BitVec 52) (bs : List Byte) (s : State), (∀ p ∈ span pa.toNat bs.length, isHost p = true) ∧ s.cmds = [] ∧
    s.posted = [] ∧ s.uncorr = [] ∧ ctlGet s regAcrange = 0 ∧ NoCommandWrites s ∧ bs.length = 2 :=
  ⟨0x8000000000000, [1, 2], base, by decide +kernel, rfl, rfl, rfl, by decide +kernel, no_commands _ rfl, rfl⟩

theorem test_meets_MemoryEvents_read : ∃ (ha : BitVec 52) (p n : Nat) (s : State), ha.getLsbD 51 = false ∧ ha.toNat = s.hdmBase + p ∧ s.posted = [] ∧
    HostOpen s (span p n) ∧ NoMarks s (span p n) ∧ n = 4 :=
  ⟨0xBFFFFFFFFC, 0xBFFFFFFFFC, 4, base, by decide, by decide, rfl, host_open _ _ (by decide +kernel), no_marks _ _ rfl, rfl⟩

theorem test_meets_MemoryEvents_absent : ∃ (pa : BitVec 52) (bs : List Byte) (s : State), pa.getLsbD 51 = false ∧
    (pa.toNat < s.hdmBase ∨ ∃ p ∈ span (pa.toNat - s.hdmBase) bs.length, isDevice p = false ∨ physPresent s p = false) ∧
    ∃ p ∈ span pa.toNat bs.length, isHost p = false :=
  ⟨0xC000000000, [0], base, by decide, .inr ⟨0xC000000000, by decide +kernel, by decide +kernel⟩, ⟨0xC000000000, by decide +kernel, by decide +kernel⟩⟩

/-- TLOAD of a leased row stands at the head of the VIQ, its unit with the given runs on pseudo-channel 0. -/
def runS (rs : List PcRun) : State := withTh slots fun t => { t with viq := [{ entryOf (.tload fSlots) 0 slots with runs := rs }] }

theorem test_meets_MemoryEvents_boundary : ∃ (s : State) (p : BitVec 9), s.revoking = [] ∧ (∀ th ∈ threads s, ∀ r ∈ runsOf th, r.pc ≠ p.toNat) ∧
    8 ≤ smGet s.debt p.toNat :=
  ⟨{ base with debt := [(3, 9)] }, 3, rfl, by decide +kernel, by decide +kernel⟩

theorem test_meets_MemoryEvents_debt : ∃ (s : State) (p : BitVec 9) (n : Nat) (r : PcRun), s.revoking = [] ∧ runAt s p.toNat = some (n, r) ∧ 8 ≤ smGet s.debt p.toNat :=
  ⟨{ runS [{ pc := 0, ready := 0, left := 1 }] with debt := [(0, 8)] }, 0, 0, _, rfl, rfl, by decide +kernel⟩

/-- What the boundary of pseudo-channel 0 leaves of the unit's run in progress. -/
def endedRun (s : State) : State :=
  onThread s 0 (withRun 0 fun x => if x.running then { x with running := false, left := x.left - 1, ready := s.free } else x)

theorem test_meets_MemoryEvents_start : ∃ (s : State) (n m : Nat) (r r' : PcRun), s.revoking = [] ∧ runAt s 0 = some (n, r) ∧ smGet s.debt 0 < 8 ∧
    runAt (endedRun s) 0 = some (m, r') ∧ mayRun (endedRun s) r' = true :=
  ⟨runS [{ pc := 0, ready := 0, left := 2, running := true, started := true }], 0, 0, _, _, rfl, rfl, by decide +kernel, rfl, by decide +kernel⟩

theorem test_meets_MemoryEvents_last : ∃ (s : State) (n m : Nat) (r r' : PcRun), s.revoking = [] ∧ runAt s 0 = some (n, r) ∧ smGet s.debt 0 < 8 ∧
    runAt (endedRun s) 0 = some (m, r') ∧ mayRun (endedRun s) r' = false :=
  ⟨runS [{ pc := 0, ready := 0, left := 1, running := true, started := true }], 0, 0, _, _, rfl, rfl, by decide +kernel, rfl, by decide +kernel⟩

theorem test_meets_MemoryEvents_init : ∃ s : State, ctlGet s regMcfg = 1 := ⟨ctlSet base regMcfg 1, by decide +kernel⟩

/-- An invalidation of all of address space 1 in progress, held by the lease of task 1, for longer than LEASEMAX. -/
def invS (h : Bool) : State :=
  { ctlSet bankS regTlbinv (BitVec.ofNat 64 (2 ^ 63 + (if h then 2 ^ 62 else 0) + 2 ^ 48 + 2 ^ 32)) with holdOut := h }

/-- The same without a lease. -/
def invFree : State := ctlSet base regTlbinv (BitVec.ofNat 64 (2 ^ 63 + 2 ^ 48 + 2 ^ 32))

theorem test_meets_TranslationEvents_complete : ∃ s : State, (ctlGet s regTlbinv).getLsbD 63 = true ∧ tlbHolders s ≠ [] :=
  ⟨invS false, by decide +kernel, by decide +kernel⟩

theorem test_meets_TranslationEvents_quiet : ∃ s : State, (ctlGet s regTlbinv).getLsbD 63 = true ∧ tlbHolders s = [] ∧
    s.pending = [] ∧ ∀ th ∈ threads s, (∀ q ∈ th.q.toList, ∀ e ∈ q, e.src = []) ∧ ∀ e ∈ th.viq, e.els = [] :=
  ⟨invFree, by decide +kernel, by decide +kernel, rfl, by decide +kernel⟩

theorem test_meets_TranslationEvents_stores : ∃ s : State, (ctlGet s regTlbinv).getLsbD 63 = true ∧ tlbHolders s = [] ∧
    (performAll (tlbRecheck s)).pending ≠ [] :=
  ⟨{ invFree with pending := [store7 none], cmds := [owner] }, by decide +kernel, by decide +kernel, by decide +kernel⟩

theorem test_meets_TranslationEvents_boundary : ∃ (k : BitVec 32) (p : BitVec 9) (s : State), s.revoking = [(k, p.toNat)] ∧ k ∈ tlbHolders s ∧
    ∀ th ∈ threads s, runsOf th = [] :=
  ⟨1, 0, { invS true with revoking := [(1, 0)] }, rfl, by decide +kernel, by decide +kernel⟩

theorem test_meets_TranslationEvents_unit : ∃ (k : BitVec 32) (p : BitVec 9) (s : State), s.revoking = [(k, p.toNat)] ∧
    ∃ th ∈ threads s, (∃ r ∈ runsOf th, r.started = true) ∧ ∃ r ∈ runsOf th, r.pc = p.toNat :=
  ⟨1, 0, { runS [{ pc := 0, ready := 0, left := 1, running := true, started := true }] with revoking := [(1, 0)] }, rfl,
    _, List.mem_cons_self .., ⟨_, List.mem_cons_self .., rfl⟩, _, List.mem_cons_self .., rfl⟩

theorem test_meets_TranslationEvents_revoke : ∃ (k : BitVec 32) (s : State), (ctlGet s regTlbinv).getLsbD 62 = true ∧ s.holdOut = true ∧ k ∈ tlbHolders s :=
  ⟨1, invS true, by decide +kernel, rfl, by decide +kernel⟩

/-- The thread waits for a page, its record not yet written; the queue at 2^30 + 0x7000 has room. -/
def waitP : FsWait := { va := 0x41000000, write := true, fetch := false, pin := false }

def serviceS : State := ctlSet (withTh base fun t => { t with fsw := some waitP, stall := true }) regFsqbase 0x40007003

theorem test_meets_TranslationEvents_reply : ∃ (i : Instr) (tag : BitVec 32) (a : Option Bool) (s : State), replyOf i = some (tag, a) ∧
    s.fsRecs.any (fun r => r.tag == tag) = true ∧ repliedWait tag a s.th.fsw ≠ s.th.fsw :=
  ⟨.fsreplyFault 0, 0, _, withTh { base with fsRecs := [{ tag := 0, aspace := 1, page := 0x4100, write := true, module := 0 }] }
    fun t => { t with fsw := some { waitP with tag := some 0 } }, rfl, rfl, by decide⟩

theorem test_meets_TranslationEvents_record : ∃ (n : Nat) (s s1 : State) (k : Task) (w : FsWait), switchTo s n = some s1 ∧ s1.stopped = false ∧ curTask s1 = some k ∧
    s1.th.fsw = some w ∧ w.tag = none ∧ w.answer = none :=
  ⟨0, serviceS, serviceS, _, waitP, rfl, rfl, rfl, rfl, rfl, rfl⟩

theorem test_meets_TranslationEvents_write : ∃ s : State, (ctlGet s regFsqbase).toNat % 2 ^ 5 ≠ 0 ∧ s.fsRecs = [] ∧
    (ctlGet s regFsqtail).toNat - (ctlGet s regFsqhead).toNat ≠ 2 ^ ((ctlGet s regFsqbase).toNat % 2 ^ 5) ∧ (ctlGet s regFsqtail).toNat + 1 < 2 ^ 64 ∧
    (∀ p ∈ span 0x40007000 32, physPresent s p = true) ∧ PlainPlaces s (span 0x40007000 32) ∧ s.uncorr = [] ∧ ctlGet s regAcrange = 0 ∧
    (ctlGet s regFsqbase).toNat / 2 ^ 12 * 2 ^ 12 + 32 * ((ctlGet s regFsqtail).toNat % 2 ^ ((ctlGet s regFsqbase).toNat % 2 ^ 5)) = 0x40007000 :=
  ⟨serviceS, by decide +kernel, rfl, by decide +kernel, by decide +kernel, by decide +kernel, plain _ _ (by decide +kernel), rfl, by decide +kernel, by decide +kernel⟩

theorem test_meets_SchedulingEvents_idle : ∃ s : State, memReady s = false := ⟨State.reset, by decide +kernel⟩

theorem test_meets_SchedulingEvents_round : ∃ (m : BitVec 2) (s : State), s.stopped = false ∧ memReady s = true ∧ modulePresent s m.toNat = true ∧ s.queues = [] ∧
    ctlGet s regAcrange = 0 ∧ NoCommandWrites s ∧ ∀ k ∈ s.tasks, k.zeroing = [] ∧ ∀ b g, k.status ≠ .saved b g :=
  ⟨3, base, rfl, by decide +kernel, by decide +kernel, rfl, by decide +kernel, no_commands _ rfl, fun k hk => by
    have h1 : ∀ k ∈ base.tasks, k.zeroing = [] ∧ k.status = .running := by decide +kernel
    refine ⟨(h1 k hk).1, fun b g h => ?_⟩
    rw [(h1 k hk).2] at h
    cases h⟩

/-- A queue whose head record may run: one lane group wanted, entry at 0x100. -/
def readyRecord : BitVec 1024 := BitVec.ofNat 1024 (0x100 + 2 ^ (8 * 0x18 + 48) + 2 ^ (8 * 0x20 + 24) + 2 ^ (8 * 0x28 + 16) + 2 ^ (8 * 0x28))

def headS : State :=
  { withMem (spawnS 1) 0x9000 (bytesOfNat 128 readyRecord.toNat) with queues := [{ q := 1, tail := 1, checked := some readyRecord }] }

def headS1 : State := { headS with disp := smSet headS.disp 0 { smGet headS.disp 0 with rounds := (smGet headS.disp 0).rounds + 1 } }
def headS0 : State := (roundQueues headS1 0).foldl noteDesc headS1

def headD : QueueDesc := { ring := 0x40009000, dev := true, md := 0, weight := 1, cls := 0, sz := 1, tail := 1, head := 0 }

theorem test_meets_SchedulingEvents_dispatch : ∃ (k : Task) (n : Nat), headS.stopped = false ∧ memReady headS = true ∧ modulePresent headS 0 = true ∧
    servedQueues headS0 0 = [({ q := 1, tail := 1, checked := some readyRecord }, headD)] ∧ (∀ k ∈ headS.tasks, k.zeroing = [] ∧ k.status = .running) ∧ placeRecord headS0 0 1 headD.head readyRecord = some [(k, n)] :=
  ⟨{ id := 257, base := 257, launch := readyRecord, queue := 1, core := 0 }, 1, by decide +kernel, by decide +kernel, by decide +kernel, by decide +kernel, by decide +kernel, by decide +kernel⟩

/-- A host's queue with a record waiting, and one of the device. -/
def bellS : State := withMem (spawnS 1) 0x8040 (dwords [0x40009000, 2 ^ 24 + 1])

theorem test_meets_SchedulingEvents_bell : ∃ (q : BitVec 18) (s : State) (d : QueueDesc), queueDesc s q.toNat = some d ∧ d.dev = false ∧ ctlGet s regAcrange = 0 ∧ NoCommandWrites s ∧
    d.tail ≠ d.head :=
  ⟨1, bellS, { headD with dev := false }, by decide +kernel, rfl, by decide +kernel, no_commands _ (by decide +kernel), by decide⟩

theorem test_meets_SchedulingEvents_ending : ∃ (x : Ending) (s : State), s.stopped = false ∧ s.endings.find? (fun e => e.key == x.key) = some x ∧ x.submit = none ∧
    recNsucc x.launch ≤ x.next ∧ recSlot x.launch = 0 ∧ x.id ≠ 0 ∧ s.pending = [] :=
  ⟨{ key := 4, id := 9, launch := placedRecord, status := 0, core := 0 }, { base with endings := [{ key := 4, id := 9, launch := placedRecord, status := 0, core := 0 }] },
    rfl, rfl, rfl, by decide +kernel, by decide +kernel, by decide, rfl⟩

theorem test_meets_SchedulingEvents_abort : ∃ (id : BitVec 32) (s : State) (k : Task), findTask s id = some k ∧
    (∀ m ∈ s.tasks, m.base = k.base → m.status ≠ .ended 0x20) ∧ (∀ st, k.status ≠ .ended st) ∧ (threadOf s id).any appending = false :=
  ⟨1, base, { id := 1, base := 1, launch := placedRecord }, by decide +kernel, by decide +kernel, (fun st h => by cases h), by decide +kernel⟩

/-- An append has reserved its entries; the line of its descriptor is an engine's. -/
def reservedS : State :=
  { withTh ring fun t => { t with viq := [{ entryOf (.vcapp fRing) 0 ring with reserved := some (6, 4) }] } with
    cmds := [{ owner with owned := [(2 ^ 30 + 0x40000, 128)] }] }

theorem test_meets_SchedulingEvents_reserved : ∃ (id : BitVec 32) (s : State) (k : Task) (th : Thread), findTask s id = some k ∧
    (∀ m ∈ s.tasks, m.base = k.base → m.status ≠ .ended 0x20) ∧ (∀ st, k.status ≠ .ended st) ∧ threadOf s id = some th ∧ appending th = true ∧
    (threadOf (onThread s th.id drainTurn) id).any appending = true := by
  have h := some_of (o := threadOf reservedS 1) (by decide +kernel)
  refine ⟨1, reservedS, { id := 1, base := 1, launch := placedRecord }, _, by decide +kernel, by decide +kernel, (fun st h => by cases h), h, by decide +kernel, by decide +kernel⟩

theorem test_meets_SchedulingEvents_gang : ∃ (id : BitVec 32) (s : State) (k : Task), findTask s id = some k ∧
    (∃ m ∈ s.tasks, m.base = k.base ∧ m.status = .ended 0x20) ∧ ∀ m ∈ s.tasks, m.base = k.base → (threadOf s m.id).any appending = false :=
  ⟨1, gang2 false (.ended 0x20), _, rfl, by decide +kernel, by decide +kernel⟩

theorem test_meets_SchedulingEvents_grace : ∃ (n : Nat) (s s1 : State) (id : BitVec 32), switchTo s n = some s1 ∧ s1.stopped = false ∧ s1.th.task = some id ∧
    s1.th.trap.mode = false ∧ pendingRequest s1 = true :=
  ⟨0, { base with tasks := [{ id := 1, base := 1, launch := placedRecord, pend := true }] }, _, 1, rfl, rfl, rfl, rfl, by decide +kernel⟩

/-- A task that can be saved: SAVE at 0x20000, with room. -/
def saveRecord : BitVec 1024 := placedRecord + BitVec.ofNat 1024 (0x20000 * 2 ^ (8 * 0x50) + 0x100000 * 2 ^ (8 * 0x58))
def saveTask : Task := { id := 1, base := 1, launch := saveRecord }
def saveS : State := { base with tasks := [saveTask] }

theorem test_meets_SchedulingEvents_save : ∃ (s u : State) (id : BitVec 32) (k : Task), s.th.task = some id ∧ curTask s = some k ∧
    saveMember true 0 s = .done u := by
  have h1 : curTask saveS = some saveTask := by decide +kernel
  obtain ⟨u, hu⟩ := saveMember_done saveS saveTask 0 h1 (by decide +kernel) (by decide +kernel) (by decide +kernel) (by decide +kernel) (by decide +kernel)
  exact ⟨saveS, u, 1, saveTask, by decide +kernel, h1, hu⟩

theorem test_meets_SchedulingEvents_lanes : ∃ (n : Nat) (s : State) (th : Thread), (threads s).find? (fun x => x.id == n) = some th ∧ th.wait = some .setvl :=
  ⟨0, withTh base fun t => { t with wait := some .setvl }, _, rfl, rfl⟩

theorem test_meets_ThreadEvents_bar : ∃ (n : Nat) (s s1 : State) (id : BitVec 32) (k : Task), switchTo s n = some s1 ∧ s1.stopped = false ∧ Undisturbed s1 ∧ s1.th.wait = some .bar ∧
    s1.th.task = some id ∧ curTask s1 = some k ∧ (∀ m ∈ s1.tasks, m.id = id → m = k) ∧
    ∀ m ∈ s1.tasks, m.base = k.base → (k.barK.toNat + 1 ≤ m.barK.toNat ∨ (m.arrived = true ∧ m.barK = k.barK)) :=
  ⟨0, withTh { base with tasks := [{ id := 1, base := 1, launch := placedRecord, arrived := true }] } fun t => { t with wait := some .bar }, _, 1, _, rfl, rfl, .inl rfl, rfl,
    rfl, rfl, by decide +kernel, by decide +kernel⟩

/-- The thread waits in WAITV s3, s4. -/
def waitS : State := withTh (State.reset.withFetchWord 32 (((encode (.waitv 3 4)).getD []).headD 0).toNat) fun t => { t with wait := some (.event (some 0)) }

theorem test_meets_ThreadEvents_wait : ∃ (n : Nat) (s s1 s2 : State) (left : Option Nat) (d tm : Reg), switchTo s n = some s1 ∧ s1.stopped = false ∧ Undisturbed s1 ∧
    s1.th.wait = some (.event left) ∧ left = some 0 ∧ fetchInstr s1 = .ok (.waitv d tm) s2 ∧ NotRecording s2 ∧ s2.th.latch = none ∧ CanTrap s2 :=
  ⟨0, waitS, waitS, _, _, 3, 4, rfl, rfl, .inl rfl, rfl, rfl, ok_is _ _ (by decide +kernel), not_recording _ (by decide +kernel), by decide +kernel, can_trap _ (by decide +kernel)⟩

theorem test_meets_ThreadEvents_due : ∃ (n : Nat) (s s1 : State), switchTo s n = some s1 ∧ s1.stopped = false ∧ s1.th.csr.wdogDue = true ∧ s1.th.trap.mode = false ∧
    s1.th.wait = some .bar :=
  ⟨0, withTh base fun t => { t with csr := { t.csr with wdogDue := true }, wait := some .bar }, _, rfl, rfl, rfl, rfl, rfl⟩

theorem test_meets_ThreadEvents_watchdog : ∃ (n : Nat) (s s1 : State), switchTo s n = some s1 ∧ s1.stopped = false ∧ s1.th.csr.wdogDue = true ∧ CanTrap s1 :=
  ⟨0, withTh base fun t => { t with csr := { t.csr with wdogDue := true } }, _, rfl, rfl, rfl, can_trap _ rfl⟩

/-- The thread waits in WAITC s3, s4, s0 at a slot that is done. -/
def pollS : State :=
  withMem (withRegs (withTh (State.reset.withFetchWord 32 (((encode (.waitc 3 4 0)).getD []).headD 0).toNat) fun t => { t with wait := some (.event none) })
    [(4, 0x18)]) 0x18 (dwords [2 ^ 63 + 5])

theorem test_meets_ThreadEvents_poll : ∃ (s s1 s2 : State) (i : Instr) (w : WaitOp), switchTo s 0 = some s1 ∧ s1.stopped = false ∧ Undisturbed s1 ∧ s1.th.wait = some (.event none) ∧
    fetchInstr s1 = .ok i s2 ∧ waitOp i s2 = some w ∧ ∃ s3, w.check s2 = .ok true s3 := by
  have h : fetchInstr pollS = .ok (.waitc 3 4 0) (stateOf (fetchInstr pollS)) := ok_is _ _ (by decide +kernel)
  have hw := some_of (o := waitOp (.waitc 3 4 0) (stateOf (fetchInstr pollS))) rfl
  exact ⟨pollS, pollS, _, _, _, by decide +kernel, by decide +kernel, .inl (by decide +kernel), by decide +kernel, h, hw, _, ok_is _ _ (by decide +kernel)⟩

theorem test_meets_ThreadEvents_arrival : ∃ (n : Nat) (s s1 : State) (q : BitVec 3) (e : QEntry) (es : List QEntry), switchTo s n = some s1 ∧ s1.stopped = false ∧
    s1.th.q[q.toNat] = e :: es ∧ e.arrived = false ∧ e.src = [] :=
  ⟨0, withTh vec fun t => { t with q := t.q.setIfInBounds 2 [{ entry4 with arrived := false }] }, _, 2, _, _, rfl, rfl, rfl, rfl, rfl⟩

/-! ### Hypotheses that some state meets: commands in progress -/

/-- A stream: descriptor at 0x10000, source at 0x11000 with the given bytes, ring of 64 KiB at 0x20000. -/
def stream0 : Stream := { desc := 0x10000, src := 0x11000, srclen := 24, ring := 0x20000, rsz := 16 }
def streamCmd : Cmd := { cmd1 (.xstrm f0) with prog := .stream stream0 }
def streamS (bs : List Byte) : State := { withMem base 0x11000 bs with cmds := [streamCmd] }
/-- A raw block of the bytes 0xA5 and 0x5A. -/
def streamRaw : List Byte := bytesOfNat 8 (2 ^ 8 + 2 * 2 ^ 24 + 0xFF * 2 ^ 56) ++ [0xA5, 0x5A]

def stHead (bs : List Byte) := engineRead (streamS bs) streamCmd 0x11000 8
def stBody := engineRead (stHead streamRaw).2 streamCmd 0x11008 2
def stAcq := readCons stBody.2 streamCmd stream0
def stCons := stAcq.getD (.error 0, stBody.2)
def stRing := writeRing stCons.2 streamCmd stream0 [0xA5, 0x5A]
def stPub := writeCounter stRing.2 streamCmd 0x10020 (bytesOfNat 8 2)

theorem live (s : State) (k : Cmd) (h1 : s.stopped = false) (h2 : s.cmds = [k]) : LiveCmd s k := ⟨h1, by simp [h2]⟩

theorem test_meets_CommandEvents_stream : ∃ (s s1 : State) (k : Cmd) (st : Stream) (hb : List Byte), LiveCmd s k ∧ k.prog = .stream st ∧ st.closing = false ∧
    st.taken + 8 ≤ st.srclen.toNat ∧ engineRead s k (st.src + BitVec.ofNat 64 st.taken) 8 = (.ok hb, s1) ∧ natOfBytes hb = 3 :=
  ⟨streamS [3], (stHead [3]).2, streamCmd, stream0, readVal (stHead [3]), live _ _ rfl rfl, rfl, rfl, by decide, read_ok _ (by decide +kernel), by decide +kernel⟩

theorem test_meets_CommandEvents_bad : ∃ (s s1 : State) (k : Cmd) (st : Stream) (hb : List Byte), LiveCmd s k ∧ k.prog = .stream st ∧ st.closing = false ∧
    st.taken + 8 ≤ st.srclen.toNat ∧ engineRead s k (st.src + BitVec.ofNat 64 st.taken) 8 = (.ok hb, s1) ∧ natOfBytes hb % 4 = 3 ∧ natOfBytes hb ≠ 3 :=
  ⟨streamS [7], (stHead [7]).2, streamCmd, stream0, readVal (stHead [7]), live _ _ rfl rfl, rfl, rfl, by decide, read_ok _ (by decide +kernel), by decide +kernel,
    by decide +kernel⟩

theorem test_meets_CommandEvents_block : LiveCmd (streamS streamRaw) streamCmd ∧ stHead streamRaw = (.ok (readVal (stHead streamRaw)), (stHead streamRaw).2) ∧
    natOfBytes (readVal (stHead streamRaw)) = 2 ^ 8 + 2 * 2 ^ 24 + 0xFF * 2 ^ 56 ∧ stream0.taken + 8 + 8 + 8 ≤ stream0.srclen.toNat ∧
    stBody = (.ok [0xA5, 0x5A], stBody.2) ∧ (([0xA5, 0x5A] : List Byte).foldl (· ^^^ ·) 0).toNat = 0xFF ∧
    decodeBlock 0 2 [0xA5, 0x5A] = some [0xA5, 0x5A] ∧ stAcq = some (.ok (readVal stCons), stCons.2) ∧
    stream0.prod + 2 ≤ natOfBytes (readVal stCons) + 2 ^ stream0.rsz ∧ stRing = (none, stRing.2) ∧ stPub = (none, stPub.2) := by
  have hb : readVal stBody = [0xA5, 0x5A] := by decide +kernel
  have h := read_ok stBody (by decide +kernel)
  rw [hb] at h
  exact ⟨live _ _ rfl rfl, read_ok _ (by decide +kernel), by decide +kernel, by decide, h, by decide, by decide, (getD_of stAcq _ (by decide +kernel)).trans (congrArg some (read_ok stCons (by decide +kernel))), by decide +kernel,
    wrote_ok _ (by decide +kernel), wrote_ok _ (by decide +kernel)⟩

/-- An all-gather of one rank: four bytes from 0x11000 to 0x12000. -/
def coll0 : Coll := { group := 5, op := 1, nrank := 1, rank := 0, dtype := 0, seq := 0, len := 4, send := [0x11000, 4 + 2 ^ 24 + 2 ^ 44, 0, 0]
                      recv := [0x12000, 4 + 2 ^ 24 + 2 ^ 44, 0, 0], handles := [0] }
def collCmd : Cmd := { cmd1 (.xcoll f0) with prog := .coll coll0 }
def collS : State := { base with cmds := [collCmd] }
def coRead := tdReach (cmdCtx collCmd) .read coll0.send collS
def coWrite := tdReach (cmdCtx collCmd) .write coll0.recv (readSend (collCmd, coll0) collS).2

theorem test_meets_CommandEvents_coll : ∃ (s s1 s2 : State) (k : Cmd) (co : Coll) (rs ds : List Reached) (qs ps : List Nat), s.stopped = false ∧
    openColls s = [(k, co)] ∧ co.nrank = 1 ∧ co.rank = 0 ∧ co.arrived = [] ∧ co.srcFail = none ∧ (co.op = 1 ∨ co.op = 3) ∧ s.uncorr = [] ∧ ctlGet s regAcrange = 0 ∧
    s.past = [] ∧ grantHeld s k = false ∧ k.cancelled = false ∧ co.src = none ∧
    tdReach (cmdCtx k) .read co.send s = (rs, s1) ∧ allPlaces rs = some qs ∧ qs.length = co.len ∧
    tdReach (cmdCtx k) .write co.recv (readSend (k, co) s).2 = (ds, s2) ∧ allPlaces ds = some ps ∧ ps.length = co.len ∧ ps.Nodup ∧ PlainPlaces s ps :=
  ⟨collS, coRead.2, coWrite.2, collCmd, coll0, coRead.1, coWrite.1, _, _, rfl, rfl, rfl, rfl, rfl, rfl, .inl rfl, rfl, by decide +kernel, rfl, by decide +kernel, rfl, rfl, (Prod.eta _).symm,
    some_of (by decide +kernel), by decide +kernel, (Prod.eta _).symm, some_of (by decide +kernel), by decide +kernel, by decide +kernel, plain _ _ (by decide +kernel)⟩

/-- Rank 0 of two, the other of a package behind port 0. -/
def coll2 : Coll := { coll0 with nrank := 2, handles := [0, 2 ^ 62] }
def farCmd (co : Coll) : Cmd := { cmd1 (.xcoll f0) with prog := .coll co }
def farS (up : BitVec 4) (co : Coll) : State := { base with cmds := [farCmd co], portUp := up }

theorem test_meets_CommandEvents_peer : ∃ (s : State) (k : Cmd) (co : Coll) (r : Nat), s.stopped = false ∧ s.cmds = [k] ∧ k.prog = .coll co ∧ r < co.nrank ∧ isLocal co r = false ∧
    portReady s co r = true ∧ (∀ a ∈ co.arrived, a.1 ≠ r) ∧ (openColls s).find? (fun x => x.1.id == k.id) = some (k, co) :=
  ⟨farS 1 coll2, farCmd coll2, coll2, 1, rfl, rfl, rfl, by decide, by decide +kernel, by decide +kernel, by decide, rfl⟩

theorem test_meets_CommandEvents_down : ∃ (s : State) (k : Cmd) (co : Coll) (r : Nat), s.stopped = false ∧ s.cmds = [k] ∧ k.prog = .coll co ∧ r < co.nrank ∧ isLocal co r = false ∧
    portReady s co r = false :=
  ⟨farS 0 coll2, farCmd coll2, coll2, 1, rfl, rfl, rfl, by decide, by decide +kernel, by decide +kernel⟩

/-- Data of a rank that the member's NRANK does not admit: its own NRANK does, or neither does. -/
theorem test_meets_CommandEvents_larger : ∃ (s : State) (k : Cmd) (co : Coll) (r : Nat) (d e : PeerData), s.stopped = false ∧ s.cmds = [k] ∧
    k.prog = .coll co ∧ co.nrank ≤ r ∧ r < d.head.nrank ∧ s.portUp ≠ 0 ∧ d.bytes ≠ [] ∧ (∀ a ∈ co.arrived, a.1 ≠ r) ∧ e.head.nrank ≤ r :=
  ⟨farS 1 coll2, farCmd coll2, coll2, 2, { head := { op := 1, nrank := 3, dtype := 0 }, bytes := [1] }, { head := { op := 1, nrank := 2, dtype := 0 }, bytes := [1] },
    rfl, rfl, rfl, by decide, by decide, by decide, by decide, by decide, by decide⟩

/-- The same once it has sent its data, which the peer has yet to acknowledge. -/
def coll3 : Coll := { coll2 with sent := [(1, [1, 2, 3, 4])] }

theorem test_meets_CommandEvents_ack : ∃ (s : State) (k : Cmd) (co : Coll) (r : Nat), s.stopped = false ∧ s.cmds = [k] ∧ k.prog = .coll co ∧ r < co.nrank ∧
    isLocal co r = false ∧ portReady s co r = true ∧ co.sent ≠ [] ∧ r ∉ co.acked :=
  ⟨farS 1 coll3, farCmd coll3, coll3, 1, rfl, rfl, rfl, by decide, by decide +kernel, by decide +kernel, by decide, by decide⟩

/-- What has arrived from rank 1 is of another OP. -/
def coll4 : Coll := { coll2 with arrived := [(1, { op := 2, nrank := 2, dtype := 0 }, [1, 2, 3, 4])] }

theorem test_meets_CommandEvents_mismatch : ∃ (s : State) (k : Cmd) (co : Coll) (a : Nat × PeerHead × List Byte), s.stopped = false ∧ s.cmds = [k] ∧ k.prog = .coll co ∧
    a ∈ co.arrived ∧ a.2.1.op ≠ co.op :=
  ⟨farS 1 coll4, farCmd coll4, coll4, _, rfl, rfl, rfl, List.mem_cons_self .., by decide⟩

/-- A read of one block of 512 bytes by XSTOR, submitted to drive 0, into the page at 0x12000. -/
def part0 : StorePart := { first := 0, count := 1, submitted := true }
def storeCmd : Cmd := { cmd1 (.xstorRead f0) with sd := 0x12000, sn := 1, prog := .store [part0] none, drv := [0, 0, 0, 9 * 2 ^ 16] }
def storeS : State := { base with cmds := [storeCmd], nvme := [nvmeOf storeCmd 0 part0 []] }

theorem test_meets_CommandEvents_drive : ∃ (s s1 : State) (k : Cmd) (parts : List StorePart) (p : StorePart) (ps : List Nat) (bs : List Byte),
    s.stopped = false ∧ s.cmds = [k] ∧ k.prog = .store parts none ∧ parts = [p] ∧ p.submitted = true ∧ p.done = false ∧ partBuffer s k p = (ps, none, s1) ∧
    bs.length = p.count * k.lbs ∧ ps.length = bs.length ∧ ps.Nodup ∧ PlainPlaces s1 ps ∧ s1.uncorr = [] ∧ ctlGet s1 regAcrange = 0 := by
  have h1 : (partBuffer storeS storeCmd part0).1 = (List.range 512).map (0x40012000 + ·) := by decide +kernel
  have h2 : (partBuffer storeS storeCmd part0).2.1 = none := by decide +kernel
  refine ⟨storeS, (partBuffer storeS storeCmd part0).2.2, storeCmd, _, part0, (List.range 512).map (0x40012000 + ·), List.replicate 512 1, by decide +kernel,
    rfl, rfl, rfl, rfl, rfl, ?_,
    by decide +kernel, by rw [List.length_map, List.length_range, List.length_replicate], ?_, ?_, by decide +kernel, by decide +kernel⟩
  · rw [← h1, ← h2]
  · exact List.Pairwise.map _ (fun a b (hab : a ≠ b) => by omega) List.nodup_range
  · exact plain _ _ (by decide +kernel)

theorem test_meets_CommandEvents_timeout : ∃ (s : State) (n : BitVec 2), s.stopped = false ∧ 0 < inFlight s n.toNat := ⟨storeS, 0, by decide +kernel, by decide +kernel⟩

theorem test_meets_CommandEvents_idle : ∃ (s : State) (n : BitVec 2), s.stopped = false ∧ inFlight s n.toNat = 0 ∧ (smGet s.drives n.toNat).linked = false :=
  ⟨base, 0, rfl, by decide +kernel, by decide +kernel⟩

theorem test_meets_CommandEvents_linked : ∃ (s : State) (n : BitVec 2), s.stopped = false ∧ inFlight s n.toNat = 0 ∧ (smGet s.drives n.toNat).linked = true :=
  ⟨{ base with drives := [(0, { linked := true })] }, 0, rfl, by decide +kernel, by decide +kernel⟩

/-- A splice of one token: the sequence descriptor at 0x20000 with its empty current set at 0x21000 and the other at 0x22000, the document's
set at 0x23000 with an entry of two slots, the plan at 0x24000. -/
def seqS (lock : Nat) : State :=
  let e : BlockEntry := { pa := 0x80000000, tag := 7, delta := 0, seqpos := 0, flags := 0, count := 2, first := 0 }
  let s := withMem (block 2 1) 0x20000 (dwords [lock, 0, 0x21000, 0x22000, 0x21000, 0])
  let s := withMem s 0x21000 (dwords [4 * 2 ^ 32 + 2 ^ 16 + 1])
  let s := withMem s 0x23000 (dwords [4 * 2 ^ 32 + 2 ^ 16 + 1, 2, 0, 0, 0, 0, 0, 0, 1, 0, 0, 0] ++ entryBytes e)
  withMem s 0x24000 (dwords [0x20000, 0x23000, 0, 2 ^ 32])

def spliceCmd (p : Progress) : Cmd := { cmd1 (.ksplice f0) with launch := kvRecord, sa := 0x24000, prog := p }
def spliceS (lock : Nat) (p : Progress) : State := { seqS lock with cmds := [spliceCmd p] }
def spPlan (lock : Nat) (p : Progress) := jobRead (spliceCmd p) 0x24000 64 (spliceS lock p)
def spSeq (lock : Nat) := jobSeq (spliceCmd .whole) 0x20000 (stateOf (spPlan lock .whole))

theorem test_meets_SpliceAndRepair_refused : ∃ (s s1 : State) (k : Cmd) (plan : List Byte), LiveCmd s k ∧ k.prog = .whole ∧ k.cancelled = false ∧
    jobRead k k.sa 64 s = .ok plan s1 ∧ planOk plan = false :=
  ⟨{ block 2 1 with cmds := [spliceCmd .whole] }, _, spliceCmd .whole, _, live _ _ (by decide +kernel) rfl, rfl, rfl, ok_of _ (by decide +kernel), by decide +kernel⟩

theorem test_meets_SpliceAndRepair_plan : ∃ (s s1 : State) (k : Cmd) (plan : List Byte), LiveCmd s k ∧ k.prog = .whole ∧ k.cancelled = false ∧
    jobRead k k.sa 64 s = .ok plan s1 ∧ planOk plan = true :=
  ⟨spliceS 9 .whole, _, spliceCmd .whole, _, live _ _ (by decide +kernel) rfl, rfl, rfl, ok_of _ (by decide +kernel), by decide +kernel⟩

/-- The plan as it was read. -/
def planBytes : List Byte := dwords [0x20000, 0x23000, 0, 2 ^ 32, 0, 0, 0, 0]

theorem test_plan_bytes : valOf (spPlan 9 .whole) = planBytes := by decide +kernel

theorem test_meets_SpliceAndRepair_locked : ∃ (s s1 : State) (k : Cmd) (plan : List Byte), LiveCmd s k ∧ k.prog = .splice plan false ∧ k.cancelled = false ∧
    takeLock k (BitVec.ofNat 64 (dwordOf plan 0)) s = .ok none s1 :=
  ⟨spliceS 9 (.splice planBytes false), _, spliceCmd _, planBytes, live _ _ (by decide +kernel) rfl, rfl, rfl, ok_is _ _ (by decide +kernel)⟩

/-- A doubleword whose places are all reached, and owned by no command, is written without failure, whatever its value. -/
theorem write_dword (s : State) (k : Cmd) (va : Word) (v : Nat) (h : (allPlaces (reachBytes (cmdCtx k) .write va 8 s).1).isSome = true)
    (hw : isOk (jobReach k .write va 8 s) = true) : ∃ u, jobWrite k va (bytesOfNat 8 v) s = .ok () u := by
  obtain ⟨ps, hp⟩ := Option.isSome_iff_exists.mp h
  have hj : jobReach k .write va 8 s = .ok () s := by
    unfold jobReach at hw ⊢
    simp only at hw ⊢
    split at hw
    · cases hw
    · rename_i h
      rw [if_neg h]
  simp [jobWrite, unitWrite, bytesOfNat_len, hp, bind, EStateM.bind, hj]

theorem take_ok (k : Cmd) (seq : Word) (s s0 s1 : State) (bs : List Byte) (h0 : acquireLock k seq s = .ok () s0) (h1 : jobSeq k seq s0 = .ok bs s1) (h2 : dwordOf bs 0 = 0)
    (h3 : (allPlaces (reachBytes (cmdCtx k) .write seq 8 s1).1).isSome = true) (h4 : isOk (jobReach k .write seq 8 s1) = true) : ∃ u, takeLock k seq s = .ok (some ()) u := by
  obtain ⟨u, hu⟩ := write_dword s1 k seq (2 ^ 63 + (Config.freeWord s1.free 0).toNat % 2 ^ 63) h3 h4
  refine ⟨{ u with free := u.free + 1 }, ?_⟩
  unfold takeLock
  simp only [bind, EStateM.bind, h0, h1, h2, ne_eq, not_true, if_false, get, getThe, MonadStateOf.get, EStateM.get, hu]
  rfl

theorem test_meets_SpliceAndRepair_take : ∃ (s s1 : State) (k : Cmd) (plan : List Byte), LiveCmd s k ∧ k.prog = .splice plan false ∧ k.cancelled = false ∧
    takeLock k (BitVec.ofNat 64 (dwordOf plan 0)) s = .ok (some ()) s1 := by
  have h0 : BitVec.ofNat 64 (dwordOf planBytes 0) = 0x20000 := by decide +kernel
  obtain ⟨u, hu⟩ := take_ok (spliceCmd (.splice planBytes false)) 0x20000 (spliceS 0 (.splice planBytes false)) _ _ _ (ok_is _ _ (by decide +kernel)) (ok_of _ (by decide +kernel))
    (by decide +kernel) (by decide +kernel) (by decide +kernel)
  exact ⟨spliceS 0 (.splice planBytes false), u, spliceCmd (.splice planBytes false), planBytes, live _ _ (by decide +kernel) rfl, rfl, rfl, by rw [h0]; exact hu⟩

theorem test_meets_SpliceAndRepair_splice : ∃ (s s1 : State) (k : Cmd) (plan : List Byte) (n : Nat), LiveCmd s k ∧ k.prog = .splice plan true ∧
    k.cancelled = false ∧ lockHeld s k (BitVec.ofNat 64 (dwordOf plan 0)) = false ∧ spliceJob k plan s = .ok (some n) s1 ∧ n = 1 :=
  ⟨spliceS 9 (.splice planBytes true), _, spliceCmd _, planBytes, 1, live _ _ (by decide +kernel) rfl, rfl, rfl, by decide +kernel, ok_is _ _ (by decide +kernel), rfl⟩

/-- A splice that has been cancelled before LOCK, and one that holds it. -/
theorem test_meets_SpliceAndRepair_cancelled : ∃ (s t : State) (k c : Cmd) (plan : List Byte), LiveCmd s k ∧ k.prog = .splice plan false ∧ k.cancelled = true ∧
    LiveCmd t c ∧ c.prog = .splice plan true ∧ c.cancelled = true ∧ lockHeld t c (BitVec.ofNat 64 (dwordOf plan 0)) = false :=
  ⟨{ seqS 9 with cmds := [{ spliceCmd (.splice planBytes false) with cancelled := true }] }, { seqS 9 with cmds := [{ spliceCmd (.splice planBytes true) with cancelled := true }] },
    _, _, planBytes, live _ _ (by decide +kernel) rfl, rfl, rfl, live _ _ (by decide +kernel) rfl, rfl, rfl, by decide +kernel⟩

/-- A command of the engines owns LOCK's line. -/
theorem test_meets_SpliceAndRepair_lockHeld : ∃ (s : State) (k : Cmd) (plan : List Byte), LiveCmd s k ∧ k.prog = .splice plan true ∧
    lockHeld s k (BitVec.ofNat 64 (dwordOf plan 0)) = true :=
  ⟨{ seqS 9 with cmds := [spliceCmd (.splice planBytes true), { owner with id := 5, owned := [(2 ^ 30 + 0x20000, 128)] }] }, spliceCmd (.splice planBytes true), planBytes,
    ⟨by decide +kernel, by decide +kernel⟩, rfl, by decide +kernel⟩

/-- A repair plan of document 9, layer 0 and one task: template at 0x26000, records at 0x27000, token list of one position at 0x25000. -/
def planWords : List Nat := [0x20000, 0x25000, 0x26000, 0x27000, 0x28000, 9 + 2 ^ 48, 3, 0]
def plan0 : FidPlan := { words := planWords.map (BitVec.ofNat 64 ·) }
def fidCmd (p : FidPlan) : Cmd := { cmd1 (.krepair f0) with launch := kvRecord, sa := 0x24000, prog := .fid p }

def planS : State := { withMem base 0x24000 (dwords planWords) with cmds := [fidCmd {}] }

theorem test_meets_SpliceAndRepair_start : ∃ (m : BitVec 2) (s s1 : State) (k : Cmd) (p : FidPlan) (bs : List Byte), s.stopped = false ∧
    plansOf s m.toNat = [(k, p)] ∧ p.phase = .queued ∧ jobRead k k.sa 64 s = .ok bs s1 ∧ dwordOf bs 5 % 2 ^ 32 ≠ 0 ∧
    dwordOf bs 5 / 2 ^ 32 % 2 ^ 8 ≤ dwordOf bs 5 / 2 ^ 40 % 2 ^ 8 ∧ 1 ≤ dwordOf bs 5 / 2 ^ 48 % 2 ^ 16 ∧ dwordOf bs 5 / 2 ^ 48 % 2 ^ 16 ≤ 256 ∧
    dwordOf bs 6 < 2 ^ 16 ∧ dwordOf bs 7 = 0 ∧ dwordOf bs 1 % 8 = 0 :=
  ⟨0, planS, _, fidCmd {}, {}, _, rfl, rfl, rfl, ok_of _ (by decide +kernel), by decide +kernel, by decide +kernel, by decide +kernel, by decide +kernel,
    by decide +kernel, by decide +kernel, by decide +kernel⟩

/-- The plan marks layer 0 of a sequence that has no entry of document 9. Its descriptor stands on the header of the block at 0x40000000, so
that the value of LOCK is discarded (R299) and the state after it is known. -/
def markPlan : FidPlan := { words := (planWords.set 0 0x40009000).map (BitVec.ofNat 64 ·), phase := .mark 0 }
def markCmd : Cmd := fidCmd markPlan
def markS : State :=
  { withMem (withMem (withMem kv (2 ^ 30 + 9 * 4096) (dwords [0, 0, 0x21000, 0x22000, 0x21000, 0])) 0x21000 (dwords [4 * 2 ^ 32 + 2 ^ 16 + 1]))
      0x25000 (dwords [2 ^ 32]) with cmds := [markCmd] }
def markLock := takeLock markCmd markPlan.seq markS
def markScan := fidScan markCmd markPlan 0 (stateOf markLock)

theorem test_meets_SpliceAndRepair_mark : ∃ (s s1 s2 : State) (k : Cmd) (p : FidPlan) (xs : List LayerEntry) (cur : Word), LiveCmd s k ∧ k.prog = .fid p ∧
    p.phase = .mark 0 ∧ k.cancelled = false ∧ takeLock k p.seq s = .ok (some ()) s1 ∧ fidScan k p 0 s1 = .ok (some (xs, [], cur)) s2 ∧
    ∃ x ∈ s2.cmds, x.id = k.id ∧ x.prog = .fid p :=
  ⟨markS, stateOf markLock, stateOf markScan, markCmd, markPlan, [], 0x21000, live _ _ (by decide +kernel) rfl, rfl, rfl, rfl, ok_is markLock _ (by decide +kernel),
    @ok_is _ _ (fun a b => inferInstanceAs (Decidable (a = b))) markScan (some ([], [], 0x21000)) (by decide +kernel), by decide +kernel⟩

theorem test_meets_SpliceAndRepair_held : ∃ (s s1 : State) (k : Cmd) (p : FidPlan), LiveCmd s k ∧ k.prog = .fid p ∧ p.phase = .mark 0 ∧ k.cancelled = false ∧
    takeLock k p.seq s = .ok none s1 :=
  ⟨{ seqS 9 with cmds := [fidCmd { plan0 with phase := .mark 0 }] }, _, _, { plan0 with phase := .mark 0 }, live _ _ (by decide +kernel) rfl, rfl, rfl, rfl,
    ok_is _ _ (by decide +kernel)⟩

/-- The plan runs layer 0: the template names queue 1, which has room. -/
def runCmd : Cmd := fidCmd { plan0 with phase := .run 0, entered := 0, marked := [0x80000000] }
def fidRunS : State := { withMem (spawnS 1) 0x26000 (bytesOfNat 128 (placedRecord.toNat + 2 ^ 576)) with cmds := [runCmd] }
def runWrite := jobWrite runCmd 0x27000 (dwords [9 * 2 ^ 32, 0, 0x25000, 0x20000, 1, 0, 0, 0]) fidRunS
def runRead := jobRead runCmd 0x26000 128 (stateOf runWrite)

theorem test_meets_SpliceAndRepair_submit : LiveCmd fidRunS runCmd ∧ runWrite = .ok () (stateOf runWrite) ∧ runRead = .ok (valOf runRead) (stateOf runRead) ∧
    (let r := BitVec.ofNat 1024 (putBits (putBits (natOfBytes (valOf runRead)) 64 64 0x27000) 288 32 0)
     match submitTo (stateOf runRead) (recQueue r) r false with
     | .placed pos _ => pos == 1
     | _ => false) = true :=
  ⟨live _ _ (by decide +kernel) rfl, ok_is _ _ (by decide +kernel), ok_of _ (by decide +kernel), by decide +kernel⟩

/-- The one marked block of layer 0, its REPAIR string 0 or not. -/
def sealCmd (t : Bool) : Cmd := fidCmd { plan0 with phase := .run 0, marked := [0x80000000], nsub := 1, tasks := [(1, 0, t)] }
def sealS (r : Nat) : State := { kvWrite (block 4 1) (hdrRepairs 0x80000000 r) with cmds := [sealCmd true] }

theorem test_meets_SpliceAndRepair_seal : ∃ (s : State) (k : Cmd) (p : FidPlan) (pa : Nat), LiveCmd s k ∧ k.prog = .fid p ∧ p.phase = .run 0 ∧ p.marked = [pa] ∧
    p.ntask ≤ p.nsub ∧ k.cancelled = false ∧ hdrRepair s pa = 0 ∧ p.l1 ≤ 0 ∧ hdrState s pa = 4 ∧ s.uncorr = [] ∧ marksHeld s p = false :=
  ⟨sealS 0, sealCmd true, _, 0x80000000, live _ _ (by decide +kernel) rfl, rfl, rfl, rfl, by decide +kernel, rfl, by decide +kernel, by decide +kernel, by decide +kernel,
    by decide +kernel, by decide +kernel⟩

theorem test_meets_SpliceAndRepair_unrepaired : ∃ (s : State) (k : Cmd) (p : FidPlan) (pa : Nat), LiveCmd s k ∧ k.prog = .fid p ∧ p.phase = .run 0 ∧ p.marked = [pa] ∧
    (∀ x ∈ p.tasks, x.2.2 = true) ∧ p.ntask ≤ p.nsub ∧ k.cancelled = false ∧ hdrRepair s pa ≠ 0 ∧ hdrState s pa = 4 ∧ s.uncorr = [] ∧ marksHeld s p = false :=
  ⟨sealS (2 ^ 255), sealCmd true, _, 0x80000000, live _ _ (by decide +kernel) rfl, rfl, rfl, rfl, by decide, by decide +kernel, rfl, by decide +kernel, by decide +kernel,
    by decide +kernel, by decide +kernel⟩

/-- The plan is abandoned with NOROOM; it is cancelled once its task has ended, before LOCK, and before a task is submitted. -/
def abandonCmd : Cmd := fidCmd { plan0 with phase := .abandon 0 0x17, marked := [0x80000000] }
def lostCmd : Cmd := { sealCmd true with cancelled := true }

theorem test_meets_SpliceAndRepair_abandon : ∃ (s : State) (k : Cmd) (p : FidPlan) (pa : Nat) (st how : BitVec 7), LiveCmd s k ∧ k.prog = .fid p ∧ p.marked = [pa] ∧
    marksHeld s p = false ∧ hdrState s pa = 4 ∧ s.uncorr = [] ∧ p.phase = .abandon 0 st ∧ how = st :=
  ⟨{ block 4 1 with cmds := [abandonCmd] }, abandonCmd, _, 0x80000000, 0x17, _, live _ _ (by decide +kernel) rfl, rfl, rfl, by decide +kernel, by decide +kernel,
    by decide +kernel, rfl, rfl⟩

theorem test_meets_SpliceAndRepair_abandon_cancelled : ∃ (s : State) (k : Cmd) (p : FidPlan) (pa : Nat), LiveCmd s k ∧ k.prog = .fid p ∧ p.marked = [pa] ∧
    marksHeld s p = false ∧ hdrState s pa = 4 ∧ s.uncorr = [] ∧ p.phase = .run 0 ∧ (∀ x ∈ p.tasks, x.2.2 = true) ∧ k.cancelled = true :=
  ⟨{ block 4 1 with cmds := [lostCmd] }, lostCmd, _, 0x80000000, live _ _ (by decide +kernel) rfl, rfl, rfl, by decide +kernel, by decide +kernel,
    by decide +kernel, rfl, by decide, rfl⟩

theorem test_meets_SpliceAndRepair_abandon_none : ∃ (s : State) (k : Cmd) (p : FidPlan) (st : BitVec 7), LiveCmd s k ∧ k.prog = .fid p ∧ p.phase = .abandon 0 st ∧ p.marked = [] :=
  ⟨{ base with cmds := [fidCmd { plan0 with phase := .abandon 0 0x17 }] }, _, _, 0x17, live _ _ rfl rfl, rfl, rfl, rfl⟩

theorem test_meets_SpliceAndRepair_mark_cancelled : ∃ (s t : State) (k c : Cmd) (p q : FidPlan), LiveCmd s k ∧ k.prog = .fid p ∧ p.phase = .mark 0 ∧ k.cancelled = true ∧
    LiveCmd t c ∧ c.prog = .fid q ∧ q.phase = .run 0 ∧ c.cancelled = true :=
  ⟨{ base with cmds := [{ markCmd with cancelled := true }] }, { base with cmds := [lostCmd] }, _, _, _, _, live _ _ rfl rfl, rfl, rfl, rfl, live _ _ rfl rfl, rfl, rfl, rfl⟩

/-- An engine's command owns the header's line of the marked block. -/
theorem test_meets_SpliceAndRepair_marksHeld : ∃ (s : State) (k : Cmd) (p : FidPlan), LiveCmd s k ∧ k.prog = .fid p ∧ p.phase = .run 0 ∧ marksHeld s p = true :=
  ⟨{ block 4 1 with cmds := [sealCmd true, { owner with id := 5, owned := [(0x80009000, 128)] }] }, sealCmd true, _, ⟨by decide +kernel, by decide +kernel⟩, rfl, rfl,
    by decide +kernel⟩

theorem test_meets_SpliceAndRepair_sealing : ∃ (s : State) (k : Cmd) (p : FidPlan), LiveCmd s k ∧ k.prog = .fid p ∧ p.phase = .sealing 0 ∧ p.marked = [] ∧ p.l1 ≤ 0 :=
  ⟨{ base with cmds := [fidCmd { plan0 with phase := .sealing 0 }] }, _, _, live _ _ rfl rfl, rfl, rfl, rfl, by decide +kernel⟩

/-! ### Hypotheses that some state meets: steps -/

def tickS : State := updThreads { tick base with turns := (tick base).turns + 1 } (takeTurn (tick base).th.id)
def fetch0 := fetchParcel tickS.th.pc tickS

theorem test_meets_StepRunsDecoded : ∃ (s u u2 : State) (ps : List Parcel) (i : Instr), (tick s).agenda = [] ∧ (tick s).turns % turnLimit ≠ turnLimit - 1 ∧
    (tick s).th.yielded = false ∧ u = updThreads { tick s with turns := (tick s).turns + 1 } (takeTurn (tick s).th.id) ∧
    AtInstruction u ∧ Parcels u u2 ps ∧ decode ps = .ok i :=
  ⟨base, tickS, stateOf fetch0, [0xBE], .nop, by decide +kernel, by decide +kernel, by decide +kernel, rfl, ⟨by decide +kernel, by decide +kernel, by decide +kernel, by decide +kernel,
    .inl (by decide +kernel), by decide +kernel⟩, ⟨0xBE, [], stateOf fetch0, rfl, fun h => absurd h (by decide), fun h => absurd h (by decide),
    ok_is _ _ (by decide +kernel), rfl⟩, rfl⟩

def fetchAt := resolve (curCtx base) 0 4 4 .fetch 0 base

theorem test_meets_StepRunsDecoded_fetch : ∃ (s s1 : State) (va : Word) (ps : List Nat), resolve (curCtx s) va 4 4 .fetch 0 s = .ok ps s1 ∧
    awaitPlaces ps s1 = .ok () s1 ∧ firstUncorr s1 ps = none ∧ (s1.l1i.find? fun l => l.core == s.th.id / 4 && l.pa == ps.headD 0 / 128 * 128) = none :=
  ⟨base, stateOf fetchAt, 0, valOf fetchAt, ok_of _ (by decide +kernel), await_ok _ _ (by decide +kernel), by decide +kernel, by decide +kernel⟩

theorem test_meets_NothingRefused : ∃ (i : Instr) (s : State), isHostAccess i = true ∧ (match exec i s with
    | .fault x => decide (x = Fault.noSuchAddress)
    | _ => false) = true :=
  ⟨.hostWrite { ha := 0xC000000000 } [1], base, rfl, by decide +kernel⟩

theorem test_meets_MemoryStaysCanonical : ∃ s t : State, s.mem.wf = true ∧ step s = .next t :=
  ⟨base, _, by decide +kernel, next_of _ (by decide +kernel)⟩

theorem test_meets_ZeroStaysZero : ∃ s t : State, ZeroHolds s ∧ step s = .next t :=
  ⟨base, _, by unfold ZeroHolds; decide +kernel, next_of _ (by decide +kernel)⟩
/-! ### Words written out from the tables of chapter 2, for every constructor that has one -/

/-- Major 0x00: fn6 of Table 2-3 with rs2 = 9, rs1 = 5, rd = 3. -/
theorem test_words_alu :
    decode [0x4914300] = .ok (.add 3 5 9) ∧
    decode [0x8914300] = .ok (.sub 3 5 9) ∧
    decode [0xC914300] = .ok (.and 3 5 9) ∧
    decode [0x10914300] = .ok (.or 3 5 9) ∧
    decode [0x14914300] = .ok (.xor 3 5 9) ∧
    decode [0x18914300] = .ok (.andn 3 5 9) ∧
    decode [0x1C914300] = .ok (.sll 3 5 9) ∧
    decode [0x20914300] = .ok (.srl 3 5 9) ∧
    decode [0x24914300] = .ok (.sra 3 5 9) ∧
    decode [0x28914300] = .ok (.slt 3 5 9) ∧
    decode [0x2C914300] = .ok (.sltu 3 5 9) ∧
    decode [0x30914300] = .ok (.min 3 5 9) ∧
    decode [0x34914300] = .ok (.max 3 5 9) ∧
    decode [0x38914300] = .ok (.minu 3 5 9) ∧
    decode [0x3C914300] = .ok (.maxu 3 5 9) ∧
    decode [0x40914300] = .ok (.mul 3 5 9) ∧
    decode [0x44914300] = .ok (.mulh 3 5 9) ∧
    decode [0x48914300] = .ok (.mulhu 3 5 9) ∧
    decode [0x4C914300] = .ok (.div 3 5 9) ∧
    decode [0x50914300] = .ok (.divu 3 5 9) ∧
    decode [0x54914300] = .ok (.rem 3 5 9) ∧
    decode [0x58914300] = .ok (.remu 3 5 9) ∧
    decode [0x5C014300] = .ok (.clz 3 5) ∧
    decode [0x60014300] = .ok (.ctz 3 5) ∧
    decode [0x64014300] = .ok (.cpop 3 5) := by
  refine ⟨?_, ?_, ?_, ?_, ?_, ?_, ?_, ?_, ?_, ?_, ?_, ?_, ?_, ?_, ?_, ?_, ?_, ?_, ?_, ?_, ?_, ?_, ?_, ?_, ?_⟩ <;> rfl

/-- Formats SI, SU and SM of Table 2-1 with the majors of Table 2-2. -/
theorem test_words_immediates :
    decode [0x80114320] = .ok (.addi 3 5 0x801) ∧
    decode [0x80114322] = .ok (.andi 3 5 0x801) ∧
    decode [0x80114324] = .ok (.ori 3 5 0x801) ∧
    decode [0x80114326] = .ok (.xori 3 5 0x801) ∧
    decode [0x8011432E] = .ok (.slti 3 5 0x801) ∧
    decode [0x80114330] = .ok (.sltiu 3 5 0x801) ∧
    decode [0x80114360] = .ok (.lb 3 5 0x801) ∧
    decode [0x80114362] = .ok (.lbu 3 5 0x801) ∧
    decode [0x80114364] = .ok (.lh 3 5 0x801) ∧
    decode [0x80114366] = .ok (.lhu 3 5 0x801) ∧
    decode [0x80114368] = .ok (.lw 3 5 0x801) ∧
    decode [0x8011436A] = .ok (.lwu 3 5 0x801) ∧
    decode [0x8011436C] = .ok (.ld 3 5 0x801) ∧
    decode [0x80114370] = .ok (.sb 3 5 0x801) ∧
    decode [0x80114372] = .ok (.sh 3 5 0x801) ∧
    decode [0x80114374] = .ok (.sw 3 5 0x801) ∧
    decode [0x80114376] = .ok (.sd 3 5 0x801) ∧
    decode [0x914328] = .ok (.slli 3 5 9) ∧
    decode [0x91432A] = .ok (.srli 3 5 9) ∧
    decode [0x91432C] = .ok (.srai 3 5 9) ∧
    decode [0x80014332] = .ok (.ldih 3 0x20005) ∧
    decode [0x80014334] = .ok (.addpc 3 0x20005) ∧
    decode [0x41436E] = .ok (.ldaq 3 5 4) ∧
    decode [0x514378] = .ok (.sdrl 3 5 5) := by
  refine ⟨?_, ?_, ?_, ?_, ?_, ?_, ?_, ?_, ?_, ?_, ?_, ?_, ?_, ?_, ?_, ?_, ?_, ?_, ?_, ?_, ?_, ?_, ?_, ?_⟩ <;> rfl

/-- Formats SB and SJ (Table 2-1): rs2 in [19:14], rs1 in [13:8]. -/
theorem test_words_branches :
    decode [0x80114340] = .ok (.beq 3 5 0x801) ∧
    decode [0x80114342] = .ok (.bne 3 5 0x801) ∧
    decode [0x80114344] = .ok (.blt 3 5 0x801) ∧
    decode [0x80114346] = .ok (.bge 3 5 0x801) ∧
    decode [0x80114348] = .ok (.bltu 3 5 0x801) ∧
    decode [0x8011434A] = .ok (.bgeu 3 5 0x801) ∧
    decode [0x8000014C] = .ok (.j 0x800001) ∧
    decode [0xFFF1404E] = .ok (.jtab 5 0xFFF) := by
  refine ⟨?_, ?_, ?_, ?_, ?_, ?_, ?_, ?_⟩ <;> rfl

/-- Format SA (Table 2-1): order 2, scope 4. -/
theorem test_words_atomics :
    decode [0x50914380] = .ok (.amoadd 3 5 9 4 2) ∧
    decode [0x50914382] = .ok (.amoswap 3 5 9 4 2) ∧
    decode [0x50914384] = .ok (.amoand 3 5 9 4 2) ∧
    decode [0x50914386] = .ok (.amoor 3 5 9 4 2) ∧
    decode [0x50914388] = .ok (.amoxor 3 5 9 4 2) ∧
    decode [0x5091438A] = .ok (.amomax 3 5 9 4 2) ∧
    decode [0x5091438C] = .ok (.amomin 3 5 9 4 2) ∧
    decode [0x5091438E] = .ok (.amomaxu 3 5 9 4 2) ∧
    decode [0x50914390] = .ok (.amominu 3 5 9 4 2) ∧
    decode [0x50914392] = .ok (.cas 3 5 9 4 2) := by
  refine ⟨?_, ?_, ?_, ?_, ?_, ?_, ?_, ?_, ?_, ?_⟩ <;> rfl

/-- Majors 0x50 to 0x5F (Tables 2-2 to 2-4, R52). -/
theorem test_words_control :
    decode [0x501AA0] = .ok (.fence 0xA true 5) ∧
    decode [0xA2] = .ok (.vwait) ∧
    decode [0xA4] = .ok (.bar) ∧
    decode [0x9143A6] = .ok (.waitc 3 5 9) ∧
    decode [0x143A8] = .ok (.waitv 3 5) ∧
    decode [0x9183AA] = .ok (.waitq 3 6 9) ∧
    decode [0x9143AC] = .ok (.spawn 3 5 9) ∧
    decode [0x105003AE] = .ok (.csrr 3 0x105) ∧
    decode [0x2143B0] = .ok (.csrw 3 5 0x002) ∧
    decode [0x204143B2] = .ok (.csrs 3 5 0x204) ∧
    decode [0xA143B4] = .ok (.csrc 3 5 0x00A) ∧
    decode [0x801000B6] = .ok (.trap 0x801) ∧
    decode [0x801000B8] = .ok (.brk 0x801) ∧
    decode [0xBE] = .ok (.nop) ∧
    decode [0x40000BE] = .ok (.yield_) ∧
    decode [0x80000BE] = .ok (.halt) ∧
    decode [0xC0000BE] = .ok (.tret) := by
  refine ⟨?_, ?_, ?_, ?_, ?_, ?_, ?_, ?_, ?_, ?_, ?_, ?_, ?_, ?_, ?_, ?_, ?_⟩ <;> rfl

/-- LANE op8 0x10 to 0x25 (Table 2-10): vd = 2, vs1 = 4, vs2 = 6, guard k3. -/
theorem test_words_lane_arithmetic :
    decode [0xC6102101, 0x0] = .ok (.vadd (W64.unpack 0xC6102101)) ∧
    decode [0xC6102111, 0x0] = .ok (.vsub (W64.unpack 0xC6102111)) ∧
    decode [0xC6102121, 0x0] = .ok (.vsadd (W64.unpack 0xC6102121)) ∧
    decode [0xC6102131, 0x0] = .ok (.vssub (W64.unpack 0xC6102131)) ∧
    decode [0xC6102141, 0x0] = .ok (.vmin (W64.unpack 0xC6102141)) ∧
    decode [0xC6102151, 0x0] = .ok (.vmax (W64.unpack 0xC6102151)) ∧
    decode [0xC6102161, 0x0] = .ok (.vand (W64.unpack 0xC6102161)) ∧
    decode [0xC6102171, 0x0] = .ok (.vor (W64.unpack 0xC6102171)) ∧
    decode [0xC6102181, 0x0] = .ok (.vxor (W64.unpack 0xC6102181)) ∧
    decode [0xC6102191, 0x0] = .ok (.vandn (W64.unpack 0xC6102191)) ∧
    decode [0xC61021A1, 0x0] = .ok (.vsll (W64.unpack 0xC61021A1)) ∧
    decode [0xC61021B1, 0x0] = .ok (.vsrl (W64.unpack 0xC61021B1)) ∧
    decode [0xC61021C1, 0x0] = .ok (.vsra (W64.unpack 0xC61021C1)) ∧
    decode [0xC61021D1, 0x0] = .ok (.vshrr (W64.unpack 0xC61021D1)) ∧
    decode [0xC61021E1, 0x0] = .ok (.vmul (W64.unpack 0xC61021E1)) ∧
    decode [0xC61021F1, 0x0] = .ok (.vmulh (W64.unpack 0xC61021F1)) ∧
    decode [0xC6102201, 0x0] = .ok (.vmacc (W64.unpack 0xC6102201)) ∧
    decode [0xC0102211, 0x0] = .ok (.vabs (W64.unpack 0xC0102211)) ∧
    decode [0xC0102221, 0x0] = .ok (.vneg (W64.unpack 0xC0102221)) ∧
    decode [0xC0102231, 0x0] = .ok (.vclz (W64.unpack 0xC0102231)) ∧
    decode [0xC0102241, 0x0] = .ok (.vcpop (W64.unpack 0xC0102241)) ∧
    decode [0xC6102251, 0x140] = .ok (.vcmp (W64.unpack 0x140C6102251)) := by
  refine ⟨?_, ?_, ?_, ?_, ?_, ?_, ?_, ?_, ?_, ?_, ?_, ?_, ?_, ?_, ?_, ?_, ?_, ?_, ?_, ?_, ?_, ?_⟩ <;> rfl

/-- LANE op8 0x00, 0x01 and 0x30 to 0x4B (Table 2-10). -/
theorem test_words_lane_movement :
    decode [0x28001, 0x102402] = .ok (.setvl (W64.unpack 0x10240200028001)) ∧
    decode [0x28011, 0x200000] = .ok (.setvt (W64.unpack 0x20000000028011)) ∧
    decode [0x46102301, 0x0] = .ok (.vmerge (W64.unpack 0x46102301)) ∧
    decode [0x6002311, 0x0] = .ok (.vmv (W64.unpack 0x6002311)) ∧
    decode [0x128321, 0x2402] = .ok (.vmvs (W64.unpack 0x240200128321)) ∧
    decode [0x102331, 0x10004] = .ok (.vslup (W64.unpack 0x1000400102331)) ∧
    decode [0x102341, 0x2402] = .ok (.vsldn (W64.unpack 0x240200102341)) ∧
    decode [0x6102351, 0x0] = .ok (.vperm (W64.unpack 0x6102351)) ∧
    decode [0x102361, 0x0] = .ok (.vcompr (W64.unpack 0x102361)) ∧
    decode [0x102371, 0x0] = .ok (.vexpnd (W64.unpack 0x102371)) ∧
    decode [0x6102381, 0x0] = .ok (.vbfx (W64.unpack 0x6102381)) ∧
    decode [0x6102391, 0x0] = .ok (.vbfi (W64.unpack 0x6102391)) ∧
    decode [0x1023A1, 0x80000] = .ok (.vwid (W64.unpack 0x80000001023A1)) ∧
    decode [0x61023B1, 0x80000] = .ok (.vnar (W64.unpack 0x80000061023B1)) ∧
    decode [0x61023C1, 0x0] = .ok (.vred (W64.unpack 0x61023C1)) ∧
    decode [0x23D1, 0x0] = .ok (.viota (W64.unpack 0x23D1)) ∧
    decode [0x6102401, 0x0] = .ok (.kand (W64.unpack 0x6102401)) ∧
    decode [0x6102411, 0x0] = .ok (.kor (W64.unpack 0x6102411)) ∧
    decode [0x6102421, 0x0] = .ok (.kxor (W64.unpack 0x6102421)) ∧
    decode [0x6102431, 0x0] = .ok (.kandn (W64.unpack 0x6102431)) ∧
    decode [0x102441, 0x0] = .ok (.knot (W64.unpack 0x102441)) ∧
    decode [0x2451, 0x2402] = .ok (.kwhile (W64.unpack 0x240200002451)) ∧
    decode [0x102461, 0x0] = .ok (.kbefore (W64.unpack 0x102461)) ∧
    decode [0x102471, 0x0] = .ok (.kincl (W64.unpack 0x102471)) ∧
    decode [0x102481, 0x0] = .ok (.kfirst (W64.unpack 0x102481)) ∧
    decode [0x102491, 0x0] = .ok (.kpopc (W64.unpack 0x102491)) ∧
    decode [0x1024A1, 0x0] = .ok (.klast (W64.unpack 0x1024A1)) ∧
    decode [0x1024B1, 0x0] = .ok (.kmv (W64.unpack 0x1024B1)) := by
  refine ⟨?_, ?_, ?_, ?_, ?_, ?_, ?_, ?_, ?_, ?_, ?_, ?_, ?_, ?_, ?_, ?_, ?_, ?_, ?_, ?_, ?_, ?_, ?_, ?_, ?_, ?_, ?_, ?_⟩ <;> rfl

/-- VMEM (Tables 2-7 and 2-10). -/
theorem test_words_vmem :
    decode [0x102003, 0xFFF800E0] = .ok (.vld (W64.unpack 0xFFF800E000102003)) ∧
    decode [0x32102013, 0x0] = .ok (.vlds (W64.unpack 0x32102013)) ∧
    decode [0x6102023, 0x2400] = .ok (.vldx (W64.unpack 0x240006102023)) ∧
    decode [0x102033, 0x0] = .ok (.vldff (W64.unpack 0x102033)) ∧
    decode [0x102043, 0x8] = .ok (.vst (W64.unpack 0x800102043)) ∧
    decode [0x6102053, 0x0] = .ok (.vsts (W64.unpack 0x6102053)) ∧
    decode [0x6102063, 0x0] = .ok (.vstx (W64.unpack 0x6102063)) ∧
    decode [0x6102073, 0x0] = .ok (.vldl (W64.unpack 0x6102073)) ∧
    decode [0x6102083, 0x0] = .ok (.vstl (W64.unpack 0x6102083)) ∧
    decode [0x107103, 0x0] = .ok (.qld (W64.unpack 0x107103)) ∧
    decode [0x32107113, 0x0] = .ok (.qlds (W64.unpack 0x32107113)) ∧
    decode [0x6107123, 0x0] = .ok (.qgath (W64.unpack 0x6107123)) ∧
    decode [0x7133, 0x0] = .ok (.qclr (W64.unpack 0x7133)) ∧
    decode [0x86102203, 0x2400] = .ok (.vamoadd (W64.unpack 0x240086102203)) ∧
    decode [0x6102213, 0x0] = .ok (.vamomax (W64.unpack 0x6102213)) ∧
    decode [0x6102223, 0x0] = .ok (.vamomin (W64.unpack 0x6102223)) ∧
    decode [0x6102233, 0x0] = .ok (.vamoxchg (W64.unpack 0x6102233)) ∧
    decode [0x100303, 0x2400] = .ok (.vcapp (W64.unpack 0x240000100303)) ∧
    decode [0x6102313, 0x2400] = .ok (.vconfl (W64.unpack 0x240006102313)) ∧
    decode [0x323, 0x0] = .ok (.lsync (W64.unpack 0x323)) ∧
    decode [0x102333, 0x0] = .ok (.vpref (W64.unpack 0x102333)) := by
  refine ⟨?_, ?_, ?_, ?_, ?_, ?_, ?_, ?_, ?_, ?_, ?_, ?_, ?_, ?_, ?_, ?_, ?_, ?_, ?_, ?_, ?_⟩ <;> rfl

/-- CONV (Tables 2-6, 2-10, 2-11); VCVT holds its source code in op8[3:0] (R64). -/
theorem test_words_conv :
    decode [0x102005, 0x280] = .ok (.vcvt 0 (W64.unpack 0x28000102005)) ∧
    decode [0x102015, 0x280] = .ok (.vcvt 1 (W64.unpack 0x28000102015)) ∧
    decode [0x102025, 0x280] = .ok (.vcvt 2 (W64.unpack 0x28000102025)) ∧
    decode [0x102055, 0x280] = .ok (.vcvt 5 (W64.unpack 0x28000102055)) ∧
    decode [0x102065, 0x280] = .ok (.vcvt 6 (W64.unpack 0x28000102065)) ∧
    decode [0x102075, 0x280] = .ok (.vcvt 7 (W64.unpack 0x28000102075)) ∧
    decode [0x102085, 0x280] = .ok (.vcvt 8 (W64.unpack 0x28000102085)) ∧
    decode [0x102095, 0x280] = .ok (.vcvt 9 (W64.unpack 0x28000102095)) ∧
    decode [0x1020A5, 0x140] = .ok (.vcvt 10 (W64.unpack 0x140001020A5)) ∧
    decode [0x1020B5, 0x280] = .ok (.vcvt 11 (W64.unpack 0x280001020B5)) ∧
    decode [0x102105, 0x200] = .ok (.vqnt (W64.unpack 0x20000102105)) ∧
    decode [0x102105, 0x2002602] = .ok (.vqntAmax (W64.unpack 0x200260200102105)) ∧
    decode [0x102115, 0x200] = .ok (.vdqnt (W64.unpack 0x20000102115)) ∧
    decode [0x102125, 0x0] = .ok (.vsclMxin (W64.unpack 0x102125)) ∧
    decode [0x102125, 0x40] = .ok (.vsclMxout (W64.unpack 0x4000102125)) ∧
    decode [0x102125, 0x2482] = .ok (.vsclAdde (W64.unpack 0x248200102125)) ∧
    decode [0x102125, 0xC0] = .ok (.vsclMxe4m3 (W64.unpack 0xC000102125)) ∧
    decode [0x102125, 0x100] = .ok (.vsclMxe5m2 (W64.unpack 0x10000102125)) ∧
    decode [0x102135, 0x2402] = .ok (.vhad (W64.unpack 0x240200102135)) ∧
    decode [0x6102145, 0x0] = .ok (.vlmul (W64.unpack 0x6102145)) ∧
    decode [0x6102155, 0x0] = .ok (.vldiv (W64.unpack 0x6102155)) ∧
    decode [0x6102165, 0x0] = .ok (.vladd (W64.unpack 0x6102165)) ∧
    decode [0x6102175, 0x0] = .ok (.vlsub (W64.unpack 0x6102175)) ∧
    decode [0x102185, 0x0] = .ok (.vlexp (W64.unpack 0x102185)) ∧
    decode [0x102195, 0x0] = .ok (.vllog (W64.unpack 0x102195)) ∧
    decode [0x61021A5, 0x80] = .ok (.vlcmp (W64.unpack 0x80061021A5)) ∧
    decode [0x1021B5, 0x7000000] = .ok (.vtlu (W64.unpack 0x7000000001021B5)) ∧
    decode [0x1001C5, 0x7000000] = .ok (.vtld (W64.unpack 0x7000000001001C5)) ∧
    decode [0x21D5, 0xFF0000] = .ok (.vrand (W64.unpack 0xFF0000000021D5)) ∧
    decode [0x1E5, 0x2402] = .ok (.seed (W64.unpack 0x2402000001E5)) ∧
    decode [0x1001F5, 0x2542] = .ok (.vamax (W64.unpack 0x2542001001F5)) := by
  refine ⟨?_, ?_, ?_, ?_, ?_, ?_, ?_, ?_, ?_, ?_, ?_, ?_, ?_, ?_, ?_, ?_, ?_, ?_, ?_, ?_, ?_, ?_, ?_, ?_, ?_, ?_, ?_, ?_, ?_, ?_, ?_⟩ <;> rfl

/-- BANK (Tables 2-8 and 2-10). -/
theorem test_words_bank :
    decode [0x7, 0x2402] = .ok (.blease (W64.unpack 0x240200000007)) ∧
    decode [0x17, 0x0] = .ok (.brels (W64.unpack 0x17)) ∧
    decode [0x27, 0x2402] = .ok (.bstat (W64.unpack 0x240200000027)) ∧
    decode [0x840037, 0xE00000] = .ok (.cbld (W64.unpack 0xE0000000840037)) ∧
    decode [0x107, 0x1F2402] = .ok (.tload (W64.unpack 0x1F240200000107)) ∧
    decode [0x117, 0x1F2402] = .ok (.tstore (W64.unpack 0x1F240200000117)) ∧
    decode [0x840127, 0x75F2402] = .ok (.tbuild (W64.unpack 0x75F240200840127)) ∧
    decode [0x868137, 0x1F0000] = .ok (.tquery (W64.unpack 0x1F000000868137)) ∧
    decode [0x28147, 0x131F2402] = .ok (.luacc (W64.unpack 0x131F240200028147)) ∧
    decode [0x28147, 0x471F24C2] = .ok (.luaccKv (W64.unpack 0x471F24C200028147)) ∧
    decode [0x3F868207, 0x0] = .ok (.uadd (W64.unpack 0x3F868207)) ∧
    decode [0x3F868217, 0x0] = .ok (.usub (W64.unpack 0x3F868217)) ∧
    decode [0x3F868227, 0x0] = .ok (.umax (W64.unpack 0x3F868227)) ∧
    decode [0x3F868237, 0x0] = .ok (.umin (W64.unpack 0x3F868237)) ∧
    decode [0x3F868247, 0x0] = .ok (.ushl (W64.unpack 0x3F868247)) ∧
    decode [0x3F868257, 0x0] = .ok (.ushr (W64.unpack 0x3F868257)) ∧
    decode [0x868267, 0x0] = .ok (.umov (W64.unpack 0x868267)) ∧
    decode [0x28277, 0x0] = .ok (.uclr (W64.unpack 0x28277)) ∧
    decode [0x868287, 0x0] = .ok (.usat (W64.unpack 0x868287)) ∧
    decode [0x868297, 0x2402] = .ok (.ucvt (W64.unpack 0x240200868297)) ∧
    decode [0x8682A7, 0x0] = .ok (.bred (W64.unpack 0x8682A7)) ∧
    decode [0x128307, 0x0] = .ok (.vtou (W64.unpack 0x128307)) ∧
    decode [0xA04317, 0x0] = .ok (.utov (W64.unpack 0xA04317)) := by
  refine ⟨?_, ?_, ?_, ?_, ?_, ?_, ?_, ?_, ?_, ?_, ?_, ?_, ?_, ?_, ?_, ?_, ?_, ?_, ?_, ?_, ?_, ?_, ?_⟩ <;> rfl

/-- ENGINE (Tables 2-9 and 2-10). -/
theorem test_words_engine :
    decode [0x6102009, 0x152402] = .ok (.xcopy (W64.unpack 0x15240206102009)) ∧
    decode [0x6102019, 0x1E02402] = .ok (.xcopym (W64.unpack 0x1E0240206102019)) ∧
    decode [0x6102029, 0x82402] = .ok (.xfill (W64.unpack 0x8240206102029)) ∧
    decode [0x100039, 0x2402] = .ok (.xstrm (W64.unpack 0x240200100039)) ∧
    decode [0x100049, 0x2402] = .ok (.xsclose (W64.unpack 0x240200100049)) ∧
    decode [0x6102059, 0x602402] = .ok (.xstorRead (W64.unpack 0x60240206102059)) ∧
    decode [0x6102059, 0x52442] = .ok (.xstorWrite (W64.unpack 0x5244206102059)) ∧
    decode [0x59, 0x2482] = .ok (.xstorFlush (W64.unpack 0x248200000059)) ∧
    decode [0x100069, 0x2402] = .ok (.xcoll (W64.unpack 0x240200100069)) ∧
    decode [0x100079, 0x2402] = .ok (.xcancel (W64.unpack 0x240200100079)) := by
  refine ⟨?_, ?_, ?_, ?_, ?_, ?_, ?_, ?_, ?_, ?_⟩ <;> rfl

/-- KV (Tables 2-9 and 2-10). -/
theorem test_words_kv :
    decode [0x10200B, 0x2] = .ok (.kbindBind (W64.unpack 0x20010200B)) ∧
    decode [0x610000B, 0x42] = .ok (.kbindUnbind (W64.unpack 0x420610000B)) ∧
    decode [0x610200B, 0x82] = .ok (.kbindRebind (W64.unpack 0x820610200B)) ∧
    decode [0x610201B, 0x40000002] = .ok (.kcheck (W64.unpack 0x400000020610201B)) ∧
    decode [0x10002B, 0x52402] = .ok (.ksplice (W64.unpack 0x524020010002B)) ∧
    decode [0x610203B, 0x2] = .ok (.kprobe (W64.unpack 0x20610203B)) ∧
    decode [0x10004B, 0x2402] = .ok (.krepair (W64.unpack 0x24020010004B)) ∧
    decode [0x610205B, 0x40002] = .ok (.kcommit (W64.unpack 0x400020610205B)) ∧
    decode [0x10206B, 0x2] = .ok (.kstateRead (W64.unpack 0x20010206B)) ∧
    decode [0x10206B, 0x42] = .ok (.kstateLoc (W64.unpack 0x420010206B)) ∧
    decode [0x610206B, 0x82] = .ok (.kstateFill (W64.unpack 0x820610206B)) ∧
    decode [0x10206B, 0xC2] = .ok (.kstateClean (W64.unpack 0xC20010206B)) ∧
    decode [0x10206B, 0x102] = .ok (.kstateReopen (W64.unpack 0x1020010206B)) ∧
    decode [0x10207B, 0x2] = .ok (.krels (W64.unpack 0x20010207B)) := by
  refine ⟨?_, ?_, ?_, ?_, ?_, ?_, ?_, ?_, ?_, ?_, ?_, ?_, ?_, ?_⟩ <;> rfl

/-- CONVOY (Table 2-12): a forwarding VADD, then VLEXP whose source is chained (R66 rule 5). -/
theorem test_words_convoy :
    decode [0x400C0, 0x6102101, 0x80000000, 0x88185, 0x8] = .ok (.convoy 0x400C0 [0x8000000006102101, 0x800088185]) := by
  rfl

/-! ### Ill-formed terms: one for each check -/

theorem test_ill_scalar : Instr.wf (.jtab 5 0) = false ∧ Instr.wf (.ldaq 3 5 6) = false ∧ Instr.wf (.sdrl 3 5 7) = false ∧
    Instr.wf (.amoadd 3 5 9 6 0) = false ∧ Instr.wf (.cas 3 5 9 7 3) = false ∧ Instr.wf (.fence 0 true 4) = false ∧
    Instr.wf (.fence 1 false 6) = false ∧ Instr.wf (.csrr 3 0x00B) = false ∧ Instr.wf (.csrr 3 0x10E) = false ∧
    Instr.wf (.csrr 3 0x20C) = false ∧ Instr.wf (.csrw 0 5 0x100) = false ∧ Instr.wf (.csrs 0 5 0x205) = false ∧
    Instr.wf (.csrc 0 5 0x209) = false := by decide +kernel

/-- LANE: an upper register, a form the row does not take, a chain bit in form 01, rounding code 6, a guardless VMERGE,
VCMP's fn4 6, SEW 33. -/
theorem test_ill_lane : Instr.wf (.vadd { f0 with vs1 := 32 }) = false ∧ Instr.wf (.vabs { f0 with form := 1 }) = false ∧
    Instr.wf (.vadd { f0 with form := 1, c2 := true }) = false ∧ Instr.wf (.vmulh { f0 with x16 := 0x6000 }) = false ∧
    Instr.wf (.vmerge f0) = false ∧ Instr.wf (.vcmp { f0 with fn4 := 6 }) = false ∧
    Instr.wf (.setvt { f0 with x16 := 33 }) = false ∧ Instr.wf (.kand { f0 with vs1 := 8 }) = false ∧
    Instr.wf (.vmvs { f0 with form := 2, tail := true }) = false := by decide +kernel

/-- VMEM: a form other than 00, EEW 6, queue 8, a class of 3, an offset of VLDL; CONV: form 10, an unlisted pair, FWD
without a vector destination. -/
theorem test_ill_vmem_conv : Instr.wf (.vld { f0 with form := 1 }) = false ∧ Instr.wf (.vld { f0 with fn4 := 6 }) = false ∧
    Instr.wf (.qld { f0 with vd := 8 }) = false ∧ Instr.wf (.vpref { f0 with vd := 3 }) = false ∧
    Instr.wf (.vldl { f0 with x16 := 8 }) = false ∧ Instr.wf (.vst { f0 with tail := true }) = false ∧
    Instr.wf (.vhad { f0 with form := 2 }) = false ∧ Instr.wf (.vcvt 3 f0) = false ∧ Instr.wf (.vcvt 0 { f0 with fn4 := 12 }) = false ∧
    Instr.wf (.vlcmp { f0 with x16 := 0x8000 }) = false := by decide +kernel

/-- BANK: a lower register, an invalid shape, VIS 3 and VIS outside .kv, a guard; ENGINE and KV: form 00, L2 class 3,
scope 6, VIS 3, an unused field. -/
theorem test_ill_bank_engine_kv : Instr.wf (.umov { f0 with vd := 31, vs1 := 40 }) = false ∧
    Instr.wf (.tbuild { f0 with form := 1, vs1 := 40, x16 := 0x0C00 + 0x0100 }) = false ∧
    Instr.wf (.tbuild { f0 with form := 1, vs1 := 40, x16 := 0x0C00 }) = true ∧
    Instr.wf (.luaccKv { f0 with form := 1, vd := 40, fn4 := 3, x16 := 0x6700 }) = false ∧
    Instr.wf (.luacc { f0 with form := 1, vd := 40, x16 := 0x2000 }) = false ∧ Instr.wf (.brels { f0 with mask := 1 }) = false ∧
    Instr.wf (.xcopy f0) = false ∧ Instr.wf (.xcopy { f0 with form := 1, x16 := 0x18 }) = false ∧
    Instr.wf (.xcopy { f0 with form := 1, x16 := 6 }) = false ∧ Instr.wf (.kprobe { f0 with form := 1, x16 := 0x6000 }) = false ∧
    Instr.wf (.krels { f0 with form := 1, rs := 1 }) = false := by decide +kernel

/-- CONVOY: a CNT above 4, a UNIT past the members, a unit that differs from its member's, a member no convoy takes, a
forwarded register that the next member does not chain, FWD on the last member. -/
theorem test_ill_convoy : (decode [0x000005C0]).isOk = false ∧ (decode [0x001000C0, 0x06104101, 0, 0x06104101, 0]).isOk = false ∧
    (decode [0x000040C0, 0x06104101, 0, 0x06104101, 0]).isOk = false ∧ (decode [0x000000C0, 0x06104101, 0, 0x00002011, 0x00200000]).isOk = false ∧
    (decode [0x000000C0, 0x06104101, 0x80000000, 0x06104101, 0]).isOk = false ∧
    (decode [0x000000C0, 0x06104101, 0, 0x06104101, 0x80000000]).isOk = false ∧
    (decode [0x000000C0, 0x06104101, 0, 0x06104101, 0]).isOk = true := by
  refine ⟨?_, ?_, ?_, ?_, ?_, ?_, ?_⟩ <;> rfl

/-! ### Reset -/

theorem test_reset_memory : State.reset.mem.wf = true := rfl

theorem test_reset_zero : ZeroHolds State.reset := by
  intro th h
  rw [show State.reset.th :: State.reset.parked = [State.reset.th] from rfl, List.mem_singleton] at h
  subst h
  rfl

/-- A word placed for the host's question runs as the first instruction: LDIH writes s5 := 4096 · sext(65535) (R364). -/
theorem test_first_instruction : decodeTableWord 32 0x3FFFC532 = some (.ldih 5 65535) ∧
    (nextOf (step (State.reset.withFetchWord 32 0x3FFFC532))).th.sr[5] = 0x0FFFF000 := by
  refine ⟨rfl, ?_⟩
  decide +kernel

/-! ### Worked examples of the spec -/

/-- The worked vector of R37 (Table 1-13). -/
theorem test_generator : generator 0x0000000100000000 3 2 5 = 0xBF1AFB32 := by decide +kernel

/-- Table 1-2: the scale of the block and seven of its codes; element 0 saturates from 8. -/
theorem test_bsi4_block : bsiScale (.fin 15 0) 4 = 128 ∧ bsiElem (.fin 15 0) 128 4 .rne 0 = (0x7, 1) ∧
    bsiElem (.fin (-15) 0) 128 4 .rne 0 = (0x8, 0) ∧ bsiElem (.fin (-11) 0) 128 4 .rne 0 = (0xA, 0) ∧
    bsiElem (.fin 3 (-2)) 128 4 .rne 0 = (0x0, 0) ∧ bsiElem (.fin (-5) (-1)) 128 4 .rne 0 = (0xF, 0) ∧
    bsiElem (.fin 5 0) 128 4 .rne 0 = (0x2, 0) ∧ bsiElem (.fin (-7) 0) 128 4 .rne 0 = (0xC, 0) := by decide +kernel

/-- The worked entries of R120: entry 13 is 288 and entry 14 is -1250 at texp -8. -/
theorem test_table_entry :
    (let w : Nat → Nat := fun j => [0xFF00, 0x7F00, 0x8096, 0x0096].getD j 0
     let a : Nat → Nat := fun j => [0x0196, 0xFE00].getD j 0
     (tableEntry 2 2 (some w) (-8) a 13).1 = 288 ∧ (tableEntry 2 2 (some w) (-8) a 14).1 = -1250) := by decide +kernel

/-! ### Single steps, with results worked out from the rules -/

/-- The scalar register a step leaves. -/
def sAfter (i : Instr) (s : State) (r : Reg) : Word := getR (nextOf (exec i s)) r

/-- R361, R363: subtraction wraps; a quotient truncates toward zero; a quotient that does not fit saturates; the
remainder of a division by 0 is 0. -/
theorem test_alu_corners : sAfter (.sub 3 1 2) (withRegs base [(1, 0), (2, 1)]) 3 = -1 ∧
    sAfter (.div 3 1 2) (withRegs base [(1, -7), (2, 2)]) 3 = -3 ∧
    sAfter (.div 3 1 2) (withRegs base [(1, 1#64 <<< 63), (2, -1)]) 3 = (1#64 <<< 63) - 1 ∧
    sAfter (.rem 3 1 2) (withRegs base [(1, -7), (2, 0)]) 3 = 0 ∧
    sAfter (.mulh 3 1 2) (withRegs base [(1, -1), (2, -1)]) 3 = 0 ∧
    sAfter (.sra 3 1 2) (withRegs base [(1, -8), (2, 65)]) 3 = -4 := by decide +kernel

/-- Element `e` of v4 at SEW, and SFLAGS, once the instruction has been performed. -/
def v4After (i : Instr) (s : State) (e : Nat) : Nat × Word :=
  let t := drain (nextOf (exec i s))
  (elemOf t.th.lanes 4 (sewOf s) e, t.th.csr.sflags)

/-- R250, R245: 0x7FFF + 1 wraps in VADD, and VSADD clamps it and sets SAT; 5 + 3 is 8 in both. -/
theorem test_vadd_vsadd : v4After (.vadd { f1 with vs1 := 1, vs2 := 2 }) vec 0 = (8, 0) ∧
    v4After (.vadd { f1 with vs1 := 1, vs2 := 2 }) vec 1 = (0x8000, 0) ∧
    v4After (.vsadd { f1 with vs1 := 1, vs2 := 2 }) vec 1 = (0x7FFF, 1) := by decide +kernel

/-- The example of R261: 0x7FFF shifted right by 12 and narrowed to 4 bits saturates to 7 and sets SAT (imm16 0x08CC). -/
theorem test_vnar_example : v4After (.vnar { f1 with vs1 := 1, form := 2, x16 := 0x08CC }) vec 1 = (7, 1) := by decide +kernel

/-- A guard leaves element 1 alone: only k1's element 0 is active (R246). -/
theorem test_guard : (v4After (.vsub { f1 with vs1 := 1, vs2 := 2, mask := 1 }) vec 0).1 = 2 ∧
    (v4After (.vsub { f1 with vs1 := 1, vs2 := 2, mask := 1 }) vec 1).1 = 0 := by decide +kernel


/-! ### The longest test -/

theorem test_meets_KvProbeCommit_probe : VecReady (.kprobe fProbe) probeS ∧ FillsRead probeS ∧ NoOwnStores probeS ∧ NoCommandWrites probeS ∧
    probeS.th.order.awaited = [] ∧ probeB = true :=
  ⟨ready _ _ (by decide +kernel), fills_read _ (by decide +kernel), no_stores _ rfl, no_commands _ rfl, rfl, by decide +kernel⟩


end Sys2Proof.Tests
end

section
/-! SUPPORT. Lanes: where the elements of a register stand, what a write of some leaves, and results with their
tail (R228-R232). -/
namespace Sys2Proof.Machine

/-! ### Positions -/

theorem length_onesBelow (n x : Nat) : (onesBelow n x).length = popCount n x := by
  induction n generalizing x with
  | zero => rfl
  | succ n ih =>
    have hrec : ((List.range n).map Nat.succ).filter (fun i => x.testBit i) = (onesBelow n (x / 2)).map Nat.succ := by
      simp only [onesBelow, List.filter_map]
      congr 2
      funext i
      simp [Nat.testBit_succ]
    rw [popCount, ← ih, onesBelow, List.range_succ_eq_map, List.filter_cons, hrec]
    rcases Nat.mod_two_eq_zero_or_one x with h | h
    · simp [Nat.testBit_zero, h]
    · simp [Nat.testBit_zero, h, Nat.add_comm]

theorem onesBelow_nodup (n x : Nat) : (onesBelow n x).Nodup := List.nodup_range.filter _

/-- No lane group is listed twice. -/
theorem onesBelow_getElem_inj {n x j k : Nat} (hj : j < (onesBelow n x).length) (hk : k < (onesBelow n x).length)
    (h : (onesBelow n x)[j] = (onesBelow n x)[k]) : j = k := by
  have hne := List.pairwise_iff_getElem.1 (onesBelow_nodup n x)
  rcases Nat.lt_trichotomy j k with hlt | heq | hgt
  · exact absurd h (hne j k hj hk hlt)
  · exact heq
  · exact absurd h.symm (hne k j hk hj hgt)

theorem posOf_eq {g : BitVec 16} {e : Nat} (h : e / 1024 < (onesBelow 16 g.toNat).length) :
    posOf g e = 1024 * (onesBelow 16 g.toNat)[e / 1024] + e % 1024 := by
  unfold posOf
  rw [List.getElem?_eq_getElem h]

theorem group_lt_of_lt_vlmaxOf {l : Lanes} {e : Nat} (h : e < vlmaxOf l) :
    e / 1024 < (onesBelow 16 l.gmap.toNat).length := by
  rw [length_onesBelow]
  exact Nat.div_lt_of_lt_mul h

theorem posOf_lt {l : Lanes} {e : Nat} (h : e < vlmaxOf l) : posOf l.gmap e < 16384 := by
  have hg := group_lt_of_lt_vlmaxOf h
  have hmem := List.getElem_mem hg
  have hlt : (onesBelow 16 l.gmap.toNat)[e / 1024] < 16 := by
    simpa using (List.mem_filter.1 hmem).1
  rw [posOf_eq hg]
  omega

/-- Each element below VLMAX stands at a position of its own (R230). -/
theorem posOf_inj {l : Lanes} {e e' : Nat} (h : e < vlmaxOf l) (h' : e' < vlmaxOf l)
    (he : posOf l.gmap e = posOf l.gmap e') : e = e' := by
  have hg := group_lt_of_lt_vlmaxOf h
  have hg' := group_lt_of_lt_vlmaxOf h'
  rw [posOf_eq hg, posOf_eq hg'] at he
  have hquot : e / 1024 = e' / 1024 := onesBelow_getElem_inj hg hg' (by omega)
  omega

/-- Planes kept at distinct places are distinct (R228). -/
theorem planeKey_inj {l : Lanes} {r r' e e' : Nat} (h : e < vlmaxOf l) (h' : e' < vlmaxOf l)
    (hk : 16384 * r + posOf l.gmap e = 16384 * r' + posOf l.gmap e') : r = r' ∧ e = e' := by
  have hp := posOf_lt h
  have hp' := posOf_lt h'
  have hr : r = r' := by omega
  exact ⟨hr, posOf_inj h h' (by omega)⟩

theorem planesOf_lt (l : Lanes) (r e : Nat) : planesOf l r e < 2 ^ 16 := (smGet l.v _).isLt

theorem elemOf_lt (l : Lanes) (r e : Nat) {w : Nat} (hw : w ≤ 32) : elemOf l r w e < 2 ^ w := by
  unfold elemOf
  split
  · exact Nat.mod_lt _ (Nat.two_pow_pos w)
  · have hlow := planesOf_lt l r e
    have hhigh := Nat.mod_lt (planesOf l (r + 1) e) (Nat.two_pow_pos (w - 16))
    have hpow : 2 ^ 16 * 2 ^ (w - 16) = 2 ^ w := by rw [← Nat.pow_add, show 16 + (w - 16) = w by omega]
    calc planesOf l r e + 2 ^ 16 * (planesOf l (r + 1) e % 2 ^ (w - 16))
        < 2 ^ 16 * (planesOf l (r + 1) e % 2 ^ (w - 16) + 1) := by omega
      _ ≤ 2 ^ 16 * 2 ^ (w - 16) := Nat.mul_le_mul_left _ hhigh
      _ = 2 ^ w := hpow

theorem putBits_low {x n v : Nat} : putBits x 0 n v = x / 2 ^ n * 2 ^ n + v % 2 ^ n := by
  have := Nat.div_add_mod x (2 ^ n)
  simp only [putBits, bitsOf, Nat.shiftRight_zero, Nat.shiftLeft_zero]
  rw [Nat.mul_comm] at this
  omega

/-- What writing planes 0 to w-1 of an element leaves there: its low bits the result's, the planes above as before (R228). -/
theorem planesOf_setPlanes_same {l : Lanes} {r w e : Nat} (x : Nat) (he : e < vlmaxOf l) (hw : w ≤ 16) :
    planesOf (setPlanes l r w e x) r e = planesOf l r e / 2 ^ w * 2 ^ w + x % 2 ^ w := by
  have hlt := planesOf_lt l r e
  have hpow : 2 ^ w ∣ 2 ^ 16 := Nat.pow_dvd_pow 2 hw
  have hfit : planesOf l r e / 2 ^ w * 2 ^ w + x % 2 ^ w < 2 ^ 16 := by
    obtain ⟨c, hc⟩ := hpow
    have hq : planesOf l r e / 2 ^ w < c := Nat.div_lt_of_lt_mul (hc ▸ hlt)
    have hx := Nat.mod_lt x (Nat.two_pow_pos w)
    calc planesOf l r e / 2 ^ w * 2 ^ w + x % 2 ^ w < (planesOf l r e / 2 ^ w + 1) * 2 ^ w := by rw [Nat.add_mul]; omega
      _ ≤ c * 2 ^ w := Nat.mul_le_mul_right _ hq
      _ = 2 ^ 16 := by rw [hc, Nat.mul_comm]
  simp only [setPlanes, if_pos he, planesOf, smGet_smSet_same, Nat.min_eq_left hw, BitVec.toNat_ofNat]
  rw [putBits_low]
  exact Nat.mod_eq_of_lt hfit

theorem planesOf_setPlanes_other {l : Lanes} {r r' w e e' : Nat} (x : Nat) (he' : e' < vlmaxOf l) (h : r' ≠ r ∨ e' ≠ e) :
    planesOf (setPlanes l r w e x) r' e' = planesOf l r' e' := by
  unfold setPlanes
  split
  · rename_i he
    refine congrArg BitVec.toNat (smGet_smSet_other _ _ fun hk => ?_)
    obtain ⟨hr, hee⟩ := planeKey_inj he' he hk
    exact h.elim (· hr) (· hee)
  · rfl

/-! ### Elements -/

/-- The lanes apart from lower register planes. -/
def SameButPlanes (l m : Lanes) : Prop := m = { l with v := m.v }

theorem setPlanes_sameButPlanes (l : Lanes) (r w e x : Nat) : SameButPlanes l (setPlanes l r w e x) := by
  unfold setPlanes SameButPlanes
  split <;> rfl

theorem SameButPlanes.trans {l m n : Lanes} (h : SameButPlanes l m) (h' : SameButPlanes m n) : SameButPlanes l n := by
  unfold SameButPlanes at *
  rw [h', h]

theorem setElem_sameButPlanes (l : Lanes) (r w e x : Nat) : SameButPlanes l (setElem l r w e x) := by
  unfold setElem
  split
  · exact setPlanes_sameButPlanes ..
  · exact (setPlanes_sameButPlanes ..).trans (setPlanes_sameButPlanes ..)

theorem writeElems_sameButPlanes (l : Lanes) (r w : Nat) (xs : List (Nat × Nat)) :
    SameButPlanes l (writeElems l r w xs) := by
  induction xs generalizing l with
  | nil => rfl
  | cons x xs ih => exact (setElem_sameButPlanes l r w x.1 x.2).trans (ih _)

theorem SameButPlanes.vlmaxOf {l m : Lanes} (h : SameButPlanes l m) : vlmaxOf m = vlmaxOf l := by
  rw [h]; rfl

@[simp] theorem vlmaxOf_setPlanes (l : Lanes) (r w e x : Nat) : vlmaxOf (setPlanes l r w e x) = vlmaxOf l :=
  (setPlanes_sameButPlanes l r w e x).vlmaxOf

@[simp] theorem vlmaxOf_setElem (l : Lanes) (r w e x : Nat) : vlmaxOf (setElem l r w e x) = vlmaxOf l :=
  (setElem_sameButPlanes l r w e x).vlmaxOf

/-- A register other than the written ones keeps its planes, and every element but the written one does (R228). -/
theorem planesOf_setElem_other {l : Lanes} {r r' w e e' : Nat} (x : Nat) (he' : e' < vlmaxOf l)
    (h : e' ≠ e ∨ (r' ≠ r ∧ (w ≤ 16 ∨ r' ≠ r + 1))) : planesOf (setElem l r w e x) r' e' = planesOf l r' e' := by
  have hm : e' < vlmaxOf (setPlanes l r 16 e x) := by rwa [vlmaxOf_setPlanes]
  have hlow : r' ≠ r ∨ e' ≠ e := h.elim .inr fun h => .inl h.1
  unfold setElem
  split
  · exact planesOf_setPlanes_other x he' hlow
  · rename_i hw
    have hhigh : r' ≠ r + 1 ∨ e' ≠ e := h.elim .inr fun h => .inl (h.2.resolve_left hw)
    rw [planesOf_setPlanes_other _ hm hhigh, planesOf_setPlanes_other x he' hlow]

/-- `m` holds `x` as element `e` of register `r` at width `w`, the planes above and the other registers as in `l` (R228). -/
def HoldsElem (l m : Lanes) (r w e x : Nat) : Prop :=
  elemOf m r w e = x ∧ (w ≤ 16 → planesOf m r e / 2 ^ w = planesOf l r e / 2 ^ w) ∧
  (16 < w → planesOf m (r + 1) e / 2 ^ (w - 16) = planesOf l (r + 1) e / 2 ^ (w - 16)) ∧
  ∀ r', r' ≠ r → (w ≤ 16 ∨ r' ≠ r + 1) → planesOf m r' e = planesOf l r' e

theorem mul_add_mod_div {a b n : Nat} : (a / 2 ^ n * 2 ^ n + b % 2 ^ n) / 2 ^ n = a / 2 ^ n := by
  have hb := Nat.mod_lt b (Nat.two_pow_pos n)
  rw [Nat.mul_comm, Nat.mul_add_div (Nat.two_pow_pos n), Nat.div_eq_of_lt hb, Nat.add_zero]

/-- An element that was written is the value, and nothing beside its low `w` planes changed (R228). -/
theorem setElem_holds {l : Lanes} {w e x : Nat} (r : Nat) (he : e < vlmaxOf l) (hw : w ≤ 32) (hx : x < 2 ^ w) :
    HoldsElem l (setElem l r w e x) r w e x := by
  have hm : e < vlmaxOf (setPlanes l r 16 e x) := by rwa [vlmaxOf_setPlanes]
  refine ⟨?_, ?_, ?_, fun r' hr hr' => planesOf_setElem_other x he (.inr ⟨hr, hr'⟩)⟩
  · by_cases h : w ≤ 16
    · rw [elemOf, if_pos h, setElem, if_pos h, planesOf_setPlanes_same x he h, Nat.mul_add_mod_self_right, Nat.mod_mod,
        Nat.mod_eq_of_lt hx]
    · have hdiv : x / 2 ^ 16 < 2 ^ (w - 16) := by
        refine Nat.div_lt_of_lt_mul ?_
        rwa [← Nat.pow_add, show 16 + (w - 16) = w by omega]
      have hlow : planesOf l r e / 2 ^ 16 = 0 := Nat.div_eq_of_lt (planesOf_lt l r e)
      rw [elemOf, if_neg h, setElem, if_neg h, planesOf_setPlanes_other _ hm (.inl (by omega)),
        planesOf_setPlanes_same x he (Nat.le_refl 16), planesOf_setPlanes_same _ hm (by omega), hlow,
        Nat.mul_add_mod_self_right, Nat.mod_mod, Nat.mod_eq_of_lt hdiv]
      omega
  · intro h
    rw [setElem, if_pos h, planesOf_setPlanes_same x he h, mul_add_mod_div]
  · intro h
    rw [setElem, if_neg (by omega), planesOf_setPlanes_same _ hm (by omega), mul_add_mod_div,
      planesOf_setPlanes_other x he (.inl (by omega))]

theorem holds_elemOf {l m : Lanes} {e : Nat} (r w : Nat) (h : ∀ r', planesOf m r' e = planesOf l r' e) :
    HoldsElem l m r w e (elemOf l r w e) := by
  simp [HoldsElem, elemOf, h]

theorem HoldsElem.trans {l m n : Lanes} {r w e x y : Nat} (h : HoldsElem l m r w e x) (h' : HoldsElem m n r w e y) :
    HoldsElem l n r w e y := by
  obtain ⟨-, hlow, hhigh, hrest⟩ := h
  obtain ⟨hval, hlow', hhigh', hrest'⟩ := h'
  exact ⟨hval, fun hw => (hlow' hw).trans (hlow hw), fun hw => (hhigh' hw).trans (hhigh hw),
    fun r' hr hr' => (hrest' r' hr hr').trans (hrest r' hr hr')⟩

/-- One write among many: element `e` is what was written at it, if anything was. -/
theorem setElem_holds_ite {l : Lanes} {w a e x : Nat} (r : Nat) (he : e < vlmaxOf l) (hw : w ≤ 32) (hx : x < 2 ^ w) :
    HoldsElem l (setElem l r w a x) r w e (if e = a then x else elemOf l r w e) := by
  split
  · rename_i h
    subst h
    exact setElem_holds r he hw hx
  · rename_i h
    exact holds_elemOf r w fun r' => planesOf_setElem_other x he (.inl h)

/-- Writing `g` at some elements leaves `g` there and every other element as it was. -/
theorem writeElems_holds {l : Lanes} {w e : Nat} {g : Nat → Nat} (r : Nat) (es : List Nat) (he : e < vlmaxOf l)
    (hw : w ≤ 32) (hg : ∀ a ∈ es, g a < 2 ^ w) :
    HoldsElem l (writeElems l r w (es.map fun a => (a, g a))) r w e (if e ∈ es then g e else elemOf l r w e) := by
  induction es generalizing l with
  | nil => exact holds_elemOf r w fun _ => rfl
  | cons a es ih =>
    have hfirst := setElem_holds_ite (a := a) r he hw (hg a (by simp))
    have hrest := ih (l := setElem l r w a (g a)) (by simpa using he) fun b hb => hg b (by simp [hb])
    have hval : (if e ∈ es then g e else elemOf (setElem l r w a (g a)) r w e) =
        if e ∈ a :: es then g e else elemOf l r w e := by
      rw [hfirst.1]
      by_cases h : e = a <;> simp [h]
    exact hval ▸ hfirst.trans hrest

/-! ### Results and their tail -/

theorem mem_tailElems {l : Lanes} {f : W64} {e : Nat} :
    e ∈ tailElems l f ↔ f.tail = true ∧ l.vl.toNat ≤ e ∧ e < vlmaxOf l := by
  have hdrop : e ∈ (List.range (vlmaxOf l)).drop l.vl.toNat ↔ l.vl.toNat ≤ e ∧ e < vlmaxOf l := by
    rw [List.range_eq_range', List.drop_range', List.mem_range'_1]
    omega
  unfold tailElems
  split <;> simp_all

/-- Results below VL and zeros in the tail, as `putResults` writes them (R57, R232). -/
theorem writeElems_tail_holds {l : Lanes} {f : W64} {w e : Nat} {g : Nat → Nat} (r : Nat) {es : List Nat}
    (he : e < vlmaxOf l) (hw : w ≤ 32) (hes : ∀ a ∈ es, a < l.vl.toNat) (hg : ∀ a ∈ es, g a < 2 ^ w) :
    HoldsElem l (writeElems l r w ((es.map fun a => (a, g a)) ++ (tailElems l f).map fun a => (a, 0))) r w e
      (if e ∈ es then g e else if f.tail = true ∧ l.vl.toNat ≤ e then 0 else elemOf l r w e) := by
  have hres : (es.map fun a => (a, g a)) = es.map fun a => (a, if a < l.vl.toNat then g a else 0) :=
    List.map_congr_left fun a ha => by rw [if_pos (hes a ha)]
  have htail : ((tailElems l f).map fun a => (a, 0)) = (tailElems l f).map fun a => (a, if a < l.vl.toNat then g a else 0) :=
    List.map_congr_left fun a ha => by rw [if_neg (by have := mem_tailElems.1 ha; omega)]
  have hbound : ∀ a ∈ es ++ tailElems l f, (if a < l.vl.toNat then g a else 0) < 2 ^ w := by
    intro a ha
    split
    · rename_i hlt
      refine hg a ((List.mem_append.1 ha).resolve_right fun ht => ?_)
      have := mem_tailElems.1 ht
      omega
    · exact Nat.two_pow_pos w
  have hall := writeElems_holds r (es ++ tailElems l f) he hw hbound
  have hval : (if e ∈ es ++ tailElems l f then if e < l.vl.toNat then g e else 0 else elemOf l r w e) =
      if e ∈ es then g e else if f.tail = true ∧ l.vl.toNat ≤ e then 0 else elemOf l r w e := by
    simp only [List.mem_append, mem_tailElems, he, and_true]
    by_cases h : e ∈ es
    · rw [if_pos (.inl h), if_pos (hes e h), if_pos h]
    · rw [if_neg h]
      by_cases ht : f.tail = true ∧ l.vl.toNat ≤ e
      · rw [if_pos (.inr ht), if_neg (Nat.not_lt.2 ht.2), if_pos ht]
      · rw [if_neg (not_or.2 ⟨h, ht⟩), if_neg ht]
  rw [hres, htail, ← List.map_append, ← hval]
  exact hall

end Sys2Proof.Machine
end

section
/-! SUPPORT. A lone LANE instruction, from its posting to its completion: what the vector side reads, and what remains once its
effect has been performed (R55, R194, R198, R245). -/
namespace Sys2Proof.Claims
open Sys2Proof.Machine

/-! ### Posting it -/

/-- The entry that a lone instruction has in the VIQ. -/
def postedEntry (i : Instr) (s : State) : VEntry :=
  { entryOf i s.th.pc s with claimed := (queueOf i).isSome, queue := (queueOf i).getD 0 }

/-- The queues once a consumer has claimed its entry. -/
def claimedQueues (i : Instr) (s : State) : Vector (List QEntry) 8 :=
  match queueOf i with
  | none => s.th.q
  | some q => s.th.q.set q.toNat (claimFirst s.th.q[q.toNat])

/-- The state a lone instruction is performed from: posted, alone in the VIQ, its source claimed (R194, R198). -/
def awaiting (i : Instr) (s : State) : State :=
  { s with th := { doneThread i s with viq := [postedEntry i s], vfsw := s.th.vfsw, q := claimedQueues i s } }

/-- What a lone LANE instruction runs with. -/
def laneCtx (i : Instr) (f : W64) (s : State) : VCtx := { e := postedEntry i s, f := f, src := s.th.lanes }

@[simp] theorem laneCtx_e (i : Instr) (f : W64) (s : State) : (laneCtx i f s).e = postedEntry i s := rfl
@[simp] theorem laneCtx_f (i : Instr) (f : W64) (s : State) : (laneCtx i f s).f = f := rfl

/-- The package with an instruction's counter value consumed, where it needs one (R39). -/
def counted (i : Instr) (s : State) : State :=
  if usesCounter i s.th.csr.rmode.toNat then updTh s fun th => { th with csr := { th.csr with gcnt := th.csr.gcnt + 1 } } else s

/-- The instruction is issued to the VIQ, and its posting does nothing but consume a counter value where it has to. -/
structure PostsPlainly (i : Instr) : Prop where
  issued : ∀ s, exec i s = issueVec i s
  notSeed : isSeed i = false
  effect : ∀ addr e, postEffect i addr e = doing (counted i)

theorem entryOf_lane {i : Instr} {op : BitVec 8} {f : W64} (h : vecKey i = some (0, op, f)) (addr : Word) (s : State) :
    entryOf i addr s = { conv := false, member := 0, cnt := 0, addr := addr.setWidth 56, insn := i
                         devthr := s.th.csr.devthr, rmode := s.th.csr.rmode, bmask := s.th.csr.bmask
                         gkey := s.th.csr.gkey, gcnt := s.th.csr.gcnt
                         opa := if f.form = 1 then getR s f.rs else 0 } := by
  simp only [entryOf, h]
  by_cases hf : f.form = 1#2 <;> simp [hf]

/-- The entry that a consumer which is ready finds at the head of its queue (R198, R199). -/
theorem VecReady.queueHead {i : Instr} {s : State} {q : BitVec 3} (h : VecReady i s) (hq : queueOf i = some q) :
    ∃ e rest, s.th.q[q.toNat] = e :: rest ∧ e.claimed = false ∧ e.arrived = true ∧ e.failed = false ∧
      e.vl = s.th.lanes.vl ∧ e.sew = s.th.lanes.sew := by
  obtain ⟨-, -, -, -, -, hready⟩ := h
  simpa only [QueueReady, hq] using hready

/-- A consumer claims the head of its queue (R198, R199). -/
theorem claimQueue_ok {i : Instr} {s : State} {q : BitVec 3} (hq : queueOf i = some q) (h : VecReady i s) :
    claimQueue q s = .ok () (updTh s fun th => { th with q := claimedQueues i s }) := by
  obtain ⟨e, rest, he, hclaimed, -, -, hvl, hsew⟩ := h.queueHead hq
  have hviq : s.th.viq = [] := h.1
  have hfind : (s.th.q[q.toNat]).find? (fun e => !e.claimed) = some e := by simp [he, hclaimed]
  have hprog : programSew s.th = s.th.lanes.sew.toNat := by simp [programSew, hviq]
  simp only [claimQueue, bind, EStateM.bind, get, getThe, MonadStateOf.get, EStateM.get, hfind, hprog, hvl, hsew, doing,
    claimedQueues, hq, bne_self_eq_false, Bool.or_self, Bool.false_eq_true, if_false]
  rfl

/-- One operation, then another, of which the first goes through. -/
theorem bind_ok {α β : Type} {x : Op α} {f : α → Op β} {s t : State} {a : α} (h : x s = .ok a t) : (x >>= f) s = f a t := by
  show EStateM.bind x f s = f a t
  simp only [EStateM.bind, h]

theorem postEntry_ok {i : Instr} {s : State} (hp : PostsPlainly i) (h : VecReady i s) :
    postEntry i s.th.pc none s = .ok () (counted i (updTh s fun th =>
      { th with q := claimedQueues i s, viq := th.viq ++ [postedEntry i s], csr := { th.csr with vstart := 0 } })) := by
  unfold postEntry
  simp only [hp.effect]
  cases hq : queueOf i with
  | none =>
    simp only [claimedQueues, postedEntry, hq]
    rfl
  | some q =>
    simp only [claimedQueues, postedEntry, hq]
    refine (bind_ok (claimQueue_ok hq h)).trans ?_
    simp only [claimedQueues, hq]
    rfl

/-- Posting a lone instruction leaves it alone in the VIQ, PC past it (R55, R194). -/
theorem postOne_ok {i : Instr} {s : State} (hp : PostsPlainly i) (h : VecReady i s) :
    settle false s (postOne i s) = awaiting i s := by
  have hone : postOne i s = (postEntry i s.th.pc none >>= fun _ => doing fun t => advance t 8) s := by
    unfold postOne
    rw [hp.notSeed]
    rfl
  rw [hone, bind_ok (postEntry_ok hp h)]
  have hviq : s.th.viq = [] := h.1
  by_cases hu : usesCounter i s.th.csr.rmode.toNat
  · simp [counted, settle, doing, awaiting, doneThread, wentOn, updTh, advance, setPc, hu, hviq]
  · simp [counted, settle, doing, awaiting, doneThread, wentOn, updTh, advance, setPc, hu, hviq]

/-- No check of issue stops an instruction that is ready (R4, R70, R427). -/
theorem issueChecks_ok {i : Instr} {s : State} (h : VecReady i s) : issueChecks none [i] s = .ok () s := by
  obtain ⟨-, hmode, -, habsent, hfwd, -⟩ := h
  simp [issueChecks, hfwd, habsent, hmode]

/-- A lone instruction is posted at once; the vector side then goes on, or waits for its own turn. -/
theorem issueVec_ok {i : Instr} {s : State} (hp : PostsPlainly i) (h : VecReady i s) :
    issueVec i s = .next (if s.vlag then awaiting i s else drain (awaiting i s)) := by
  have hroom : viqRoom 1 s.th = true := by simp [viqRoom, viqSize, h.1]
  simp only [issueVec, issue, issueChecks_ok h, whenViq, hroom, if_true, postOne_ok hp h]
  rfl

/-! ### Performing it -/

theorem drain_empty {s : State} (h : s.th.viq = []) : drain s = s := by
  have hheld : vectorHeld s = true := by simp [vectorHeld, h]
  unfold drain drainFuel
  rw [drainSome, if_pos hheld]

/-- A VIQ whose only entry goes through is worked off by it. -/
theorem drain_single {s t : State} (hs : vectorHeld s = false) (h : performHead s = .ok () t) (ht : t.th.viq = []) :
    drain s = updTh t (wentOn true) := by
  have hheld : vectorHeld (updTh t (wentOn true)) = true := by simp [vectorHeld, wentOn, ht]
  have hne : ¬ vectorHeld s = true := by simp [hs]
  unfold drain drainFuel
  rw [drainSome, if_neg hne, h]
  show drainSome true (2 ^ 20 + s.th.viq.length) (updTh t (wentOn true)) = _
  rw [show 2 ^ 20 + s.th.viq.length = (2 ^ 20 - 1 + s.th.viq.length) + 1 by omega, drainSome, if_pos hheld]

theorem awaiting_not_held {i : Instr} {s : State} (h : VecReady i s) : vectorHeld (awaiting i s) = false := by
  obtain ⟨-, hmode, hstopped, -, -, -⟩ := h
  simp [vectorHeld, awaiting, doneThread, hmode, hstopped]

/-- The entry a consumer finds is the one at the head of its queue (R198). -/
theorem claimedEntry_awaiting {i : Instr} {f : W64} {s : State} {q : BitVec 3} {e : QEntry} {rest : List QEntry}
    (hq : queueOf i = some q) (he : s.th.q[q.toNat] = e :: rest) (hc : e.claimed = false) :
    claimedEntry (awaiting i s) (laneCtx i f s) = some { e with claimed := true } := by
  simp [claimedEntry, awaiting, laneCtx, postedEntry, claimedQueues, hq, he, claimFirst, hc]

theorem awaitArrival_ok {i : Instr} {f : W64} {s : State} {q : BitVec 3} (h : VecReady i s) (hq : queueOf i = some q) :
    awaitArrival (laneCtx i f s) (awaiting i s) = .ok () (awaiting i s) := by
  obtain ⟨e, rest, he, hc, harr, hfail, -, -⟩ := h.queueHead hq
  simp [awaitArrival, claimedEntry_awaiting hq he hc, harr, hfail]

/-- The queues a consumer leaves: its claim consumed (R198). -/
theorem drop_claimedQueues {i : Instr} {s : State} {q : BitVec 3} (h : VecReady i s) (hq : queueOf i = some q) :
    (claimedQueues i s).set q.toNat (dropClaimed 0 (claimedQueues i s)[q.toNat]) = queuesAfter i s := by
  obtain ⟨e, rest, he, hc, -, -, -, -⟩ := h.queueHead hq
  simp [claimedQueues, queuesAfter, hq, he, claimFirst, hc, dropClaimed]

theorem claimedQueues_none {i : Instr} {s : State} (hq : queueOf i = none) : claimedQueues i s = queuesAfter i s := by
  simp [claimedQueues, queuesAfter, hq]

theorem insn_postedEntry {i : Instr} {op : BitVec 8} {f : W64} (hk : vecKey i = some (0, op, f)) (s : State) :
    (postedEntry i s).insn = i := by
  simp [postedEntry, entryOf_lane hk]

theorem conv_postedEntry {i : Instr} {op : BitVec 8} {f : W64} (hk : vecKey i = some (0, op, f)) (s : State) :
    (postedEntry i s).conv = false := by
  simp [postedEntry, entryOf_lane hk]

/-- The entry of a lone LANE instruction performs its effect and consumes its claim (R198). -/
theorem performEntry_awaiting {i : Instr} {op : BitVec 8} {f : W64} {s t : State} (hk : vecKey i = some (0, op, f))
    (h : VecReady i s) (heff : vecEffect i (laneCtx i f s) (awaiting i s) = .ok () t) (ht : t.th.q = claimedQueues i s) :
    performEntry (postedEntry i s) none (awaiting i s) = .ok () (updTh t fun th => { th with q := queuesAfter i s }) := by
  unfold performEntry
  rw [insn_postedEntry hk, hk]
  cases hq : queueOf i with
  | none =>
    have hclaimed : (postedEntry i s).claimed = false := by simp [postedEntry, hq]
    simp only [hclaimed]
    refine (bind_ok heff).trans ?_
    rw [← claimedQueues_none hq, ← ht]
    rfl
  | some q =>
    have hclaimed : (postedEntry i s).claimed = true := by simp [postedEntry, hq]
    have hqueue : (postedEntry i s).queue = q := by simp [postedEntry, hq]
    have hconsume : consumeEntry (postedEntry i s) (laneCtx i f s) (awaiting i s) = .ok () t := by
      simp only [consumeEntry, awaitArrival_ok h hq, insn_postedEntry hk, heff]
    simp only [hclaimed]
    refine (bind_ok hconsume).trans ?_
    rw [← drop_claimedQueues h hq, ← ht, ← hqueue]
    rfl

/-- A lone LANE instruction whose effect changes neither the VIQ nor the queues is performed and freed. -/
theorem performHead_awaiting {i : Instr} {op : BitVec 8} {f : W64} {s t : State} (hk : vecKey i = some (0, op, f))
    (h : VecReady i s) (heff : vecEffect i (laneCtx i f s) (awaiting i s) = .ok () t)
    (hviq : t.th.viq = [postedEntry i s]) (hq : t.th.q = claimedQueues i s) :
    performHead (awaiting i s) = .ok () (updTh t fun th => { th with viq := [], q := queuesAfter i s }) := by
  show (if (postedEntry i s).conv then _ else performSingle (postedEntry i s) (awaiting i s)) = _
  rw [conv_postedEntry hk, if_neg Bool.false_ne_true, performSingle, performEntry_awaiting hk h heff hq]
  simp [popEntries, updTh, hviq]

/-- What remains of a lone instruction once its effect has been performed: its entry and its claim are freed. -/
def finished (i : Instr) (s t : State) : State :=
  updTh t fun th => { th with viq := [], q := queuesAfter i s, vfsw := none }

/-- A lone LANE instruction executes to what its effect leaves, whether or not the vector side waits for its turn. -/
theorem executes_of_effect {i : Instr} {op : BitVec 8} {f : W64} {s t : State} {P : State → Prop}
    (hp : PostsPlainly i) (hk : vecKey i = some (0, op, f)) (h : VecReady i s)
    (heff : vecEffect i (laneCtx i f s) (awaiting i s) = .ok () t)
    (hviq : t.th.viq = [postedEntry i s]) (hq : t.th.q = claimedQueues i s) (hP : P (finished i s t)) : Executes i s P := by
  have hdrain : drain (awaiting i s) = finished i s t :=
    drain_single (awaiting_not_held h) (performHead_awaiting hk h heff hviq hq) rfl
  refine ⟨_, (hp.issued s).trans (issueVec_ok hp h), ?_⟩
  split
  · rwa [hdrain]
  · rwa [hdrain, drain_empty rfl]

/-! ### Its operands -/

theorem pairOk_iff {r : Reg} {w : Nat} : pairOk r w = true ↔ w ≤ 16 ∨ r.toNat % 2 = 0 := by simp [pairOk]

/-- The checks of R240 pass where the registers suit the widths. -/
theorem laneChecks_ok {i : Instr} {f : W64} {s : State} {w1 w2 wd : Nat} (h : RegsOk f s w1 w2 wd) :
    laneChecks (laneCtx i f s) w1 w2 wd (awaiting i s) = .ok () (awaiting i s) := by
  obtain ⟨hw, hvs1, hvs2, hvd⟩ := h
  have hext : ext (laneCtx i f s) 0 5 ≤ sewOf s := by
    unfold ext
    split
    · exact Nat.zero_le _
    · rename_i hform
      exact hw.resolve_left hform
  have hsecond : (f.form != 0 || pairOk f.vs2 w2) = true := by
    rcases hvs2 with hform | hpair
    · rw [bne_iff_ne.2 hform, Bool.true_or]
    · rw [pairOk_iff.2 hpair, Bool.or_true]
  have hpairs : (decide (ext (laneCtx i f s) 0 5 ≤ sewOf s) && pairOk f.vs1 w1 && (f.form != 0 || pairOk f.vs2 w2) &&
      pairOk f.vd wd) = true := by
    rw [decide_eq_true hext, pairOk_iff.2 hvs1, hsecond, pairOk_iff.2 hvd]
    rfl
  show requires (laneCtx i f s) _ (awaiting i s) = _
  exact congrFun (if_pos hpairs) _

/-- An instruction without a first source asks nothing of vs1. -/
theorem RegsOk.no_first {f : W64} {s : State} {w1 w2 wd : Nat} (h : RegsOk f s w1 w2 wd) : RegsOk f s 0 w2 wd := by
  obtain ⟨hw, -, hvs2, hvd⟩ := h
  exact ⟨hw, .inl (Nat.zero_le _), hvs2, hvd⟩

/-- An instruction without a second source asks nothing of vs2. -/
theorem RegsOk.no_second {f : W64} {s : State} {w1 w2 wd : Nat} (h : RegsOk f s w1 w2 wd) : RegsOk f s w1 0 wd := by
  obtain ⟨hw, hvs1, -, hvd⟩ := h
  exact ⟨hw, hvs1, .inr (.inl (Nat.zero_le _)), hvd⟩

theorem opa_postedEntry {i : Instr} {op : BitVec 8} {f : W64} (hk : vecKey i = some (0, op, f)) (s : State) (hform : f.form = 1) :
    (postedEntry i s).opa = getR s f.rs := by
  simp [postedEntry, entryOf_lane hk, hform]

theorem uniform_laneCtx {i : Instr} {op : BitVec 8} {f : W64} (hk : vecKey i = some (0, op, f)) (s : State) :
    uniform (laneCtx i f s) = amountOf f s := by
  unfold uniform amountOf
  by_cases hform : f.form = 1
  · rw [laneCtx_e, opa_postedEntry hk s hform]
    rfl
  · rw [laneCtx_f, if_neg hform, if_neg hform]

theorem queueOf_lane {i : Instr} {op : BitVec 8} {f : W64} (hk : vecKey i = some (0, op, f)) (hform : f.form = 3) :
    queueOf i = some (fieldOf f.vs2 0 3) := by
  simp [queueOf, hk, hform]

/-- The second source, by form: what the vector side reads is what the thread had at the instruction (R58, R245). -/
theorem src2_laneCtx {i : Instr} {op : BitVec 8} {f : W64} {s : State} (hk : vecKey i = some (0, op, f)) (h : VecReady i s)
    (w e : Nat) : src2 (awaiting i s) (laneCtx i f s) w e = opB i f s w e := by
  obtain hform | hform | hform | hform : f.form = 0 ∨ f.form = 1 ∨ f.form = 2 ∨ f.form = 3 := by
    generalize f.form = x
    revert x
    decide
  · have hnat : f.form.toNat = 0 := by rw [hform]; rfl
    simp only [src2, opB, laneCtx_f, hnat]
    rfl
  · have hnat : f.form.toNat = 1 := by rw [hform]; rfl
    simp only [src2, opB, laneCtx_f, laneCtx_e, hnat, opa_postedEntry hk s hform]
  · have hnat : f.form.toNat = 2 := by rw [hform]; rfl
    simp only [src2, opB, laneCtx_f, hnat, immBits]
  · have hnat : f.form.toNat = 3 := by rw [hform]; rfl
    have hq := queueOf_lane hk hform
    obtain ⟨e, rest, he, hc, -, -, -, -⟩ := h.queueHead hq
    simp only [src2, opB, laneCtx_f, hnat, claimedEntry_awaiting hq he hc, hq, he]
    rfl

theorem joinFlags_none (l : List Nat) : joinFlags (l.map fun _ => 0) = 0 := by
  induction l with
  | nil => rfl
  | cons _ l ih =>
    rw [List.map_cons]
    exact ih

/-- An element-wise instruction without events writes its results at the active elements and raises no flag (R231). -/
theorem doing_mapActive_quiet (c : VCtx) (w : Nat) (g : State → Nat → Nat) (s : State) :
    doing (mapActive c w fun s e => (g s e, 0)) s =
      .ok () (putResults c w ((actives s.th.lanes c.f.mask).map fun e => (e, g s e)) 0 s) := by
  simp only [doing, mapActive, List.map_map, Function.comp_def, joinFlags_none]

end Sys2Proof.Claims
end

section
/-! PROOFS. The lane moves, slides and permutations (R254, R255, R257, R258). -/
namespace Sys2Proof.Claims
open Sys2Proof.Machine

/-! ### Elements by rank -/

/-- Listed with 0, 1, 2, …, an element that satisfies `p` meets the number of those below it (R257, R258). -/
theorem zip_rank (p : Nat → Bool) (g : Nat → Nat) (n : Nat) :
    ((List.range n).filter p).zip ((List.range ((List.range n).filter p).length).map g) =
      ((List.range n).filter p).map fun e => (e, g ((List.range e).filter p).length) := by
  induction n with
  | zero => rfl
  | succ n ih =>
    cases hn : p n with
    | false => simpa [List.range_succ, hn] using ih
    | true =>
      have hstep : (List.range (n + 1)).filter p = (List.range n).filter p ++ [n] := by simp [List.range_succ, hn]
      rw [hstep, List.length_append, List.length_singleton, List.range_succ, List.map_append,
        List.zip_append (by simp), ih, List.map_append]
      rfl

/-- The `k`-th element of a list, listed with `k`. -/
theorem zip_positions (a : Nat → Nat) (as : List Nat) :
    (List.range as.length).zip (as.map a) = (List.range as.length).map fun k => (k, a (as.getD k 0)) := by
  refine List.ext_getElem (by simp) fun k hk hk' => ?_
  have hlt : k < as.length := by simpa using hk'
  simp [hlt]

/-! ### The moves -/

/-- The effect of `i` writes what `moveOut` gives, at the elements where it gives something, and raises no flag. -/
def Moves (i : Instr) (f : W64) (s : State) : Prop :=
  ∃ (es : List Nat) (v : Nat → Nat), (∀ e, moveOut i f s e = if e ∈ es then some (v e) else none) ∧
    vecEffect i (laneCtx i f s) (awaiting i s) =
      .ok () (putResults (laneCtx i f s) (sewOf s) (es.map fun e => (e, v e)) 0 (awaiting i s))

@[simp] theorem mem_activeOf {f : W64} {s : State} {e : Nat} : e ∈ activeOf f s ↔ isActive f s e = true := by
  simp only [activeOf, List.mem_filter, List.mem_range, and_iff_right_iff_imp, isActive, Bool.and_eq_true, decide_eq_true_eq]
  exact And.left

theorem lt_vl_of_isActive {f : W64} {s : State} {e : Nat} (h : isActive f s e = true) : e < s.th.lanes.vl.toNat := by
  simp only [isActive, Bool.and_eq_true, decide_eq_true_eq] at h
  exact h.1

section
variable {op : BitVec 8} {f g : W64} {s : State}

theorem vmerge_moves (hk : vecKey (.vmerge g) = some (0, op, f)) (h : VecReady (.vmerge g) s)
    (hr : RegsOk f s (sewOf s) (sewOf s) (sewOf s)) : Moves (.vmerge g) f s :=
  ⟨List.range s.th.lanes.vl.toNat,
    fun e => if maskBit s.th.lanes f.mask.toNat e then opA f s e
      else src2 (awaiting (.vmerge g) s) (laneCtx (.vmerge g) f s) (sewOf s) e,
    fun e => by simp [moveOut, src2_laneCtx hk h],
    bind_ok (laneChecks_ok hr)⟩

theorem vmv_moves (hk : vecKey (.vmv g) = some (0, op, f)) (h : VecReady (.vmv g) s)
    (hr : RegsOk f s (sewOf s) (sewOf s) (sewOf s)) : Moves (.vmv g) f s :=
  ⟨activeOf f s, fun e => src2 (awaiting (.vmv g) s) (laneCtx (.vmv g) f s) (sewOf s) e,
    fun e => by simp [moveOut, src2_laneCtx hk h],
    (bind_ok (laneChecks_ok hr.no_first)).trans (doing_mapActive_quiet ..)⟩

theorem vslup_moves (hk : vecKey (.vslup g) = some (0, op, f))
    (hr : RegsOk f s (sewOf s) (sewOf s) (sewOf s)) : Moves (.vslup g) f s :=
  ⟨(activeOf f s).filter fun e => uniform (laneCtx (.vslup g) f s) ≤ e,
    fun e => opA f s (e - uniform (laneCtx (.vslup g) f s)),
    fun e => by simp [moveOut, uniform_laneCtx hk],
    bind_ok (laneChecks_ok hr.no_second)⟩

theorem vsldn_moves (hk : vecKey (.vsldn g) = some (0, op, f))
    (hr : RegsOk f s (sewOf s) (sewOf s) (sewOf s)) : Moves (.vsldn g) f s :=
  ⟨activeOf f s,
    fun e => if e + uniform (laneCtx (.vsldn g) f s) < s.th.lanes.vl.toNat
      then opA f s (e + uniform (laneCtx (.vsldn g) f s)) else 0,
    fun e => by simp [moveOut, uniform_laneCtx hk],
    (bind_ok (laneChecks_ok hr.no_second)).trans (doing_mapActive_quiet ..)⟩

theorem vperm_moves (hk : vecKey (.vperm g) = some (0, op, f)) (h : VecReady (.vperm g) s)
    (hr : RegsOk f s (sewOf s) (sewOf s) (sewOf s)) : Moves (.vperm g) f s :=
  ⟨activeOf f s,
    fun e => if src2 (awaiting (.vperm g) s) (laneCtx (.vperm g) f s) (sewOf s) e < s.th.lanes.vl.toNat
      then opA f s (src2 (awaiting (.vperm g) s) (laneCtx (.vperm g) f s) (sewOf s) e) else 0,
    fun e => by simp [moveOut, src2_laneCtx hk h],
    (bind_ok (laneChecks_ok hr)).trans (doing_mapActive_quiet ..)⟩

/-- The active elements, each listed with a value of its rank. -/
theorem zip_activeOf (v : Nat → Nat) :
    (activeOf f s).zip ((List.range (activeOf f s).length).map v) =
      (activeOf f s).map fun e => (e, v ((List.range e).filter (isActive f s)).length) :=
  zip_rank _ v _

theorem vcompr_moves (hr : RegsOk f s (sewOf s) (sewOf s) (sewOf s)) : Moves (.vcompr g) f s := by
  refine ⟨List.range (activeOf f s).length, fun e => opA f s ((activeOf f s).getD e 0), fun e => by simp [moveOut], ?_⟩
  rw [← zip_positions]
  exact bind_ok (laneChecks_ok hr.no_second)

theorem vexpnd_moves (hr : RegsOk f s (sewOf s) (sewOf s) (sewOf s)) : Moves (.vexpnd g) f s := by
  refine ⟨activeOf f s, fun e => opA f s ((List.range e).filter (isActive f s)).length, fun e => by simp [moveOut], ?_⟩
  rw [← zip_activeOf (opA f s)]
  exact bind_ok (laneChecks_ok hr.no_second)

theorem viota_moves (hr : RegsOk f s (sewOf s) (sewOf s) (sewOf s)) : Moves (.viota g) f s := by
  refine ⟨activeOf f s, fun e => ((List.range e).filter (isActive f s)).length % 2 ^ sewOf s, fun e => by simp [moveOut], ?_⟩
  rw [← zip_activeOf (· % 2 ^ sewOf s)]
  exact bind_ok (laneChecks_ok hr.no_first.no_second)

end

/-- The moves are issued to the VIQ as every LANE instruction is. -/
theorem isMove_postsPlainly {i : Instr} (hi : isMove i = true) : PostsPlainly i := by
  cases i
  case vmerge | vmv | vslup | vsldn | vperm | vcompr | vexpnd | viota => exact ⟨fun _ => rfl, rfl, fun _ _ => rfl⟩
  all_goals exact absurd hi Bool.false_ne_true

theorem isMove_moves {i : Instr} {op : BitVec 8} {f : W64} {s : State} (hi : isMove i = true)
    (hk : vecKey i = some (0, op, f)) (h : VecReady i s) (hr : RegsOk f s (sewOf s) (sewOf s) (sewOf s)) : Moves i f s := by
  cases i
  case vmerge => exact vmerge_moves hk h hr
  case vmv => exact vmv_moves hk h hr
  case vslup => exact vslup_moves hk hr
  case vsldn => exact vsldn_moves hk hr
  case vperm => exact vperm_moves hk h hr
  case vcompr => exact vcompr_moves hr
  case vexpnd => exact vexpnd_moves hr
  case viota => exact viota_moves hr
  all_goals exact absurd hi Bool.false_ne_true

/-! ### What the moves give is an element below VL, of SEW bits -/

theorem opA_lt {f : W64} {s : State} (hs : SewOk s) (e : Nat) : opA f s e < 2 ^ sewOf s := elemOf_lt _ _ _ hs.2

theorem opB_lt {i : Instr} {f : W64} {s : State} (hs : SewOk s) (e : Nat) : opB i f s (sewOf s) e < 2 ^ sewOf s := by
  have hpos := Nat.two_pow_pos (sewOf s)
  unfold opB
  split
  · exact elemOf_lt _ _ _ hs.2
  · exact Nat.mod_lt _ hpos
  · exact Nat.mod_lt _ hpos
  · split
    · exact hpos
    · exact Nat.mod_lt _ hpos

theorem length_activeOf_le (f : W64) (s : State) : (activeOf f s).length ≤ s.th.lanes.vl.toNat := by
  simpa [activeOf] using List.length_filter_le (isActive f s) (List.range s.th.lanes.vl.toNat)

/-- A move writes below VL, and what it writes fits SEW. -/
theorem moveOut_some {i : Instr} {f : W64} {s : State} {e x : Nat} (hs : SewOk s) (h : moveOut i f s e = some x) :
    e < s.th.lanes.vl.toNat ∧ x < 2 ^ sewOf s := by
  have hA := opA_lt (f := f) hs
  have hB := opB_lt (i := i) (f := f) hs
  have hpos := Nat.two_pow_pos (sewOf s)
  have hact : isActive f s e = true → e < s.th.lanes.vl.toNat := lt_vl_of_isActive
  have hlen := length_activeOf_le f s
  unfold moveOut at h
  split at h <;> simp only [Option.ite_none_right_eq_some, Option.some.injEq, reduceCtorEq] at h <;> obtain ⟨hc, rfl⟩ := h
  case h_1 => exact ⟨hc, by split <;> simp only [hA, hB]⟩
  case h_2 => exact ⟨hact hc, hB e⟩
  case h_3 => exact ⟨hact hc.1, hA _⟩
  case h_4 => exact ⟨hact hc, by split <;> simp only [hA, hpos]⟩
  case h_5 => exact ⟨hact hc, by split <;> simp only [hA, hpos]⟩
  case h_6 => exact ⟨Nat.lt_of_lt_of_le hc hlen, hA _⟩
  case h_7 => exact ⟨hact hc, hA _⟩
  case h_8 => exact ⟨hact hc, Nat.mod_lt _ hpos⟩

/-! ### What the results of a lone instruction leave -/

theorem finished_putResults (i : Instr) (f : W64) (s : State) (w : Nat) (xs : List (Nat × Nat)) (fl : Nat) :
    finished i s (putResults (laneCtx i f s) w xs fl (awaiting i s)) = { s with th := { doneThread i s with
      lanes := writeElems s.th.lanes f.vd.toNat w (xs ++ (tailElems s.th.lanes f).map fun e => (e, 0))
      csr := { (doneThread i s).csr with sflags := s.th.csr.sflags ||| BitVec.ofNat 64 (fl % 16) } } } := by
  simp only [finished, putResults, updLanes, updTh, orFlags, awaiting, doneThread, laneCtx]

theorem finished_putResults_frame (i : Instr) (f : W64) (s : State) (w : Nat) (xs : List (Nat × Nat)) (fl : Nat) :
    VecFrame i s (finished i s (putResults (laneCtx i f s) w xs fl (awaiting i s))) := by
  have hl := writeElems_sameButPlanes s.th.lanes f.vd.toNat w (xs ++ (tailElems s.th.lanes f).map fun e => (e, 0))
  rw [finished_putResults, hl]
  rfl

theorem finished_putResults_writesVd {i : Instr} {f : W64} {s : State} {w fl : Nat} {es : List Nat} {v : Nat → Nat}
    {res : Nat → Option Nat} (hw : w ≤ 32) (hres : ∀ e, res e = if e ∈ es then some (v e) else none)
    (hsome : ∀ e x, res e = some x → e < s.th.lanes.vl.toNat ∧ x < 2 ^ w) :
    WritesVd f w s (finished i s (putResults (laneCtx i f s) w (es.map fun e => (e, v e)) fl (awaiting i s))) res := by
  intro e he
  have hes : ∀ a ∈ es, a < s.th.lanes.vl.toNat ∧ v a < 2 ^ w := fun a ha => hsome a (v a) (by rw [hres, if_pos ha])
  have hall := writeElems_tail_holds (f := f) f.vd.toNat he hw (fun a ha => (hes a ha).1) fun a ha => (hes a ha).2
  rw [hres]
  by_cases hmem : e ∈ es
  · rw [if_pos hmem] at hall ⊢
    exact hall
  · rw [if_neg hmem] at hall ⊢
    exact hall

/-! ### The statement -/

/-- Settles O9: each move, alone in the VIQ, writes what `moveOut` gives at its elements and zeros in the tail, and joins no
event to SFLAGS. -/
theorem laneMoves : Obligations.LaneMoves := by
  unfold Obligations.LaneMoves
  intro i op f s hk hi h hs hr
  obtain ⟨es, v, hout, heff⟩ := isMove_moves hi hk h hr
  refine executes_of_effect (isMove_postsPlainly hi) hk h heff rfl rfl ⟨finished_putResults_frame .., ?_, ?_⟩
  · exact finished_putResults_writesVd hs.2 hout fun e x => moveOut_some hs
  · show s.th.csr.sflags ||| BitVec.ofNat 64 (0 % 16) = s.th.csr.sflags
    simp

end Sys2Proof.Claims
end

section
/-! SUPPORT. The scalar ALU and the branches: the model's operations on doublewords are those of R361 to R364, and what a
result written to rd and a branch leave (R75, R361, R366). -/
namespace Sys2Proof.Machine
open Sys2Proof.Claims

/-! ### Operations on doublewords -/

theorem shiftLeft_eq (a b : Word) : shiftLeft a b = a <<< (b % 64).toNat := by simp [shiftLeft]

theorem shiftRight_eq (a b : Word) : shiftRight a b = a >>> (b % 64).toNat := by simp [shiftRight]

theorem shiftArith_eq (a b : Word) : shiftArith a b = a.sshiftRight (b % 64).toNat := by simp [shiftArith]

/-- A shift amount of the immediate forms is below 64. -/
theorem toNat_setWidth_mod (n : BitVec 6) : (n.setWidth 64).toNat % 64 = n.toNat := by
  have hn : n.toNat < 64 := n.isLt
  rw [BitVec.toNat_setWidth]
  omega

/-- A sign-extended immediate shifted left is the immediate times a power of two. -/
theorem signExtend_shiftLeft {w : Nat} (x : BitVec w) (k : Nat) :
    x.signExtend 64 <<< k = BitVec.ofInt 64 (x.toInt * 2 ^ k) := by
  have hpow : BitVec.twoPow 64 k = BitVec.ofInt 64 (2 ^ k) := calc
    BitVec.twoPow 64 k = BitVec.ofNat 64 (2 ^ k) := BitVec.eq_of_toNat_eq (by rw [BitVec.toNat_twoPow, BitVec.toNat_ofNat])
    _ = BitVec.ofInt 64 (2 ^ k) := by exact_mod_cast (BitVec.ofInt_natCast 64 (2 ^ k)).symm
  rw [BitVec.shiftLeft_eq_mul_twoPow, BitVec.ofInt_mul, BitVec.signExtend, hpow]

theorem signed_imm12 (i : BitVec 12) : signed (imm12 i) = i.toInt := BitVec.toInt_signExtend_of_le (by decide)

theorem smin_eq (a b : Word) : (if b.slt a then b else a) = BitVec.ofInt 64 (min (signed a) (signed b)) := by
  have hmin : min (signed a) (signed b) = if signed b < signed a then signed b else signed a := by omega
  rw [hmin, apply_ite (BitVec.ofInt 64)]
  simp only [signed, BitVec.slt_iff_toInt_lt, BitVec.ofInt_toInt]

theorem smax_eq (a b : Word) : (if a.slt b then b else a) = BitVec.ofInt 64 (max (signed a) (signed b)) := by
  have hmax : max (signed a) (signed b) = if signed a < signed b then signed b else signed a := by omega
  rw [hmax, apply_ite (BitVec.ofInt 64)]
  simp only [signed, BitVec.slt_iff_toInt_lt, BitVec.ofInt_toInt]

theorem umin_eq (a b : Word) : (if b.ult a then b else a) = BitVec.ofNat 64 (min a.toNat b.toNat) := by
  have hmin : min a.toNat b.toNat = if b.toNat < a.toNat then b.toNat else a.toNat := by
    split <;> omega
  rw [hmin, apply_ite (BitVec.ofNat 64)]
  simp only [BitVec.ult_iff_lt, BitVec.lt_def, BitVec.ofNat_toNat, BitVec.setWidth_eq]

theorem umax_eq (a b : Word) : (if a.ult b then b else a) = BitVec.ofNat 64 (max a.toNat b.toNat) := by
  have hmax : max a.toNat b.toNat = if a.toNat < b.toNat then b.toNat else a.toNat := by
    split <;> omega
  rw [hmax, apply_ite (BitVec.ofNat 64)]
  simp only [BitVec.ult_iff_lt, BitVec.lt_def, BitVec.ofNat_toNat, BitVec.setWidth_eq]

/-- The low doubleword of the signed product is that of the unsigned one (R362). -/
theorem mul_eq_ofInt_signed (a b : Word) : a * b = BitVec.ofInt 64 (signed a * signed b) := by
  rw [BitVec.ofInt_mul, signed, signed, BitVec.ofInt_toInt, BitVec.ofInt_toInt]

/-- Bits [127:64] of an integer, from its 128 low bits. -/
theorem setWidth_ofInt_ushiftRight (z : Int) : ((BitVec.ofInt 128 z) >>> 64).setWidth 64 = BitVec.ofInt 64 (z / 2 ^ 64) := by
  apply BitVec.eq_of_toNat_eq
  rw [BitVec.toNat_setWidth, BitVec.toNat_ushiftRight, Nat.shiftRight_eq_div_pow, BitVec.toNat_ofInt, BitVec.toNat_ofInt]
  omega

theorem mulHigh_eq (a b : Word) : mulHigh a b = ((a.signExtend 128 * b.signExtend 128) >>> 64).setWidth 64 := by
  have hprod : a.signExtend 128 * b.signExtend 128 = BitVec.ofInt 128 (a.toInt * b.toInt) := (BitVec.ofInt_mul ..).symm
  rw [hprod, setWidth_ofInt_ushiftRight, mulHigh, Int.fdiv_eq_ediv_of_nonneg _ (by decide)]

theorem mulHighU_eq (a b : Word) : mulHighU a b = ((a.setWidth 128 * b.setWidth 128) >>> 64).setWidth 64 := by
  have hprod : a.setWidth 128 * b.setWidth 128 = BitVec.ofInt 128 ((a.toNat * b.toNat : Nat) : Int) := by
    rw [BitVec.ofInt_natCast, BitVec.ofNat_mul, BitVec.ofNat_toNat, BitVec.ofNat_toNat]
  rw [hprod, setWidth_ofInt_ushiftRight, mulHighU]
  exact (BitVec.ofInt_natCast 64 (a.toNat * b.toNat / 2 ^ 64)).symm

theorem sdiv_eq_ofInt (a b : Word) : a.sdiv b = BitVec.ofInt 64 ((signed a).tdiv (signed b)) :=
  BitVec.eq_of_toInt_eq (by rw [BitVec.toInt_sdiv, BitVec.toInt_ofInt, signed, signed])

theorem srem_eq_ofInt (a b : Word) : a.srem b = BitVec.ofInt 64 ((signed a).tmod (signed b)) := by
  rw [signed, signed, ← BitVec.toInt_srem, BitVec.ofInt_toInt]

theorem wordMin_eq : wordMin = BitVec.intMin 64 := by decide

theorem wordMax_eq : wordMax = BitVec.intMax 64 := by decide

theorem neg_one_eq_allOnes : (-1 : Word) = BitVec.allOnes 64 := by decide

theorem slt_zero_iff (a : Word) : a.slt 0 = true ↔ signed a < 0 := BitVec.slt_iff_toInt_lt

theorem quotient_eq (a b : Word) : quotient a b = divS a b := by
  simp only [quotient, divS, wordMin_eq, wordMax_eq, neg_one_eq_allOnes, slt_zero_iff, sdiv_eq_ofInt]

theorem quotientU_eq (a b : Word) : quotientU a b = divU a b := by
  have hdiv : a / b = BitVec.ofNat 64 (a.toNat / b.toNat) := by
    rw [← BitVec.toNat_udiv, BitVec.ofNat_toNat, BitVec.setWidth_eq]
  simp only [quotientU, divU, neg_one_eq_allOnes, hdiv]

theorem remainder_eq (a b : Word) : remainder a b = remS a b := by
  simp only [remainder, remS, wordMin_eq, neg_one_eq_allOnes, srem_eq_ofInt]
  by_cases hb : b = 0
  · rw [if_pos (.inl hb), if_pos hb]
  · simp only [hb, false_or, if_false]

theorem remainderU_eq (a b : Word) : remainderU a b = remU a b := by
  have hmod : a % b = BitVec.ofNat 64 (a.toNat % b.toNat) := by
    rw [← BitVec.toNat_umod, BitVec.ofNat_toNat, BitVec.setWidth_eq]
  simp only [remainderU, remU, hmod]

/-! ### What a result written to rd leaves -/

/-- A register write changes scalar registers alone, s62 in trap mode among them (R75). -/
theorem setRegOf_onlyScalars (th : Thread) (r : Reg) (v : Word) : setRegOf th r v =
    { th with sr := (setRegOf th r v).sr, trap := { th.trap with hs := (setRegOf th r v).trap.hs } } := by
  unfold setRegOf
  split
  · rfl
  · split <;> rfl

theorem advance_setR_onlyScalars (d : Reg) (v : Word) (s : State) (n : Nat) : OnlyScalars s (advance (setR s d v) n) := by
  have hth := setRegOf_onlyScalars s.th d v
  unfold OnlyScalars
  simp only [advance, setPc, setR]
  rw [hth]

/-- The instruction's result goes to rd, s0 discarding it, PC moves past the parcel, and nothing else changes. -/
theorem aluStep_writes (d : Reg) (v : Word) (s : State) : ∃ t, aluStep d v s = .next t ∧
    getR t d = (if d = 0 then 0 else v) ∧ t.th.pc = s.th.pc + 4 ∧ OtherRegs d s t ∧ OnlyScalars s t := by
  refine ⟨advance (setR s d v) 4, rfl, ?_, ?_, ⟨getR_zero _, fun r hr => ?_⟩, advance_setR_onlyScalars d v s 4⟩
  · rw [getR_advance, getR_setR_same]
  · rw [advance_th, setR_th, setRegOf_pc]
    rfl
  · rw [getR_advance, getR_setR_other s v hr]

/-! ### What a branch leaves -/

theorem branchStep_eq (c : Bool) (o : BitVec 12) (s : State) :
    branchStep c o s = .next (setPc s (if c then s.th.pc + BitVec.ofInt 64 (o.toInt * 4) else s.th.pc + 4)) := by
  rw [branchStep, signExtend_shiftLeft]
  cases c <;> rfl

theorem not_slt_eq_decide (a b : Word) : (!a.slt b) = decide (signed b ≤ signed a) := by
  rw [BitVec.slt_eq_decide, ← decide_not, signed, signed, decide_eq_decide.2 Int.not_lt]

theorem not_ult_eq_decide (a b : Word) : (!a.ult b) = decide (b.toNat ≤ a.toNat) := by
  rw [BitVec.ult_eq_decide, ← decide_not, decide_eq_decide.2 Nat.not_lt]

/-- JTAB's index is cut at the table's length, so that one out of range goes just past the table (R367). -/
theorem execJtab_eq (a : Reg) (n : BitVec 12) (s : State) :
    execJtab a n s = .next (setPc s (s.th.pc + 4 + BitVec.ofNat 64 (4 * min (getR s a).toNat n.toNat))) := by
  have hcut : (if (getR s a).toNat < n.toNat then 4 + 4 * (getR s a).toNat else 4 + 4 * n.toNat) =
      4 + 4 * min (getR s a).toNat n.toNat := by
    split <;> omega
  simp only [execJtab, advance]
  rw [hcut, BitVec.ofNat_add, ← BitVec.add_assoc]
  rfl

end Sys2Proof.Machine
end

section
/-! PROOFS. The branches and the results of the scalar ALU (R361-R364, R366, R367). -/
namespace Sys2Proof.Claims
open Sys2Proof.Machine

/-- A branch sets PC to its target: the six that compare are `branchStep` at R366's comparison, J and JTAB set PC alone. -/
theorem exec_of_branchTarget {i : Instr} {s : State} {pc : Word} (h : branchTarget i s = some pc) :
    exec i s = .next (setPc s pc) := by
  cases i
  case beq | blt | bltu => cases h; exact branchStep_eq ..
  case bne => cases h; simp only [ne_eq, decide_not]; exact branchStep_eq ..
  case bge => cases h; rw [← not_slt_eq_decide]; exact branchStep_eq ..
  case bgeu => cases h; rw [← not_ult_eq_decide]; exact branchStep_eq ..
  case j o => cases h; exact congrArg (fun x => Host.Outcome.next (setPc s (s.th.pc + x))) (signExtend_shiftLeft o 2)
  case jtab => cases h; exact execJtab_eq ..
  all_goals exact absurd h nofun

/-- Settles O3: setting PC to the target is the whole effect of a branch. -/
theorem branches : Obligations.Branches := by
  unfold Obligations.Branches
  intro i s pc h
  exact exec_of_branchTarget h

/-- Each register ALU instruction writes to rd what Table 12-4, R362 and R363 give. -/
theorem exec_of_aluValue {i : Instr} {s : State} {d : Reg} {v : Word} (h : aluValue i s = some (d, v)) :
    exec i s = aluStep d v s := by
  cases i
  case add | sub | and | or | xor | andn | slt | sltu => cases h; rfl
  case sll => cases h; exact congrArg (aluStep d · s) (shiftLeft_eq ..)
  case srl => cases h; exact congrArg (aluStep d · s) (shiftRight_eq ..)
  case sra => cases h; exact congrArg (aluStep d · s) (shiftArith_eq ..)
  case min => cases h; exact congrArg (aluStep d · s) (smin_eq ..)
  case max => cases h; exact congrArg (aluStep d · s) (smax_eq ..)
  case minu => cases h; exact congrArg (aluStep d · s) (umin_eq ..)
  case maxu => cases h; exact congrArg (aluStep d · s) (umax_eq ..)
  case mul => cases h; exact congrArg (aluStep d · s) (mul_eq_ofInt_signed ..)
  case mulh => cases h; exact congrArg (aluStep d · s) (mulHigh_eq ..)
  case mulhu => cases h; exact congrArg (aluStep d · s) (mulHighU_eq ..)
  case div => cases h; exact congrArg (aluStep d · s) (quotient_eq ..)
  case divu => cases h; exact congrArg (aluStep d · s) (quotientU_eq ..)
  case rem => cases h; exact congrArg (aluStep d · s) (remainder_eq ..)
  case remu => cases h; exact congrArg (aluStep d · s) (remainderU_eq ..)
  all_goals exact absurd h nofun

/-- Each immediate ALU instruction, LDIH and ADDPC write to rd what R361 and R364 give. -/
theorem exec_of_aluImmValue {i : Instr} {s : State} {d : Reg} {v : Word} (h : aluImmValue i s = some (d, v)) :
    exec i s = aluStep d v s := by
  cases i
  case addi | andi | ori | xori | sltiu => cases h; rfl
  case slli d a n => cases h; exact congrArg (fun k => aluStep d (getR s a <<< k) s) (toNat_setWidth_mod n)
  case srli d a n => cases h; exact congrArg (fun k => aluStep d (getR s a >>> k) s) (toNat_setWidth_mod n)
  case srai d a n => cases h; exact congrArg (fun k => aluStep d ((getR s a).sshiftRight k) s) (toNat_setWidth_mod n)
  case slti d a imm => cases h; rw [← signed_imm12]; rfl
  case ldih => cases h; exact congrArg (aluStep d · s) (signExtend_shiftLeft ..)
  case addpc => cases h; exact congrArg (fun x => aluStep d (s.th.pc + x) s) (signExtend_shiftLeft ..)
  all_goals exact absurd h nofun

/-- Settles O43: every ALU instruction is `aluStep` at its value, which writes rd and moves PC on. -/
theorem aluResults : Obligations.AluResults := by
  unfold Obligations.AluResults
  exact ⟨fun _ s d v h => exec_of_aluValue h ▸ aluStep_writes d v s,
    fun _ s d v h => exec_of_aluImmValue h ▸ aluStep_writes d v s⟩

end Sys2Proof.Claims
end
